-- ==== Sys2Proof/Word.lean ====
section
/-!
DEFINITION. The word types of the Chathal C2 and nothing else: little-endian bytes (R13), the
32-bit word of g registers (R199), the 64-bit word of x registers, the 4,096-bit vector register
(R278) and the 128-bit lane mask (R278).
-/
namespace Sys2Proof

/-- One byte of memory (R13). -/
abbrev Byte := BitVec 8

/-- A g register, a control register, an accumulator element (R199, R240, R314). -/
abbrev Word := BitVec 32

/-- An x register and a 64-bit control register (R199, R238). -/
abbrev DWord := BitVec 64

/-- A vector register: byte `k` is bits `8k+7 : 8k` (R278). -/
abbrev Vec := BitVec 4096

/-- A lane mask: bit L belongs to lane L (R278). -/
abbrev Mask := BitVec 128

end Sys2Proof
end

