-- ==== Sys2Proof/Config.lean ====
section
/-!
DEFINITION. What an implementation fixes and what the manual leaves open. An `opaque` constant here
has no body: nothing can be proved about its value, so a claim that holds, holds for every value
(log 3). Each is applied to the counter `State.freeIx` or to the data it depends on.
-/
namespace Sys2Proof.Config

/-- R67, R122, R138: the local cue from which early reads of a word of memory find a write in flight: of the write of a
number, at a place, by a stream in a class. It does not change from read to read, so that the reads of one requester in one
class never run backwards. -/
opaque raceFrom : Nat → Nat → Nat → Nat

/-- R67, R132: whether a read that races with a pending write returns the new value. The first
argument is the counter of free values, the second names the register, element or word read. -/
opaque racePick : Nat → Nat → Bool

/-- R396: the bits that a word carries under a poison mark when nothing gave it a value: a read of an
unpopulated address, a timed-out read. -/
opaque poisonBits : Nat → BitVec 64

/-- R404, R405, R406: the class a self-test of a unit finds (0 passed, 1 transient, 2 lasting). -/
opaque selfTestClass : Nat → BitVec 2

/-- R2, R446: the cores that a die lacks once the boot has tested its cores and remapped spares. -/
opaque coresLost : Nat → Nat → Nat

/-- R405: whether a physical spare remains for a unit found lasting. -/
opaque spareRemains : Nat → Bool

/-- R447: the SM2 signature of the identity store's private key over a digest; the key never leaves
the store and SM2 signing draws a random number, so no value is fixed. -/
opaque sm2Sign : Nat → List Byte → List Byte

/-- R443, R447: the certificate chain the identity store holds. -/
opaque certificate : List Byte

/-- R270: the core image key that the identity store holds for a core; it never leaves the store. -/
opaque coreImageKey : Nat → BitVec 128

/-- R443: the body of an answer to a sideband message whose contents the manual does not give. -/
opaque sidebandBody : Nat → List Byte → List Byte

/-- R370: the largest house cue among the other reachable packages of an ALIGNC scope, compensated
for the measured delays. -/
opaque otherCues : Nat → Nat

/-- R370: whether a core of another package of an ALIGNC scope has a launch armed or running. -/
opaque otherGoing : Nat → Bool

/-- R448: a reading of a sensor, by the counter of free values and the sensor. -/
opaque sensor : Nat → Nat → BitVec 32

/-- R428, R429: what the cast cores of the other member packages say of a launch: bits 0 to 2 whether causes 6, 10 and 11
hold of one, bit 3 whether one is not eligible. -/
opaque otherCast : Nat → BitVec 4

/-- R343, R408, R441: the die of each CXL port of a package, of its host port at number 16, modulo 8; the manual
names none. -/
opaque portDie : Nat → Nat

/-- R349: the 4-byte direction code of a link; the manual gives none. -/
opaque directionCode : Nat → BitVec 32

/-- R107, R111: a byte of another package's memory, by the counter of free values and its address. -/
opaque farByte : Nat → Nat → BitVec 8

/-- R344: whether the landing queue of a die that already holds packets has no room for another; the manual gives
no size. -/
opaque landingFull : Nat → Bool

/-- R85, R147: a spurious wake is an event of the agenda; this bounds nothing. The number of entries
of the scalar TLB (R112). -/
def tlbEntries : Nat := 128

/-- Entries of a stream TLB (R112). -/
def streamTlbEntries : Nat := 64

/-- Dies of the package and cores of a die (R1). -/
def dies : Nat := 8
def coresPerDie : Nat := 16

end Sys2Proof.Config
end

