-- ==== Sys2Proof/Machine/Bits.lean ====
section
/-!
DEFINITION. Bit fields, extension, clamping and little-endian bytes: the helpers of R177 that only
compute.
-/
namespace Sys2Proof.Machine

/-- `bits(v, hi, lo)` of R177. -/
def bits (v hi lo : Nat) : Nat := v / 2 ^ lo % 2 ^ (hi + 1 - lo)

/-- One bit of a number. -/
def bitAt (v i : Nat) : Bool := v / 2 ^ i % 2 == 1

/-- `sext(v, w)` of R177: the `w`-bit value `v` read as two's complement. -/
def sext (v w : Nat) : Int :=
  let u := v % 2 ^ w
  if 2 * u < 2 ^ w then (u : Int) else (u : Int) - (2 ^ w : Nat)

/-- `clamp(v, lo, hi)` of R177: the low bound is tried first. -/
def clamp (v lo hi : Int) : Int := if v < lo then lo else if hi < v then hi else v

/-- An integer reduced modulo `2 ^ w`. -/
def wrap (v : Int) (w : Nat) : Nat := (v % ((2 ^ w : Nat) : Int)).toNat

/-- The 32-bit word of an integer, modulo `2 ^ 32`. -/
def toWord (v : Int) : Word := BitVec.ofInt 32 v

/-- The `n` bytes of `v`, lowest first (R13). -/
def toLe : Nat → Nat → List Byte
  | 0, _ => []
  | n + 1, v => BitVec.ofNat 8 v :: toLe n (v / 256)

/-- The number whose bytes stand lowest first (R13). -/
def ofLe : List Byte → Nat
  | [] => 0
  | b :: bs => b.toNat + 256 * ofLe bs

/-- `BitVec` of a Boolean as 0 or 1. -/
def b2n (b : Bool) : Nat := if b then 1 else 0

/-- Element `i` of `w` bits of a packed number (R13, R167). -/
def elemAt (v w i : Nat) : Nat := v / 2 ^ (w * i) % 2 ^ w

/-- The numbers `lo`, `lo + 1`, and so on, `n` of them. -/
def upFrom : Nat → Nat → List Nat
  | _, 0 => []
  | lo, n + 1 => lo :: upFrom (lo + 1) n

/-- A packed number of the `w`-bit elements of a list, element 0 lowest. -/
def packElems (w : Nat) : List Nat → Nat
  | [] => 0
  | e :: es => e % 2 ^ w + 2 ^ w * packElems w es

/-- `floor(log2 n)`, 0 for 0. -/
def log2 (n : Nat) : Nat := n.log2

/-- Pieces of at most `n` members of a list; `fuel` bounds their number. -/
def chunksOf (n : Nat) {α : Type} : Nat → List α → List (List α)
  | 0, _ => []
  | fuel + 1, l => if l.isEmpty then [] else l.take n :: chunksOf n fuel (l.drop n)

/-- Insertion into a list sorted by `lt`, after every member that is not greater (stable). -/
def insertBy {α : Type} (lt : α → α → Bool) (x : α) : List α → List α
  | [] => [x]
  | y :: ys => if lt x y then x :: y :: ys else y :: insertBy lt x ys

/-- Stable insertion sort. -/
def sortBy {α : Type} (lt : α → α → Bool) (l : List α) : List α :=
  l.foldl (fun acc x => insertBy lt x acc) []

end Sys2Proof.Machine
end

