-- ==== Sys2Proof/Syntax.lean ====
section
/-!
DEFINITION. The instructions of the Chathal C2 as data: one constructor of `Instr` per row of
spec/opcode_table.json. 138 scalar words (R157 to R162), 58 vector words (R165 to R169), 15 matrix
words (R171 to R173), and 99 events, the part's steps that no word encodes (95_what_each_step_holds).
-/
namespace Sys2Proof

/-- The element types of R14 in the order of their type codes. -/
inductive ElemTy
  | f32 | f16 | bf16 | e4m3 | e5m2 | se2 | se4 | se7
  | i32 | i16 | i8 | i4 | n32 | n16 | n8 | n4
deriving DecidableEq, Repr

/-- The rounding modes of R20 in the order of their codes. -/
inductive RMode
  | rne | rtz | rdn | rup
deriving DecidableEq, Repr

/-- The common fields of a scalar word (R157): idle count, guard predicate, guard sense. -/
structure SHdr where
  idle : BitVec 3
  gp : BitVec 3
  gs : Bool
deriving DecidableEq, Repr

/-- A vector operand specifier (R166). `v 0` is also the all-zero field of an absent operand. -/
inductive Spec
  | v (n : BitVec 5)
  | q (n : BitVec 3)
  | row (tile : BitVec 4) (gi pair : BitVec 5)
  | col (tile : BitVec 4) (gi pair : BitVec 5)
  | sp (gb : BitVec 5) (str : BitVec 4) (off : BitVec 8)
  | g (n : BitVec 5)
  | imm (v : BitVec 16)
  | y (n : BitVec 3)
deriving DecidableEq, Repr

/-- A vector word (R165) without its opcode, which the constructor of `Instr` is. -/
structure VWord where
  idle : BitVec 4
  msk : BitVec 3
  msn : Bool
  etype : ElemTy
  cls : BitVec 4
  nv : BitVec 2
  rnd : RMode
  sat : Bool
  rlxo : Bool
  rlxv : Bool
  fn : BitVec 5
  d : Spec
  a : Spec
  b : Spec
deriving DecidableEq, Repr

/-- A matrix word (R171) without its opcode; reserved bits 6:0 are zero. -/
structure MWord where
  stamp : BitVec 20
  slot : BitVec 2
  cls : BitVec 4
  tp : BitVec 6
  tc0 : BitVec 6
  tc1 : BitVec 6
  tc2 : BitVec 6
  tile : BitVec 4
  ovw : Bool
  nr : BitVec 2
  nc : BitVec 2
  atr : Bool
  btr : Bool
  bsrc : BitVec 2
  abase : BitVec 15
  astr : BitVec 8
  bbase : BitVec 15
  aisc : BitVec 2
  bisc : BitVec 2
  ainc : BitVec 36
  binc : BitVec 36
deriving DecidableEq, Repr

/-- A fabric packet (R342): header fields and payload bytes. -/
structure Packet where
  type : Nat
  cls : Nat
  rlx : Bool
  ver : Bool
  srcPkg : Nat
  srcDie : Nat
  srcCore : Nat
  owner : Nat
  dstPkg : Nat
  dstDie : Nat
  dstCore : Nat
  seq : Nat
  tag : Nat
  age : Nat
  addr : Nat
  aux : Nat
  payload : List Byte
  /-- R344: how often this packet was refused busy. -/
  busy : Nat
  /-- R442: for a pool address, the entry of the pool routing table under which the packet left; 0 for none. -/
  route : Nat
  /-- Not in the header of R342 (log 48): the `SEQ` that an acknowledgement answers, with the refusal causes of its
  elements; the poison of the payload's words, bit i for word i. -/
  ack : Nat
  causes : List Nat
  marks : Nat
deriving DecidableEq, Repr

/-- The agent of a register-page access or of a fault (R401 `REQ`). -/
structure Requester where
  kind : Nat := 0
  pkg : Nat := 0
  die : Nat := 0
  core : Nat := 0
  /-- `WHO` of a record about it (R401). -/
  who : Nat := 0
  /-- It is known by a packet's header: the fabric interface meets its faults. -/
  far : Bool := false
deriving DecidableEq, Repr

/-- Which engine holds a command (R246): a core's copy engine or a die's pool engine. -/
inductive Engine
  | copy (core : Nat)
  | pool (die e : Nat)
deriving DecidableEq, Repr

/-- The operands of an event, read from `State.ev` when the event runs: each event names the fields it
uses. Words carry their operands themselves; an event has no word, and its operands are data of the
agenda entry that brings it about. -/
structure EvArg where
  /-- Core (16 d + c), die, context bank. -/
  core : Nat := 0
  die : Nat := 0
  bank : Nat := 0
  /-- Level, block, lantern, link, port, unit, queue, launch, command or access number, register. -/
  n : Nat := 0
  /-- A second number: sequence, age, offset, peer. -/
  m : Nat := 0
  /-- Width in bytes, or a third number. -/
  width : Nat := 0
  value : DWord := 0
  flag : Bool := false
  engine : Engine := .copy 0
  req : Requester := {}
  pkt : Option Packet := none
  bytes : List Byte := []
  /-- The bank serves the access in this cycle (R98). -/
  granted : Bool := false
  /-- Refusal causes of the elements of a landing packet performed so far (R362). -/
  causes : List Nat := []
deriving DecidableEq, Repr

inductive Instr
  -- integer (R203 to R205), multiply and divide (R206)
  | add (h : SHdr) (d a b : BitVec 5)
  | sub (h : SHdr) (d a b : BitVec 5)
  | and (h : SHdr) (d a b : BitVec 5)
  | or (h : SHdr) (d a b : BitVec 5)
  | xor (h : SHdr) (d a b : BitVec 5)
  | andn (h : SHdr) (d a b : BitVec 5)
  | shl (h : SHdr) (d a b : BitVec 5)
  | shr (h : SHdr) (d a b : BitVec 5)
  | sra (h : SHdr) (d a b : BitVec 5)
  | min (h : SHdr) (d a b : BitVec 5)
  | max (h : SHdr) (d a b : BitVec 5)
  | minu (h : SHdr) (d a b : BitVec 5)
  | maxu (h : SHdr) (d a b : BitVec 5)
  | mul (h : SHdr) (d a b : BitVec 5)
  | mulh (h : SHdr) (d a b : BitVec 5)
  | mulhu (h : SHdr) (d a b : BitVec 5)
  | div (h : SHdr) (d a b : BitVec 5)
  | divu (h : SHdr) (d a b : BitVec 5)
  | rem (h : SHdr) (d a b : BitVec 5)
  | remu (h : SHdr) (d a b : BitVec 5)
  -- compares (R208)
  | ceq (h : SHdr) (d : BitVec 3) (a b : BitVec 5)
  | cne (h : SHdr) (d : BitVec 3) (a b : BitVec 5)
  | clt (h : SHdr) (d : BitVec 3) (a b : BitVec 5)
  | cle (h : SHdr) (d : BitVec 3) (a b : BitVec 5)
  | cltu (h : SHdr) (d : BitVec 3) (a b : BitVec 5)
  | cleu (h : SHdr) (d : BitVec 3) (a b : BitVec 5)
  | fceq (h : SHdr) (d : BitVec 3) (a b : BitVec 5)
  | fclt (h : SHdr) (d : BitVec 3) (a b : BitVec 5)
  | fcle (h : SHdr) (d : BitVec 3) (a b : BitVec 5)
  | fcun (h : SHdr) (d : BitVec 3) (a b : BitVec 5)
  -- predicates (R210, R211)
  | pand (h : SHdr) (d a b : BitVec 3)
  | por (h : SHdr) (d a b : BitVec 3)
  | pxor (h : SHdr) (d a b : BitVec 3)
  | pandn (h : SHdr) (d a b : BitVec 3)
  | pnot (h : SHdr) (d a : BitVec 3)
  | psave (h : SHdr) (d : BitVec 5)
  | pload (h : SHdr) (a : BitVec 5)
  -- scalar FP32 (R212)
  | fadd (h : SHdr) (d a b : BitVec 5)
  | fsub (h : SHdr) (d a b : BitVec 5)
  | fmul (h : SHdr) (d a b : BitVec 5)
  | fma (h : SHdr) (d a b : BitVec 5)
  | fdiv (h : SHdr) (d a b : BitVec 5)
  | fmin (h : SHdr) (d a b : BitVec 5)
  | fmax (h : SHdr) (d a b : BitVec 5)
  | fabs (h : SHdr) (d a : BitVec 5)
  | fneg (h : SHdr) (d a : BitVec 5)
  | fcvti (h : SHdr) (d a : BitVec 5)
  | fcvtiz (h : SHdr) (d a : BitVec 5)
  | fcvtf (h : SHdr) (d a : BitVec 5)
  -- address and constants (R214, R215), immediates (R205, R208)
  | xadd (h : SHdr) (d a : BitVec 3) (b : BitVec 5)
  | xset (h : SHdr) (d : BitVec 3) (a b : BitVec 5)
  | xlo (h : SHdr) (d : BitVec 5) (a : BitVec 3)
  | xhi (h : SHdr) (d : BitVec 5) (a : BitVec 3)
  | xmov (h : SHdr) (d a : BitVec 3)
  | addi (h : SHdr) (d a : BitVec 5) (imm : BitVec 9)
  | andi (h : SHdr) (d a : BitVec 5) (imm : BitVec 9)
  | ori (h : SHdr) (d a : BitVec 5) (imm : BitVec 9)
  | xori (h : SHdr) (d a : BitVec 5) (imm : BitVec 9)
  | shli (h : SHdr) (d a : BitVec 5) (imm : BitVec 5)
  | shri (h : SHdr) (d a : BitVec 5) (imm : BitVec 5)
  | srai (h : SHdr) (d a : BitVec 5) (imm : BitVec 5)
  | ceqi (h : SHdr) (d : BitVec 3) (a : BitVec 5) (imm : BitVec 9)
  | clti (h : SHdr) (d : BitVec 3) (a : BitVec 5) (imm : BitVec 9)
  | xaddi (h : SHdr) (d a : BitVec 3) (imm : BitVec 9)
  | liu (h : SHdr) (d : BitVec 5) (imm : BitVec 14)
  | lim (h : SHdr) (d : BitVec 5) (imm : BitVec 14)
  -- scratchpad memory (R216)
  | ldb (h : SHdr) (d a : BitVec 5) (cls : BitVec 4) (off : BitVec 5)
  | ldh (h : SHdr) (d a : BitVec 5) (cls : BitVec 4) (off : BitVec 5)
  | ldw (h : SHdr) (d a : BitVec 5) (cls : BitVec 4) (off : BitVec 5)
  | stb (h : SHdr) (d a : BitVec 5) (cls : BitVec 4) (off : BitVec 5)
  | sth (h : SHdr) (d a : BitVec 5) (cls : BitVec 4) (off : BitVec 5)
  | stw (h : SHdr) (d a : BitVec 5) (cls : BitVec 4) (off : BitVec 5)
  | ldwAcq (h : SHdr) (d a : BitVec 5) (cls : BitVec 4) (off : BitVec 5)
  | stwRel (h : SHdr) (d a : BitVec 5) (cls : BitVec 4) (off : BitVec 5)
  -- global memory (R219, R222)
  | ldg (h : SHdr) (d : BitVec 5) (xa : BitVec 3) (cls : BitVec 4) (tp : BitVec 6) (ord : Bool)
  | stg (h : SHdr) (d : BitVec 5) (xa : BitVec 3) (cls : BitVec 4) (tp : BitVec 6) (ord : Bool)
  | ldgx (h : SHdr) (d xa : BitVec 3) (cls : BitVec 4) (tp : BitVec 6) (ord : Bool)
  | stgx (h : SHdr) (d xa : BitVec 3) (cls : BitVec 4) (tp : BitVec 6) (ord : Bool)
  | gadd (h : SHdr) (d : BitVec 5) (xa : BitVec 3) (cls : BitVec 4) (tp : BitVec 6) (ord : Bool)
  | gmax (h : SHdr) (d : BitVec 5) (xa : BitVec 3) (cls : BitVec 4) (tp : BitVec 6) (ord : Bool)
  | gswap (h : SHdr) (d : BitVec 5) (xa : BitVec 3) (cls : BitVec 4) (tp : BitVec 6) (ord : Bool)
  | gcas (h : SHdr) (d : BitVec 5) (xa : BitVec 3) (cls : BitVec 4) (tp : BitVec 6) (ord : Bool)
  -- local atomics (R224)
  | aadd (h : SHdr) (d a : BitVec 5) (cls : BitVec 4) (off : BitVec 5)
  | amin (h : SHdr) (d a : BitVec 5) (cls : BitVec 4) (off : BitVec 5)
  | amax (h : SHdr) (d a : BitVec 5) (cls : BitVec 4) (off : BitVec 5)
  | aor (h : SHdr) (d a : BitVec 5) (cls : BitVec 4) (off : BitVec 5)
  | aswap (h : SHdr) (d a : BitVec 5) (cls : BitVec 4) (off : BitVec 5)
  | acas (h : SHdr) (d a : BitVec 5) (cls : BitVec 4) (off : BitVec 5)
  -- spill (R227), control transfer (R228 to R233)
  | spl (h : SHdr) (d : BitVec 5) (imm : BitVec 14)
  | sps (h : SHdr) (d : BitVec 5) (imm : BitVec 14)
  | pbr (h : SHdr) (bn : BitVec 3) (loff : BitVec 11) (slot : BitVec 5)
  | br (h : SHdr) (bn : BitVec 3)
  | call (h : SHdr) (bn : BitVec 3)
  | ret (h : SHdr)
  | lstart (h : SHdr) (lvl : BitVec 3)
  -- control registers (R238), synchronisation (R234 to R237)
  | crd (h : SHdr) (d : BitVec 5) (creg : BitVec 12)
  | cwr (h : SHdr) (d : BitVec 5) (creg : BitVec 12)
  | cfence (h : SHdr) (scope : BitVec 2) (mask : BitVec 16)
  | waitv (h : SHdr) (d : BitVec 5) (xa : BitVec 3) (cls : BitVec 4)
  | idle (n : BitVec 3) (cnt : BitVec 20)
  | nop (h : SHdr)
  -- traps, context, features (R242, R243, R381 to R406)
  | tret (h : SHdr)
  | trap (h : SHdr) (code : BitVec 6)
  | featq (h : SHdr) (a : BitVec 5)
  | tlbinv (h : SHdr) (tp : BitVec 6) (xa : BitVec 3) (a : BitVec 5)
  | ctxpark (h : SHdr) (tp : BitVec 6) (a : BitVec 5)
  | ctxrun (h : SHdr) (tp : BitVec 6) (xa : BitVec 3) (a : BitVec 5)
  | kindle (h : SHdr) (tp : BitVec 6) (a : BitVec 5)
  | douse (h : SHdr) (tp : BitVec 6) (a : BitVec 5)
  | tagset (h : SHdr) (tp : BitVec 6) (a : BitVec 5)
  | fbpop (h : SHdr) (a : BitVec 5)
  | selftest (h : SHdr) (tp : BitVec 6) (a : BitVec 5)
  | shsleep (h : SHdr) (a : BitVec 5)
  -- copy and pool commands (R247)
  | cpy (h : SHdr) (tp : BitVec 6) (xa : BitVec 3) (a : BitVec 5)
  | cpyt (h : SHdr) (tp : BitVec 6) (xa : BitVec 3) (a : BitVec 5)
  | ccvt (h : SHdr) (tp : BitVec 6) (xa : BitVec 3) (a : BitVec 5)
  | cqnt (h : SHdr) (tp : BitVec 6) (xa : BitVec 3) (a : BitVec 5)
  | cqnth (h : SHdr) (tp : BitVec 6) (xa : BitVec 3) (a : BitVec 5)
  | csort (h : SHdr) (tp : BitVec 6) (xa : BitVec 3) (a : BitVec 5)
  | ccmpb (h : SHdr) (tp : BitVec 6) (xa : BitVec 3) (a : BitVec 5)
  | cexpb (h : SHdr) (tp : BitVec 6) (xa : BitVec 3) (a : BitVec 5)
  | ccmpp (h : SHdr) (tp : BitVec 6) (xa : BitVec 3) (a : BitVec 5)
  | cexpp (h : SHdr) (tp : BitVec 6) (xa : BitVec 3) (a : BitVec 5)
  | cdec (h : SHdr) (tp : BitVec 6) (xa : BitVec 3) (a : BitVec 5)
  | cenc (h : SHdr) (tp : BitVec 6) (xa : BitVec 3) (a : BitVec 5)
  | cfill (h : SHdr) (tp : BitVec 6) (a : BitVec 5)
  | cgath (h : SHdr) (tp : BitVec 6) (xa : BitVec 3) (a : BitVec 5)
  | cscat (h : SHdr) (tp : BitVec 6) (xa : BitVec 3) (a : BitVec 5)
  | pcpy (h : SHdr) (tp : BitVec 6) (xa : BitVec 3) (a : BitVec 5)
  | pcvt (h : SHdr) (tp : BitVec 6) (xa : BitVec 3) (a : BitVec 5)
  | pdec (h : SHdr) (tp : BitVec 6) (xa : BitVec 3) (a : BitVec 5)
  | penc (h : SHdr) (tp : BitVec 6) (xa : BitVec 3) (a : BitVec 5)
  | qbind (h : SHdr) (q : BitVec 3) (a : BitVec 5)
  | qrel (h : SHdr) (q : BitVec 3)
  -- fabric and scene words (R366 to R369)
  | lflush (h : SHdr) (tp : BitVec 6) (a : BitVec 5)
  | scene (n : BitVec 3)
  | sceneLast (n : BitVec 3)
  | alignc (h : SHdr) (tp : BitVec 6) (a : BitVec 5)
  -- vector words (R287)
  | vadd (w : VWord)
  | vsub (w : VWord)
  | vmul (w : VWord)
  | vfma (w : VWord)
  | vfms (w : VWord)
  | vmin (w : VWord)
  | vmax (w : VWord)
  | vabs (w : VWord)
  | vneg (w : VWord)
  | vmulh (w : VWord)
  | vand (w : VWord)
  | vor (w : VWord)
  | vxor (w : VWord)
  | vnot (w : VWord)
  | vshl (w : VWord)
  | vshr (w : VWord)
  | vcmp (w : VWord)
  | vmand (w : VWord)
  | vmor (w : VWord)
  | vmxor (w : VWord)
  | vmnot (w : VWord)
  | vmcnt (w : VWord)
  | vsel (w : VWord)
  | vclamp (w : VWord)
  | vmov (w : VWord)
  | vperm (w : VWord)
  | vrot (w : VWord)
  | vbcast (w : VWord)
  | vzip (w : VWord)
  | vunzip (w : VWord)
  | vpack (w : VWord)
  | vunpack (w : VWord)
  | viota (w : VWord)
  | vcvt (w : VWord)
  | vcvts (w : VWord)
  | vexp2 (w : VWord)
  | vlog2 (w : VWord)
  | vsig (w : VWord)
  | vtanh (w : VWord)
  | vrcp (w : VWord)
  | vrsq (w : VWord)
  | vrsum (w : VWord)
  | vrmax (w : VWord)
  | vrmin (w : VWord)
  | vramax (w : VWord)
  | vld (w : VWord)
  | vst (w : VWord)
  | vgath (w : VWord)
  | vscat (w : VWord)
  | vscata (w : VWord)
  | vatom (w : VWord)
  | vsbp (w : VWord)
  | vycvt (w : VWord)
  | vyclr (w : VWord)
  | vyadd (w : VWord)
  | vidle (n : BitVec 4) (cnt : BitVec 20)
  | vscene (n : BitVec 4)
  | vsceneLast (n : BitVec 4)
  -- matrix words (R173)
  | mnop (stamp : BitVec 20)
  | mdot (w : MWord)
  | msbp (w : MWord)
  | mlatch (w : MWord)
  | mzero (w : MWord)
  | mret (w : MWord)
  | mretz (w : MWord)
  | mldt (w : MWord)
  | mstt (w : MWord)
  | msttb (w : MWord)
  | mstth (w : MWord)
  | mftld (w : MWord)
  | mtok (w : MWord)
  | mscene (stamp : BitVec 20)
  | msceneLast (stamp : BitVec 20)
  -- events: launches, loops, scenes, frames
  /-- launch `n` -/
  | launchStart
  /-- `core`, level `n` -/
  | loopIterationStart
  /-- `core`, level `n` -/
  | loopLevelEnd
  /-- `core` -/
  | restartIntervalExceeded
  /-- `core`, bank `bank` -/
  | barrierArrival
  /-- launch `n` -/
  | sceneStart
  /-- `core` -/
  | frameEdge
  /-- `core` -/
  | worldSeal
  /-- `core` -/
  | frameGapEnd
  -- events: writes in flight
  /-- `core`, `bank`; `flag` for the stagehand -/
  | destinationWrite
  /-- `core`, `bank`; `flag` for the stagehand -/
  | interlockedDelayedWrite
  /-- `core`, `bank` -/
  | tileUpdate
  /-- `core`, `bank` -/
  | runningSumAddition
  -- events: presence, bounce buffer, waiting, banks
  /-- `core`, `bank`, block `n`; `flag` when the transfer succeeds; `bytes` for an image in another package -/
  | blockPullEnd
  /-- `core`, `bank`, block `n`; `flag` when the transfer succeeds -/
  | blockWriteOutEnd
  /-- `die`, offset `n` in the register, `width`, `value` -/
  | bouncetailWrite
  /-- `core`, `bank` -/
  | waitvWake
  /-- `core`, `bank` -/
  | waitvPoll
  /-- `core`, `bank`; the wait begun at house cue `n` -/
  | waitBudgetSpent
  /-- `core` -/
  | bankExchange
  -- events: copy engines
  /-- `engine`, command `n` -/
  | copyDestinationWalk
  /-- `engine`, command `n` -/
  | copyTransferStart
  /-- `engine`, command `n`; `flag` when a port does not answer -/
  | copyRequest
  /-- `engine`, command `n` -/
  | copyCommandComplete
  -- events: lanterns and packets
  /-- `core`, `bank`; `flag` for the stagehand -/
  | lanternEntry
  /-- `die`, lantern `n` -/
  | lanternBurnDeadline
  /-- `pkt` -/
  | fullStorePacket
  /-- `pkt` -/
  | lanternPacket
  /-- `pkt` -/
  | globalWritePacket
  /-- `pkt` -/
  | readRequestPacket
  /-- `pkt` -/
  | readReplyPacket
  /-- `pkt` -/
  | atomicRequestPacket
  /-- `pkt` -/
  | atomicReplyPacket
  /-- `pkt` -/
  | acknowledgementPacket
  /-- `pkt` -/
  | barrierArrivalPacket
  /-- `pkt` -/
  | barrierReleasePacket
  /-- `pkt` -/
  | wakePacket
  /-- `pkt` -/
  | unknownPacketDiscard
  /-- `pkt` -/
  | packetResend
  /-- `die`, tag `n`, age `m`; `flag` when no answer comes at all -/
  | requestTimeout
  /-- `die`, packet `n` -/
  | postedPacketTimeout
  /-- `die`, packet `n` -/
  | wakeAckTimeout
  /-- `die` -/
  | tagGrant
  /-- `die`, link `n` -/
  | linkDown
  /-- `die`, link `n`; `flag` when the certificate chains; shared secret `bytes` -/
  | linkEstablish
  /-- port `n` -/
  | cxlPortDown
  /-- `die`, `value`, `req` -/
  | rtselWrite
  /-- `die`, offset `n`, `width`, `value`; `flag` for a write by boot -/
  | rtabWrite
  /-- `core`, `bank` -/
  | leave
  /-- launch `n`, package `m` -/
  | castRootTimeout
  /-- `core`, token `n` of producer `m`, scope `width`; `flag` when every package is reached -/
  | aligncComplete
  -- events: traps, parking, faults, self-tests
  /-- `core`, `bank` -/
  | handlerStart
  /-- `core`, `bank` -/
  | parkPoint
  /-- `core`, `bank` -/
  | controlBlockWriteOut
  /-- `core`, `value` -/
  | resume
  /-- `die`, `value` -/
  | fbownerWrite
  /-- `die` -/
  | faultRecordEnter
  /-- `core` -/
  | shsleepLimit
  /-- `core`, unit `n`, kind of error `m` (0 corrected, 1 not corrected, 2 parity), address or register `value` -/
  | errorSelfTest
  /-- `core`, unit `n`, producer `m` of the test; `flag` when a sparing takes effect -/
  | selfTestEnd
  -- events: queues and front end
  /-- `die`, queue `n`, `width`, `value` -/
  | kick
  /-- `die`, queue `n`, `width`, `value` -/
  | wakeRegister
  /-- `die`, queue `n`, `width`, `value` -/
  | qrepair
  /-- `die`, queue `n`, `value`, `req` -/
  | qctlWrite
  /-- `die` -/
  | qcurRead
  /-- `die`; the core that reads or writes the register `core` -/
  | qadvAdvance
  /-- `die`, cause `n` -/
  | qadvError
  /-- `die` -/
  | qadvYield
  /-- `die` -/
  | sliceExpiry
  /-- vector `n`; waits for the producers of `core` before `m` -/
  | msixMessage
  /-- `die`, `value`; `flag` for a launch of another package: `bytes` its packet, `n` its root, `width` its vector, `m` its T0 -/
  | qlaunchWrite
  /-- launch `n`, round `m`; `flag` when a root elsewhere has sent go -/
  | armingGoDeadline
  /-- launch `n`, round `m`; `flag` when a root elsewhere has refused -/
  | armingAbandon
  /-- `core`, offset `n`, `width`, `value`, `req` -/
  | wkeyWrite
  /-- offset `n` in the table, `width`, `value`, `req`; `flag` in the cycle in which it takes effect -/
  | poolRouteWrite
  /-- `core`, `bank`, register `n`, `value`; `flag` for the stagehand -/
  | btgtWrite
  /-- `core`, `bank`, register `n`, `value` -/
  | yctlWrite
  /-- physical address `n`, `width`, `value`, `req`, `m` 1 when the access is allowed; or control register `n` of `core`, `bank` when `flag`, `width` 1 for the stagehand's; or BAR `die`, offset `n`, `width`, `value` when `m` is 2, a read when `flag` -/
  | registerWrite
  /-- none -/
  | functionLevelReset
  /-- none -/
  | packageReset
  -- events: power and cooling, sideband
  /-- none -/
  | powerLimitExceeded
  /-- `die` -/
  | thermalWarning
  /-- none -/
  | thermalTrip
  /-- none -/
  | thermalTripRelease
  /-- message `bytes` -/
  | mctpControl
  /-- message `bytes` -/
  | pldmBaseDiscovery
  /-- message `bytes` -/
  | pldmPlatformMonitoring
  /-- message `bytes` -/
  | getVersion
  /-- message `bytes` -/
  | getCapabilities
  /-- message `bytes` -/
  | negotiateAlgorithms
  /-- message `bytes` -/
  | getDigests
  /-- message `bytes` -/
  | getCertificate
  /-- nonce `bytes` -/
  | getMeasurements
  /-- message `bytes` -/
  | unsupportedMessage
  -- events: completions and resets of the last rows of the table
  /-- access `n`; `flag` when a port does not answer -/
  | globalAccessComplete
  /-- `die`, link `n`; `flag` when the flit before failed too -/
  | flitCrcFailure
  /-- core `core` when `flag`, else die `die`; `n` 1 when the reset ends -/
  | dieReset
  /-- none -/
  | powerLimitCleared
  /-- `core`, producer `n` -/
  | tagsetClearComplete
deriving DecidableEq, Repr

end Sys2Proof
end

