-- ==== Sys2Proof/Machine/Fp.lean ====
section
/-!
DEFINITION. The number formats of R14 to R27 as exact arithmetic: an element decodes to an exact
value, the arithmetic is exact, and one rounding delivers a result (R20, R21).
-/
namespace Sys2Proof

/-- Width in bits of an element; of an se type, of a block's element field (R14, R28). -/
def ElemTy.width : ElemTy → Nat
  | .f32 => 32 | .f16 => 16 | .bf16 => 16 | .e4m3 => 8 | .e5m2 => 8
  | .se2 => 2 | .se4 => 4 | .se7 => 7
  | .i32 => 32 | .i16 => 16 | .i8 => 8 | .i4 => 4
  | .n32 => 32 | .n16 => 16 | .n8 => 8 | .n4 => 4

/-- Type code of R14. -/
def ElemTy.code : ElemTy → Nat
  | .f32 => 0 | .f16 => 1 | .bf16 => 2 | .e4m3 => 3 | .e5m2 => 4 | .se2 => 5 | .se4 => 6 | .se7 => 7
  | .i32 => 8 | .i16 => 9 | .i8 => 10 | .i4 => 11 | .n32 => 12 | .n16 => 13 | .n8 => 14 | .n4 => 15

/-- The type of a type code of R14 (its low four bits). -/
def ElemTy.ofCode (c : Nat) : ElemTy :=
  match c % 16 with
  | 0 => .f32 | 1 => .f16 | 2 => .bf16 | 3 => .e4m3 | 4 => .e5m2 | 5 => .se2 | 6 => .se4 | 7 => .se7
  | 8 => .i32 | 9 => .i16 | 10 => .i8 | 11 => .i4 | 12 => .n32 | 13 => .n16 | 14 => .n8 | _ => .n4

/-- Class F of R279. -/
def ElemTy.isF : ElemTy → Bool
  | .f32 | .f16 | .bf16 => true
  | _ => false

/-- Class Q8 of R279. -/
def ElemTy.isQ8 : ElemTy → Bool
  | .e4m3 | .e5m2 => true
  | _ => false

/-- Class S of R279. -/
def ElemTy.isS : ElemTy → Bool
  | .se2 | .se4 | .se7 => true
  | _ => false

/-- Class I of R279. -/
def ElemTy.isI : ElemTy → Bool
  | .i32 | .i16 | .i8 | .n32 | .n16 | .n8 => true
  | _ => false

/-- Class I4 of R279. -/
def ElemTy.isI4 : ElemTy → Bool
  | .i4 | .n4 => true
  | _ => false

/-- The signed integer types of R14. -/
def ElemTy.isSigned : ElemTy → Bool
  | .i32 | .i16 | .i8 | .i4 => true
  | _ => false

/-- Integer types. -/
def ElemTy.isInt (t : ElemTy) : Bool := t.isI || t.isI4

/-- Class P of R279. -/
def ElemTy.isP (t : ElemTy) : Bool := !t.isS

/-- Class W32 of R279. -/
def ElemTy.isW32 : ElemTy → Bool
  | .f32 | .i32 | .n32 => true
  | _ => false

end Sys2Proof

namespace Sys2Proof.Machine

/-- An exact value: NaN, an infinity, or `(-1)^neg * m * 2^e`; `m = 0` is a signed zero. -/
inductive Fp
  | nan
  | inf (neg : Bool)
  | fin (neg : Bool) (m : Nat) (e : Int)
deriving DecidableEq, Repr

/-- A floating-point format of R17: exponent and fraction widths, bias, whether it has infinities. -/
structure FFmt where
  eb : Nat
  fb : Nat
  bias : Nat
  hasInf : Bool
deriving DecidableEq, Repr

/-- The parameters of a floating-point format (R17, R18). -/
def fmtOf : ElemTy → FFmt
  | .f16 => ⟨5, 10, 15, true⟩
  | .bf16 => ⟨8, 7, 127, true⟩
  | .e4m3 => ⟨4, 3, 7, false⟩
  | .e5m2 => ⟨5, 2, 15, true⟩
  | _ => ⟨8, 23, 127, true⟩

/-- Encoding, without sign, of the largest finite value (R17, R18). -/
def FFmt.maxEnc (f : FFmt) : Nat :=
  if f.hasInf then (2 ^ f.eb - 1) * 2 ^ f.fb - 1 else 2 ^ (f.eb + f.fb) - 2

/-- Encoding, without sign, of the infinity. -/
def FFmt.infEnc (f : FFmt) : Nat := (2 ^ f.eb - 1) * 2 ^ f.fb

/-- The canonical NaN (R19). -/
def FFmt.nanEnc (f : FFmt) : Nat :=
  if f.hasInf then (2 ^ f.eb - 1) * 2 ^ f.fb + 2 ^ (f.fb - 1) else 2 ^ (f.eb + f.fb) - 1

/-- The sign bit of a format. -/
def FFmt.signBit (f : FFmt) (neg : Bool) : Nat := if neg then 2 ^ (f.eb + f.fb) else 0

/-- `decode` of R177 for a floating-point format (R17, R18). -/
def decodeF (f : FFmt) (v : Nat) : Fp :=
  let neg := bitAt v (f.eb + f.fb)
  let mag := v % 2 ^ (f.eb + f.fb)
  if f.maxEnc < mag then
    if f.hasInf && mag == f.infEnc then .inf neg else .nan
  else
    let e := mag / 2 ^ f.fb
    let fr := mag % 2 ^ f.fb
    if e = 0 then .fin neg fr (1 - (f.bias : Int) - f.fb)
    else .fin neg (2 ^ f.fb + fr) ((e : Int) - f.bias - f.fb)

/-- Range of an integer type (R16). -/
def intLo (t : ElemTy) : Int := if t.isSigned then -((2 ^ (t.width - 1) : Nat) : Int) else 0
/-- Range of an integer type (R16). -/
def intHi (t : ElemTy) : Int :=
  if t.isSigned then ((2 ^ (t.width - 1) : Nat) : Int) - 1 else ((2 ^ t.width : Nat) : Int) - 1

/-- The integer an element of an integer type holds (R16). -/
def intOf (t : ElemTy) (v : Nat) : Int :=
  if t.isSigned then sext v t.width else ((v % 2 ^ t.width : Nat) : Int)

/-- An integer as an exact value. -/
def Fp.ofInt (v : Int) : Fp := .fin (decide (v < 0)) v.natAbs 0

/-- `decode(t, e)` of R177 for every type but the se types. -/
def decodeEl (t : ElemTy) (v : Nat) : Fp :=
  if t.isInt then Fp.ofInt (intOf t v) else decodeF (fmtOf t) v

/-- Sign of an exact value; NaN counts as positive. -/
def Fp.neg : Fp → Bool
  | .nan => false
  | .inf n => n
  | .fin n _ _ => n

def Fp.isZero : Fp → Bool
  | .fin _ 0 _ => true
  | _ => false

def Fp.isNan : Fp → Bool
  | .nan => true
  | _ => false

def Fp.isInf : Fp → Bool
  | .inf _ => true
  | _ => false

def Fp.isFin : Fp → Bool
  | .fin _ _ _ => true
  | _ => false

/-- The value with its sign inverted. -/
def Fp.negate : Fp → Fp
  | .nan => .nan
  | .inf n => .inf (!n)
  | .fin n m e => .fin (!n) m e

/-- The value with its sign cleared. -/
def Fp.abs : Fp → Fp
  | .nan => .nan
  | .inf _ => .inf false
  | .fin _ m e => .fin false m e

/-- Numerator of `m * 2^e`. -/
def numOf (m : Nat) (e : Int) : Nat := m * 2 ^ e.toNat
/-- Denominator of `m * 2^e`. -/
def denOf (e : Int) : Nat := 2 ^ (-e).toNat

/-- The signed mantissa of a finite value on the grid `2^g`, `g` not above its exponent. -/
def Fp.onGrid (g : Int) : Fp → Int
  | .fin n m e => let k : Nat := m * 2 ^ (e - g).toNat; if n then -(k : Int) else k
  | _ => 0

/-- Exponent of a finite value. -/
def Fp.exp : Fp → Int
  | .fin _ _ e => e
  | _ => 0

/-- Exact sum (R285): an exact zero sum is -0 when both addends are -0 or when the mode is rdn. -/
def Fp.add (rm : RMode) (x y : Fp) : Fp :=
  match x, y with
  | .nan, _ => .nan
  | _, .nan => .nan
  | .inf a, .inf b => if a = b then .inf a else .nan
  | .inf a, _ => .inf a
  | _, .inf b => .inf b
  | .fin a m e, .fin b n f =>
    let g := min e f
    let s := Fp.onGrid g (.fin a m e) + Fp.onGrid g (.fin b n f)
    if s = 0 then .fin ((a && b && m == 0 && n == 0) || rm == .rdn) 0 0
    else .fin (decide (s < 0)) s.natAbs g

/-- Exact product (R285): 0 times an infinity is NaN. -/
def Fp.mul (x y : Fp) : Fp :=
  match x, y with
  | .nan, _ => .nan
  | _, .nan => .nan
  | .inf a, y => if y.isZero then .nan else .inf (a != y.neg)
  | x, .inf b => if x.isZero then .nan else .inf (x.neg != b)
  | .fin a m e, .fin b n f => .fin (a != b) (m * n) (e + f)

/-- Order of two values, -0 and +0 equal; NaN is below nothing. -/
def Fp.lt (x y : Fp) : Bool :=
  match x, y with
  | .nan, _ => false
  | _, .nan => false
  | .inf a, .inf b => a && !b
  | .inf a, _ => a
  | _, .inf b => !b
  | .fin a m e, .fin b n f =>
    let g := min e f
    decide (Fp.onGrid g (.fin a m e) < Fp.onGrid g (.fin b n f))

/-- Equality of two values, -0 and +0 equal; a NaN equals nothing. -/
def Fp.eqv (x y : Fp) : Bool := !x.isNan && !y.isNan && !Fp.lt x y && !Fp.lt y x

/-- Order in which -0 lies below +0 (R213, R289, R291, R301). -/
def Fp.ltZ (x y : Fp) : Bool := Fp.lt x y || (Fp.eqv x y && x.isZero && y.isZero && x.neg && !y.neg)

/-- The lesser or greater; NaN when either is NaN (R213, R289). -/
def Fp.minZ (x y : Fp) : Fp := if x.isNan || y.isNan then .nan else if Fp.ltZ y x then y else x
def Fp.maxZ (x y : Fp) : Fp := if x.isNan || y.isNan then .nan else if Fp.ltZ x y then y else x

/-- `num / den` rounded to an integer in mode `rm`, of a value of sign `neg` (R20). -/
def roundQ (rm : RMode) (neg : Bool) (num den : Nat) : Nat :=
  let q := num / den
  let r := num % den
  let up : Bool :=
    match rm with
    | .rne => decide (den < 2 * r) || (2 * r == den && q % 2 == 1)
    | .rtz => false
    | .rdn => neg && r != 0
    | .rup => !neg && r != 0
  if up then q + 1 else q

/-- `floor(log2(num / den))` of a positive quotient. -/
def log2Q (num den : Nat) : Int :=
  let e : Int := (num.log2 : Int) - den.log2
  if num * 2 ^ (-e).toNat < den * 2 ^ e.toNat then e - 1 else e

/-- The overflow results of R25 for a finite source beyond range, `.sat` clear. -/
def overflowEnc (f : FFmt) (rm : RMode) (neg : Bool) : Nat :=
  let big := if f.hasInf then f.infEnc else f.nanEnc
  let mag :=
    match rm with
    | .rne => big
    | .rtz => f.maxEnc
    | .rdn => if neg then big else f.maxEnc
    | .rup => if neg then f.maxEnc else big
  if mag == f.nanEnc then mag else f.signBit neg + mag

/-- Overflow threshold of R25 under rne, as numerator over `2 ^ bias`-free grid: half a step above
the largest finite value. -/
def beyondRne (f : FFmt) (num den : Nat) : Bool :=
  let q := 2 ^ f.fb + f.maxEnc % 2 ^ f.fb
  let g : Int := ((f.maxEnc / 2 ^ f.fb : Nat) : Int) - f.bias - f.fb - 1
  decide (den * ((2 * q + 1) * 2 ^ g.toNat) ≤ num * 2 ^ (-g).toNat)

/-- A positive quotient rounded to a format: its encoding without sign, or none beyond range (R25). -/
def roundMag (f : FFmt) (rm : RMode) (neg : Bool) (num den : Nat) : Option Nat :=
  if num = 0 then some 0
  else
    let g : Int := max (log2Q num den - f.fb) (1 - (f.bias : Int) - f.fb)
    let q := roundQ rm neg (num * 2 ^ (-g).toNat) (den * 2 ^ g.toNat)
    let enc : Nat := ((g + f.fb + f.bias - 1).toNat) * 2 ^ f.fb + q
    if (rm == .rne && beyondRne f num den) || f.maxEnc < enc then none else some enc

/-- A finite quotient in a format: `round_fmt` of R177 with `sat` as R25 and R285 use it. -/
def roundFmtQ (f : FFmt) (rm : RMode) (sat : Bool) (neg : Bool) (num den : Nat) : Nat :=
  match roundMag f rm neg num den with
  | some m => f.signBit neg + m
  | none => if sat then f.signBit neg + f.maxEnc else overflowEnc f rm neg

/-- A quotient below the smallest normal of a format, and not zero: tiny (R22). -/
def tinyQ (f : FFmt) (num den : Nat) : Bool :=
  num != 0 && decide (num * 2 ^ (f.bias - 1) < den)

/-- `ftz` of R177, on a quotient: whether R22 replaces it by a zero. `flush` is exposed mode. -/
def flushesQ (flush : Bool) (t : ElemTy) (num den : Nat) : Bool :=
  flush && t.isF && tinyQ (fmtOf t) num den

/-- Conversion of an exact value to a floating-point format by R25 and R22. `satInf` says whether an
infinite source saturates (a conversion with `.sat`, R25; not R285). -/
def toFloat (flush : Bool) (t : ElemTy) (rm : RMode) (sat satInf : Bool) (x : Fp) : Nat :=
  let f := fmtOf t
  match x with
  | .nan => f.nanEnc
  | .inf n =>
    if satInf then f.signBit n + f.maxEnc
    else if f.hasInf then f.signBit n + f.infEnc else f.nanEnc
  | .fin n m e =>
    if flushesQ flush t (numOf m e) (denOf e) then f.signBit n
    else roundFmtQ f rm sat n (numOf m e) (denOf e)

/-- An exact value rounded to an integer in mode `rm` (R26); NaN gives 0, infinities are clamped by
the caller. -/
def Fp.toIntR (rm : RMode) (x : Fp) : Int :=
  match x with
  | .fin n m e =>
    let q := roundQ rm n (numOf m e) (denOf e)
    if n then -(q : Int) else q
  | _ => 0

/-- Conversion to an integer type (R26): round, then clamp; the encoding. -/
def toInt (t : ElemTy) (rm : RMode) (x : Fp) : Nat :=
  match x with
  | .nan => 0
  | .inf n => wrap (if n then intLo t else intHi t) t.width
  | x => wrap (clamp (x.toIntR rm) (intLo t) (intHi t)) t.width

/-- `convert(x, t, rm, sat)` of R177 for every destination but the se types. The flush of R22 applies
to F destinations when `flush` is set. -/
def convert (flush : Bool) (t : ElemTy) (rm : RMode) (sat : Bool) (x : Fp) : Nat :=
  if t.isInt then toInt t rm x else toFloat flush t rm sat sat x

/-- `daz(t, x)` of R177: in exposed mode a subnormal f32, f16 or bf16 operand is a zero (R22). -/
def daz (flush : Bool) (t : ElemTy) (x : Fp) : Fp :=
  match x with
  | .fin n m e => if flushesQ flush t (numOf m e) (denOf e) then .fin n 0 0 else x
  | x => x

/-- An operand element: decoded, then R22 (R285). -/
def operandEl (flush : Bool) (t : ElemTy) (v : Nat) : Fp := daz flush t (decodeEl t v)

/-- Delivery of an exact result in role type `t` (R285). -/
def deliver (flush : Bool) (t : ElemTy) (rm : RMode) (sat : Bool) (x : Fp) : Nat :=
  if t.isInt then
    let v := x.toIntR .rtz
    if sat then wrap (clamp v (intLo t) (intHi t)) t.width else wrap v t.width
  else toFloat flush t rm sat false x

/-- `round_rne_f32` of R177. -/
def roundF32 (flush : Bool) (x : Fp) : Nat := toFloat flush .f32 .rne false false x

end Sys2Proof.Machine
end

