-- ==== Sys2Proof/Machine/Legal.lean ====
section
/-!
DEFINITION. Which vector and matrix words are legal (R163, R166, R171, R173, R280, R281, R286, R287),
as far as a word alone decides it. What depends on the state (a stream's binding, a format-table
slot, the agent of class 15) is decided at issue.
-/
namespace Sys2Proof

/-- The vector forms of R287. -/
inductive VOp
  | vadd | vsub | vmul | vfma | vfms | vmin | vmax | vabs
  | vneg | vmulh | vand | vor | vxor | vnot | vshl | vshr
  | vcmp | vmand | vmor | vmxor | vmnot | vsel | vclamp | vmcnt
  | vmov | vperm | vrot | vbcast | vzip | vunzip | vpack | vunpack
  | viota | vcvt | vcvts | vexp2 | vlog2 | vsig | vtanh | vrcp
  | vrsq | vrsum | vrmax | vrmin | vramax | vld | vst | vgath
  | vscat | vscata | vatom | vsbp | vycvt | vyclr | vyadd
deriving DecidableEq, Repr

/-- The matrix forms of R173 that carry more than a stamp. -/
inductive MOp
  | mdot | msbp | mlatch | mzero | mret | mretz | mldt | mstt
  | msttb | mstth | mftld | mtok
deriving DecidableEq, Repr

/-- Opcode of R168. -/
def VOp.code : VOp → Nat
  | .vadd => 0x00
  | .vsub => 0x01
  | .vmul => 0x02
  | .vfma => 0x03
  | .vfms => 0x04
  | .vmin => 0x05
  | .vmax => 0x06
  | .vabs => 0x07
  | .vneg => 0x08
  | .vmulh => 0x09
  | .vand => 0x0A
  | .vor => 0x0B
  | .vxor => 0x0C
  | .vnot => 0x0D
  | .vshl => 0x0E
  | .vshr => 0x0F
  | .vcmp => 0x10
  | .vmand => 0x11
  | .vmor => 0x12
  | .vmxor => 0x13
  | .vmnot => 0x14
  | .vsel => 0x15
  | .vclamp => 0x16
  | .vmcnt => 0x17
  | .vmov => 0x20
  | .vperm => 0x21
  | .vrot => 0x22
  | .vbcast => 0x23
  | .vzip => 0x24
  | .vunzip => 0x25
  | .vpack => 0x26
  | .vunpack => 0x27
  | .viota => 0x28
  | .vcvt => 0x30
  | .vcvts => 0x31
  | .vexp2 => 0x40
  | .vlog2 => 0x41
  | .vsig => 0x42
  | .vtanh => 0x43
  | .vrcp => 0x44
  | .vrsq => 0x45
  | .vrsum => 0x50
  | .vrmax => 0x51
  | .vrmin => 0x52
  | .vramax => 0x53
  | .vld => 0x60
  | .vst => 0x61
  | .vgath => 0x62
  | .vscat => 0x63
  | .vscata => 0x64
  | .vatom => 0x65
  | .vsbp => 0x70
  | .vycvt => 0x71
  | .vyclr => 0x72
  | .vyadd => 0x73

/-- The form of an opcode of R168, none for an unassigned opcode. -/
def VOp.ofCode : Nat → Option VOp
  | 0x00 => some .vadd
  | 0x01 => some .vsub
  | 0x02 => some .vmul
  | 0x03 => some .vfma
  | 0x04 => some .vfms
  | 0x05 => some .vmin
  | 0x06 => some .vmax
  | 0x07 => some .vabs
  | 0x08 => some .vneg
  | 0x09 => some .vmulh
  | 0x0A => some .vand
  | 0x0B => some .vor
  | 0x0C => some .vxor
  | 0x0D => some .vnot
  | 0x0E => some .vshl
  | 0x0F => some .vshr
  | 0x10 => some .vcmp
  | 0x11 => some .vmand
  | 0x12 => some .vmor
  | 0x13 => some .vmxor
  | 0x14 => some .vmnot
  | 0x15 => some .vsel
  | 0x16 => some .vclamp
  | 0x17 => some .vmcnt
  | 0x20 => some .vmov
  | 0x21 => some .vperm
  | 0x22 => some .vrot
  | 0x23 => some .vbcast
  | 0x24 => some .vzip
  | 0x25 => some .vunzip
  | 0x26 => some .vpack
  | 0x27 => some .vunpack
  | 0x28 => some .viota
  | 0x30 => some .vcvt
  | 0x31 => some .vcvts
  | 0x40 => some .vexp2
  | 0x41 => some .vlog2
  | 0x42 => some .vsig
  | 0x43 => some .vtanh
  | 0x44 => some .vrcp
  | 0x45 => some .vrsq
  | 0x50 => some .vrsum
  | 0x51 => some .vrmax
  | 0x52 => some .vrmin
  | 0x53 => some .vramax
  | 0x60 => some .vld
  | 0x61 => some .vst
  | 0x62 => some .vgath
  | 0x63 => some .vscat
  | 0x64 => some .vscata
  | 0x65 => some .vatom
  | 0x70 => some .vsbp
  | 0x71 => some .vycvt
  | 0x72 => some .vyclr
  | 0x73 => some .vyadd
  | _ => none

/-- The instruction of a vector form and its word. -/
def VOp.instr : VOp → VWord → Instr
  | .vadd, w => .vadd w
  | .vsub, w => .vsub w
  | .vmul, w => .vmul w
  | .vfma, w => .vfma w
  | .vfms, w => .vfms w
  | .vmin, w => .vmin w
  | .vmax, w => .vmax w
  | .vabs, w => .vabs w
  | .vneg, w => .vneg w
  | .vmulh, w => .vmulh w
  | .vand, w => .vand w
  | .vor, w => .vor w
  | .vxor, w => .vxor w
  | .vnot, w => .vnot w
  | .vshl, w => .vshl w
  | .vshr, w => .vshr w
  | .vcmp, w => .vcmp w
  | .vmand, w => .vmand w
  | .vmor, w => .vmor w
  | .vmxor, w => .vmxor w
  | .vmnot, w => .vmnot w
  | .vsel, w => .vsel w
  | .vclamp, w => .vclamp w
  | .vmcnt, w => .vmcnt w
  | .vmov, w => .vmov w
  | .vperm, w => .vperm w
  | .vrot, w => .vrot w
  | .vbcast, w => .vbcast w
  | .vzip, w => .vzip w
  | .vunzip, w => .vunzip w
  | .vpack, w => .vpack w
  | .vunpack, w => .vunpack w
  | .viota, w => .viota w
  | .vcvt, w => .vcvt w
  | .vcvts, w => .vcvts w
  | .vexp2, w => .vexp2 w
  | .vlog2, w => .vlog2 w
  | .vsig, w => .vsig w
  | .vtanh, w => .vtanh w
  | .vrcp, w => .vrcp w
  | .vrsq, w => .vrsq w
  | .vrsum, w => .vrsum w
  | .vrmax, w => .vrmax w
  | .vrmin, w => .vrmin w
  | .vramax, w => .vramax w
  | .vld, w => .vld w
  | .vst, w => .vst w
  | .vgath, w => .vgath w
  | .vscat, w => .vscat w
  | .vscata, w => .vscata w
  | .vatom, w => .vatom w
  | .vsbp, w => .vsbp w
  | .vycvt, w => .vycvt w
  | .vyclr, w => .vyclr w
  | .vyadd, w => .vyadd w

/-- The form and word of a vector instruction that has operands. -/
def Instr.vec? : Instr → Option (VOp × VWord)
  | .vadd w => some (.vadd, w)
  | .vsub w => some (.vsub, w)
  | .vmul w => some (.vmul, w)
  | .vfma w => some (.vfma, w)
  | .vfms w => some (.vfms, w)
  | .vmin w => some (.vmin, w)
  | .vmax w => some (.vmax, w)
  | .vabs w => some (.vabs, w)
  | .vneg w => some (.vneg, w)
  | .vmulh w => some (.vmulh, w)
  | .vand w => some (.vand, w)
  | .vor w => some (.vor, w)
  | .vxor w => some (.vxor, w)
  | .vnot w => some (.vnot, w)
  | .vshl w => some (.vshl, w)
  | .vshr w => some (.vshr, w)
  | .vcmp w => some (.vcmp, w)
  | .vmand w => some (.vmand, w)
  | .vmor w => some (.vmor, w)
  | .vmxor w => some (.vmxor, w)
  | .vmnot w => some (.vmnot, w)
  | .vsel w => some (.vsel, w)
  | .vclamp w => some (.vclamp, w)
  | .vmcnt w => some (.vmcnt, w)
  | .vmov w => some (.vmov, w)
  | .vperm w => some (.vperm, w)
  | .vrot w => some (.vrot, w)
  | .vbcast w => some (.vbcast, w)
  | .vzip w => some (.vzip, w)
  | .vunzip w => some (.vunzip, w)
  | .vpack w => some (.vpack, w)
  | .vunpack w => some (.vunpack, w)
  | .viota w => some (.viota, w)
  | .vcvt w => some (.vcvt, w)
  | .vcvts w => some (.vcvts, w)
  | .vexp2 w => some (.vexp2, w)
  | .vlog2 w => some (.vlog2, w)
  | .vsig w => some (.vsig, w)
  | .vtanh w => some (.vtanh, w)
  | .vrcp w => some (.vrcp, w)
  | .vrsq w => some (.vrsq, w)
  | .vrsum w => some (.vrsum, w)
  | .vrmax w => some (.vrmax, w)
  | .vrmin w => some (.vrmin, w)
  | .vramax w => some (.vramax, w)
  | .vld w => some (.vld, w)
  | .vst w => some (.vst, w)
  | .vgath w => some (.vgath, w)
  | .vscat w => some (.vscat, w)
  | .vscata w => some (.vscata, w)
  | .vatom w => some (.vatom, w)
  | .vsbp w => some (.vsbp, w)
  | .vycvt w => some (.vycvt, w)
  | .vyclr w => some (.vyclr, w)
  | .vyadd w => some (.vyadd, w)
  | _ => none

/-- Opcode of R173. -/
def MOp.code : MOp → Nat
  | .mdot => 0x01
  | .msbp => 0x02
  | .mlatch => 0x04
  | .mzero => 0x08
  | .mret => 0x0C
  | .mretz => 0x0D
  | .mldt => 0x10
  | .mstt => 0x14
  | .msttb => 0x15
  | .mstth => 0x16
  | .mftld => 0x20
  | .mtok => 0x30

/-- The form of an opcode of R173 that carries more than a stamp. -/
def MOp.ofCode : Nat → Option MOp
  | 0x01 => some .mdot
  | 0x02 => some .msbp
  | 0x04 => some .mlatch
  | 0x08 => some .mzero
  | 0x0C => some .mret
  | 0x0D => some .mretz
  | 0x10 => some .mldt
  | 0x14 => some .mstt
  | 0x15 => some .msttb
  | 0x16 => some .mstth
  | 0x20 => some .mftld
  | 0x30 => some .mtok
  | _ => none

/-- The instruction of a matrix form and its word. -/
def MOp.instr : MOp → MWord → Instr
  | .mdot, w => .mdot w
  | .msbp, w => .msbp w
  | .mlatch, w => .mlatch w
  | .mzero, w => .mzero w
  | .mret, w => .mret w
  | .mretz, w => .mretz w
  | .mldt, w => .mldt w
  | .mstt, w => .mstt w
  | .msttb, w => .msttb w
  | .mstth, w => .mstth w
  | .mftld, w => .mftld w
  | .mtok, w => .mtok w

/-- The form and word of a matrix instruction that carries more than a stamp. -/
def Instr.mat? : Instr → Option (MOp × MWord)
  | .mdot w => some (.mdot, w)
  | .msbp w => some (.msbp, w)
  | .mlatch w => some (.mlatch, w)
  | .mzero w => some (.mzero, w)
  | .mret w => some (.mret, w)
  | .mretz w => some (.mretz, w)
  | .mldt w => some (.mldt, w)
  | .mstt w => some (.mstt, w)
  | .msttb w => some (.msttb, w)
  | .mstth w => some (.mstth, w)
  | .mftld w => some (.mftld, w)
  | .mtok w => some (.mtok, w)
  | _ => none

end Sys2Proof

namespace Sys2Proof.Machine

/-- The operand roles of R280; `iota` and `acts` are the sources of restricted kinds of VIOTA and
VSBP (R287). -/
inductive Role
  | absent | source | dest | mask | y | count | index | records | sp | v | iota | acts
deriving DecidableEq, Repr

/-- How a form uses `RND` or `SAT` (R287). -/
inductive Use
  | no | yes | fOnly | iOnly
deriving DecidableEq, Repr

/-- A row of R287. -/
structure VForm where
  types : ElemTy → Bool
  d : Role
  a : Role
  b : Role
  rnd : Use
  sat : Use
  masked : Bool

def tF (t : ElemTy) : Bool := t.isF
def tFI (t : ElemTy) : Bool := t.isF || t.isI
def tFI4 (t : ElemTy) : Bool := t.isF || t.isInt
def tI (t : ElemTy) : Bool := t.isI
def tI4 (t : ElemTy) : Bool := t.isInt
def tP (t : ElemTy) : Bool := t.isP
def tF32 (t : ElemTy) : Bool := t == .f32
def tW32 (t : ElemTy) : Bool := t.isW32

/-- The rows of R287. -/
def vform : VOp → VForm
  | .vadd | .vsub => ⟨tFI4, .dest, .source, .source, .fOnly, .yes, true⟩
  | .vmul => ⟨tFI, .dest, .source, .source, .fOnly, .yes, true⟩
  | .vfma | .vfms => ⟨tFI, .dest, .source, .source, .fOnly, .yes, true⟩
  | .vmin | .vmax => ⟨tFI4, .dest, .source, .source, .no, .no, true⟩
  | .vabs | .vneg => ⟨tFI4, .dest, .source, .absent, .no, .iOnly, true⟩
  | .vmulh => ⟨tI, .dest, .source, .source, .no, .no, true⟩
  | .vand | .vor | .vxor => ⟨tP, .dest, .source, .source, .no, .no, true⟩
  | .vnot => ⟨tP, .dest, .source, .absent, .no, .no, true⟩
  | .vshl | .vshr => ⟨tI4, .dest, .source, .source, .no, .no, true⟩
  | .vcmp => ⟨fun t => t.isF || t.isQ8 || t.isI, .mask, .source, .source, .no, .no, true⟩
  | .vmand | .vmor | .vmxor => ⟨tF32, .mask, .mask, .mask, .no, .no, false⟩
  | .vmnot => ⟨tF32, .mask, .mask, .absent, .no, .no, false⟩
  | .vsel => ⟨tP, .dest, .source, .source, .no, .no, true⟩
  | .vclamp => ⟨tFI4, .dest, .source, .source, .no, .no, true⟩
  | .vmcnt => ⟨fun t => t == .i32 || t == .n32, .dest, .mask, .absent, .no, .no, true⟩
  | .vmov => ⟨tP, .dest, .source, .absent, .no, .no, true⟩
  | .vperm => ⟨fun t => t.isP && (t.width == 16 || t.width == 32), .dest, .source, .source, .no, .no, true⟩
  | .vrot | .vbcast => ⟨tP, .dest, .source, .count, .no, .no, true⟩
  | .vzip | .vunzip => ⟨tP, .dest, .source, .source, .no, .no, true⟩
  | .vpack => ⟨tI, .dest, .source, .source, .no, .no, true⟩
  | .vunpack => ⟨tI, .dest, .source, .absent, .no, .no, true⟩
  | .viota => ⟨tI4, .dest, .iota, .absent, .no, .no, true⟩
  | .vcvt => ⟨fun _ => true, .dest, .source, .absent, .yes, .yes, true⟩
  | .vcvts => ⟨fun _ => true, .dest, .source, .count, .yes, .yes, true⟩
  | .vexp2 | .vlog2 | .vsig | .vtanh | .vrcp | .vrsq =>
    ⟨tF32, .dest, .source, .absent, .no, .no, true⟩
  | .vrsum => ⟨tFI, .dest, .source, .absent, .fOnly, .yes, true⟩
  | .vrmax | .vrmin | .vramax => ⟨tFI, .dest, .source, .absent, .no, .no, true⟩
  | .vld => ⟨tP, .v, .sp, .absent, .no, .no, true⟩
  | .vst => ⟨tP, .sp, .source, .absent, .no, .no, true⟩
  | .vgath => ⟨tW32, .v, .index, .count, .no, .no, true⟩
  | .vscat | .vscata => ⟨tW32, .index, .source, .count, .no, .no, true⟩
  | .vatom => ⟨tW32, .sp, .source, .absent, .no, .no, true⟩
  | .vsbp => ⟨fun t => t.isQ8 || t == .i8 || t == .n8, .y, .acts, .records, .no, .no, true⟩
  | .vycvt => ⟨tF32, .dest, .y, .absent, .yes, .no, true⟩
  | .vyclr => ⟨tF32, .y, .absent, .absent, .no, .no, true⟩
  | .vyadd => ⟨fun t => t == .f32 || t == .i32, .y, .source, .absent, .no, .no, true⟩

/-- Half the width, same signedness (R296). -/
def narrowTy : ElemTy → ElemTy
  | .i32 => .i16 | .i16 => .i8 | .i8 => .i4
  | .n32 => .n16 | .n16 => .n8 | .n8 => .n4
  | t => t

/-- The unsigned type of a signed type's width. -/
def unsignedTy : ElemTy → ElemTy
  | .i32 => .n32 | .i16 => .n16 | .i8 => .n8 | .i4 => .n4
  | t => t

/-- The result type of a reduction (R300). -/
def reduceTy (op : VOp) (t : ElemTy) (wide : Bool) : ElemTy :=
  if wide then
    if t.isF then .f32 else if op == .vramax then .n32 else if t.isSigned then .i32 else .n32
  else if op == .vramax then unsignedTy t else t

/-- The role types of D, A and B (R281, R289 to R310). -/
def roleTys (op : VOp) (w : VWord) : ElemTy × ElemTy × ElemTy :=
  let t := w.etype
  match op with
  | .vpack => (narrowTy t, t, t)
  | .vunpack => (t, narrowTy t, t)
  | .vcvt | .vcvts => (t, ElemTy.ofCode w.fn.toNat, t)
  | .vrsum | .vrmax | .vrmin | .vramax => (reduceTy op t (bitAt w.fn.toNat 0), t, t)
  | _ => (t, t, t)

/-- Whether a small immediate is legal for a floating-point role type (R281). -/
def immFits (t : ElemTy) (v : Nat) : Bool :=
  if t == .f16 || t == .e4m3 || t == .e5m2 then
    let x := decodeF (fmtOf .bf16) v
    match x with
    | .nan => true
    | .inf _ => (fmtOf t).hasInf
    | x => Fp.eqv (decodeF (fmtOf t) (toFloat false t .rtz true true x)) x
  else true

/-- Whether a specifier of a source or destination is legal for its role type (R281, R166). -/
def specFits (t : ElemTy) : Spec → Bool
  | .v _ => true
  | .q _ => true
  | .row _ _ _ => t.width == 32
  | .col _ _ _ => t.width == 32
  | .sp _ s _ => s != 15
  | .g _ => !t.isS
  | .imm v => !t.isS && immFits t v.toNat
  | .y _ => false

/-- Whether a specifier is of a kind its role allows (R280). -/
def roleFits (r : Role) (t : ElemTy) (s : Spec) : Bool :=
  match r, s with
  | .absent, s => s == .v 0
  | .source, .y _ => false
  | .source, s => specFits t s
  | .dest, .v _ => true
  | .dest, .row a b c => specFits t (.row a b c)
  | .dest, .col a b c => specFits t (.col a b c)
  | .dest, .sp a b c => specFits t (.sp a b c)
  | .mask, .v n => decide (n.toNat < 8)
  | .y, .y _ => true
  | .count, .g _ => true
  | .count, .imm _ => true
  | .index, .v _ => true
  | .records, .v _ => true
  | .records, .sp _ k _ => k != 15
  | .sp, .sp _ k _ => k != 15
  | .v, .v _ => true
  | .iota, .g _ => true
  | .iota, .imm _ => true
  | .acts, .v _ => true
  | .acts, .q _ => true
  | .acts, .sp _ k _ => k != 15
  | _, _ => false

def useFits (u : Use) (t : ElemTy) (zero : Bool) : Bool :=
  match u with
  | .no => zero
  | .yes => true
  | .fOnly => t.isF || zero
  | .iOnly => t.isInt || zero

/-- The `FN` values an entry assigns (R292, R295, R296, R297, R300, R304, R307, R308). -/
def fnFits (op : VOp) (t : ElemTy) (fn : Nat) : Bool :=
  match op with
  | .vcmp =>
    let c := fn % 8
    c != 7 && (c != 6 || t.isF || t.isQ8) && decide (fn / 8 < 32 / t.width)
  | .vzip | .vunzip | .vunpack | .vrsum | .vrmax | .vrmin | .vramax => decide (fn < 2)
  | .vcvt | .vcvts => decide (fn < 16) && !(t.isS && (ElemTy.ofCode fn).isS)
  | .vscata => fn == 0 || (fn == 1 && t == .f32)
  | .vatom =>
    let o := fn % 8
    if o == 6 then decide (fn < 16) && t == .f32
    else decide (fn < 6) && (t == .i32 || t == .n32)
  | .vsbp => decide (16 ≤ fn) || decide (fn < 8)
  | _ => fn == 0

/-- Whether the form uses `RLXO` and `RLXV` (R284). -/
def usesRlx : VOp → Bool
  | .vst | .vscat | .vscata | .vatom => true
  | _ => false

/-- Whether a vector word is a legal encoding, as far as the word alone decides it (R286). -/
def vLegal (op : VOp) (w : VWord) : Bool :=
  let f := vform op
  let ts := roleTys op w
  f.types w.etype
    && fnFits op w.etype w.fn.toNat
    && roleFits f.d ts.1 w.d && roleFits f.a ts.2.1 w.a && roleFits f.b ts.2.2 w.b
    && useFits f.rnd w.etype (w.rnd == .rne)
    && useFits f.sat w.etype (!w.sat)
    && (usesRlx op || (!w.rlxo && !w.rlxv))
    && (f.masked || (w.msk == 0 && !w.msn && w.nv == 0))

/-- The fields a matrix form uses besides stamp (R173). -/
structure MForm where
  all : Bool
  cls : Bool
  tile : Bool
  counts : Bool
  a : Bool
  b : Bool
  latch : Bool

/-- The rows of R173. -/
def mform : MOp → MForm
  | .mdot | .msbp => ⟨true, true, true, true, true, true, false⟩
  | .mlatch => ⟨false, true, false, false, false, true, true⟩
  | .mzero => ⟨false, false, true, true, false, false, false⟩
  | .mret | .mretz => ⟨false, false, true, false, false, false, false⟩
  | .mldt | .mstt | .msttb | .mstth => ⟨false, true, true, true, true, false, false⟩
  | .mftld => ⟨false, true, false, false, false, true, false⟩
  | .mtok => ⟨false, false, false, false, false, false, false⟩

/-- Whether a matrix word is a legal encoding (R171, R173, R325, R327, R330). -/
def mLegal (op : MOp) (w : MWord) : Bool :=
  let f := mform op
  (f.all || (w.slot == 0 && !w.ovw))
    && (f.cls || w.cls == 0)
    && (f.tile || w.tile == 0)
    && (f.counts || (w.nr == 0 && w.nc == 0))
    && (if f.a then w.astr != 0 else w.astr == 0 && w.abase == 0 && w.aisc == 0 && w.ainc == 0 && !w.atr)
    && (f.b || (w.bbase == 0 && w.bisc == 0 && w.binc == 0))
    && (if f.all then
          w.bsrc != 1 && (op != .msbp || !w.btr)
            && (w.bsrc == 0 || (!w.btr && w.bbase == 0 && w.bisc == 0 && w.binc == 0))
        else if f.latch then w.bsrc == 2 || w.bsrc == 3
        else w.bsrc == 0 && !w.btr)

end Sys2Proof.Machine
end

