-- ==== Sys2Proof/WellFormed.lean ====
section
/-!
DEFINITION. Which terms of `Instr` stand for a word of the manual (R160, R163, R286): everything the
types of the fields do not already say. Events carry no word and are well-formed as they stand.
-/
namespace Sys2Proof

/-- R160: GCAS and ACAS name an even register; LSTART names level 0 to 5. -/
def scalarWf : Instr → Bool
  | .gcas _ d _ _ _ _ => d.toNat % 2 == 0
  | .acas _ d _ _ _ => d.toNat % 2 == 0
  | .lstart _ l => decide (l.toNat < 6)
  | _ => true

/-- R166, R280, R281, R286, R287. -/
def vectorWf (i : Instr) : Bool :=
  match i.vec? with
  | some (op, w) => Machine.vLegal op w
  | none => true

/-- R171, R173, R325, R327, R330. -/
def matrixWf (i : Instr) : Bool :=
  match i.mat? with
  | some (op, w) => Machine.mLegal op w
  | none => true

/-- An instruction that its encoding can name. -/
def Instr.wf (i : Instr) : Bool := scalarWf i && vectorWf i && matrixWf i

end Sys2Proof
end

