-- ==== Sys2Proof/Decode.lean ====
section
/-!
DEFINITION. Words to instructions and back (R157 to R173): three total decoders that reject by name,
one for each stream, and the encoders written from the same tables.
-/
namespace Sys2Proof

open Sys2Proof.Machine (bits bitAt b2n toLe ofLe)

/-- Why a word is no instruction (R163). -/
inductive Reject
  /-- A major, function, sub-code, level or opcode that no table lists. -/
  | unassigned
  /-- A reserved field, a field that must be zero, or a register outside its set. -/
  | field
  /-- A vector or matrix word contrary to R166, R171, R281, R286 or R287. -/
  | form
deriving DecidableEq, Repr

/-! ### Fields -/

/-- The `n`-bit field whose lowest bit is bit `lo`. -/
def fd (n : Nat) (w lo : Nat) : BitVec n := BitVec.ofNat n (w / 2 ^ lo)
def f3 (w lo : Nat) : BitVec 3 := fd 3 w lo
def f5 (w lo : Nat) : BitVec 5 := fd 5 w lo
def f6 (w lo : Nat) : BitVec 6 := fd 6 w lo

/-- The `n` bits from bit `lo` are zero. -/
def z (w lo n : Nat) : Bool := w / 2 ^ lo % 2 ^ n == 0
/-- A 5-bit register field names one of eight registers (R158). -/
def r3 (w lo : Nat) : Bool := z w (lo + 3) 2
/-- A register field is even (R160). -/
def even (w lo : Nat) : Bool := z w lo 1
/-- Idle count, guard predicate and sense (R157). -/
def hd (w : Nat) : SHdr := ⟨f3 w 29, f3 w 26, bitAt w 25⟩

/-! ### Scalar words -/

/-- Major 0x01 (R159). -/
def decInt (w : Nat) : Except Reject Instr :=
  match w % 16 with
  | 0 => .ok (.add (hd w) (f5 w 14) (f5 w 9) (f5 w 4))
  | 1 => .ok (.sub (hd w) (f5 w 14) (f5 w 9) (f5 w 4))
  | 2 => .ok (.and (hd w) (f5 w 14) (f5 w 9) (f5 w 4))
  | 3 => .ok (.or (hd w) (f5 w 14) (f5 w 9) (f5 w 4))
  | 4 => .ok (.xor (hd w) (f5 w 14) (f5 w 9) (f5 w 4))
  | 5 => .ok (.andn (hd w) (f5 w 14) (f5 w 9) (f5 w 4))
  | 6 => .ok (.shl (hd w) (f5 w 14) (f5 w 9) (f5 w 4))
  | 7 => .ok (.shr (hd w) (f5 w 14) (f5 w 9) (f5 w 4))
  | 8 => .ok (.sra (hd w) (f5 w 14) (f5 w 9) (f5 w 4))
  | 9 => .ok (.min (hd w) (f5 w 14) (f5 w 9) (f5 w 4))
  | 10 => .ok (.max (hd w) (f5 w 14) (f5 w 9) (f5 w 4))
  | 11 => .ok (.minu (hd w) (f5 w 14) (f5 w 9) (f5 w 4))
  | 12 => .ok (.maxu (hd w) (f5 w 14) (f5 w 9) (f5 w 4))
  | _ => .error .unassigned

/-- Major 0x02 (R159). -/
def decMul (w : Nat) : Except Reject Instr :=
  match w % 16 with
  | 0 => .ok (.mul (hd w) (f5 w 14) (f5 w 9) (f5 w 4))
  | 1 => .ok (.mulh (hd w) (f5 w 14) (f5 w 9) (f5 w 4))
  | 2 => .ok (.mulhu (hd w) (f5 w 14) (f5 w 9) (f5 w 4))
  | 4 => .ok (.div (hd w) (f5 w 14) (f5 w 9) (f5 w 4))
  | 5 => .ok (.divu (hd w) (f5 w 14) (f5 w 9) (f5 w 4))
  | 6 => .ok (.rem (hd w) (f5 w 14) (f5 w 9) (f5 w 4))
  | 7 => .ok (.remu (hd w) (f5 w 14) (f5 w 9) (f5 w 4))
  | _ => .error .unassigned

/-- Major 0x03 (R159). -/
def decCmp (w : Nat) : Except Reject Instr :=
  match w % 16 with
  | 0 => if r3 w 14 then .ok (.ceq (hd w) (f3 w 14) (f5 w 9) (f5 w 4)) else .error .field
  | 1 => if r3 w 14 then .ok (.cne (hd w) (f3 w 14) (f5 w 9) (f5 w 4)) else .error .field
  | 2 => if r3 w 14 then .ok (.clt (hd w) (f3 w 14) (f5 w 9) (f5 w 4)) else .error .field
  | 3 => if r3 w 14 then .ok (.cle (hd w) (f3 w 14) (f5 w 9) (f5 w 4)) else .error .field
  | 4 => if r3 w 14 then .ok (.cltu (hd w) (f3 w 14) (f5 w 9) (f5 w 4)) else .error .field
  | 5 => if r3 w 14 then .ok (.cleu (hd w) (f3 w 14) (f5 w 9) (f5 w 4)) else .error .field
  | 8 => if r3 w 14 then .ok (.fceq (hd w) (f3 w 14) (f5 w 9) (f5 w 4)) else .error .field
  | 9 => if r3 w 14 then .ok (.fclt (hd w) (f3 w 14) (f5 w 9) (f5 w 4)) else .error .field
  | 10 => if r3 w 14 then .ok (.fcle (hd w) (f3 w 14) (f5 w 9) (f5 w 4)) else .error .field
  | 11 => if r3 w 14 then .ok (.fcun (hd w) (f3 w 14) (f5 w 9) (f5 w 4)) else .error .field
  | _ => .error .unassigned

/-- Major 0x04 (R159). -/
def decPred (w : Nat) : Except Reject Instr :=
  match w % 16 with
  | 0 => if r3 w 14 && r3 w 9 && r3 w 4 then .ok (.pand (hd w) (f3 w 14) (f3 w 9) (f3 w 4)) else .error .field
  | 1 => if r3 w 14 && r3 w 9 && r3 w 4 then .ok (.por (hd w) (f3 w 14) (f3 w 9) (f3 w 4)) else .error .field
  | 2 => if r3 w 14 && r3 w 9 && r3 w 4 then .ok (.pxor (hd w) (f3 w 14) (f3 w 9) (f3 w 4)) else .error .field
  | 3 => if r3 w 14 && r3 w 9 && r3 w 4 then .ok (.pandn (hd w) (f3 w 14) (f3 w 9) (f3 w 4)) else .error .field
  | 4 => if r3 w 14 && r3 w 9 && z w 4 5 then .ok (.pnot (hd w) (f3 w 14) (f3 w 9)) else .error .field
  | 8 => if z w 4 10 then .ok (.psave (hd w) (f5 w 14)) else .error .field
  | 9 => if z w 14 5 && z w 4 5 then .ok (.pload (hd w) (f5 w 9)) else .error .field
  | _ => .error .unassigned

/-- Major 0x05 (R159). -/
def decFp (w : Nat) : Except Reject Instr :=
  match w % 16 with
  | 0 => .ok (.fadd (hd w) (f5 w 14) (f5 w 9) (f5 w 4))
  | 1 => .ok (.fsub (hd w) (f5 w 14) (f5 w 9) (f5 w 4))
  | 2 => .ok (.fmul (hd w) (f5 w 14) (f5 w 9) (f5 w 4))
  | 3 => .ok (.fma (hd w) (f5 w 14) (f5 w 9) (f5 w 4))
  | 4 => .ok (.fdiv (hd w) (f5 w 14) (f5 w 9) (f5 w 4))
  | 5 => .ok (.fmin (hd w) (f5 w 14) (f5 w 9) (f5 w 4))
  | 6 => .ok (.fmax (hd w) (f5 w 14) (f5 w 9) (f5 w 4))
  | 7 => if z w 4 5 then .ok (.fabs (hd w) (f5 w 14) (f5 w 9)) else .error .field
  | 8 => if z w 4 5 then .ok (.fneg (hd w) (f5 w 14) (f5 w 9)) else .error .field
  | 9 => if z w 4 5 then .ok (.fcvti (hd w) (f5 w 14) (f5 w 9)) else .error .field
  | 10 => if z w 4 5 then .ok (.fcvtiz (hd w) (f5 w 14) (f5 w 9)) else .error .field
  | 11 => if z w 4 5 then .ok (.fcvtf (hd w) (f5 w 14) (f5 w 9)) else .error .field
  | _ => .error .unassigned

/-- Major 0x06 (R159). -/
def decAddr (w : Nat) : Except Reject Instr :=
  match w % 16 with
  | 0 => if r3 w 14 && r3 w 9 then .ok (.xadd (hd w) (f3 w 14) (f3 w 9) (f5 w 4)) else .error .field
  | 1 => if r3 w 14 then .ok (.xset (hd w) (f3 w 14) (f5 w 9) (f5 w 4)) else .error .field
  | 2 => if r3 w 9 && z w 4 5 then .ok (.xlo (hd w) (f5 w 14) (f3 w 9)) else .error .field
  | 3 => if r3 w 9 && z w 4 5 then .ok (.xhi (hd w) (f5 w 14) (f3 w 9)) else .error .field
  | 4 => if r3 w 14 && r3 w 9 && z w 4 5 then .ok (.xmov (hd w) (f3 w 14) (f3 w 9)) else .error .field
  | _ => .error .unassigned

/-- Major 0x07 (R159). -/
def decSys (w : Nat) : Except Reject Instr :=
  match w / 2 ^ 14 % 32 with
  | 0 => if z w 8 6 && z w 5 3 && z w 0 5 then .ok (.tret (hd w) ) else .error .field
  | 1 => if z w 5 3 && z w 0 5 then .ok (.trap (hd w) (f6 w 8)) else .error .field
  | 2 => if z w 8 6 && z w 5 3 then .ok (.featq (hd w) (f5 w 0)) else .error .field
  | 3 => .ok (.tlbinv (hd w) (f6 w 8) (f3 w 5) (f5 w 0))
  | 8 => if z w 5 3 then .ok (.ctxpark (hd w) (f6 w 8) (f5 w 0)) else .error .field
  | 9 => .ok (.ctxrun (hd w) (f6 w 8) (f3 w 5) (f5 w 0))
  | 10 => if z w 5 3 then .ok (.kindle (hd w) (f6 w 8) (f5 w 0)) else .error .field
  | 11 => if z w 5 3 then .ok (.douse (hd w) (f6 w 8) (f5 w 0)) else .error .field
  | 12 => if z w 5 3 then .ok (.tagset (hd w) (f6 w 8) (f5 w 0)) else .error .field
  | 13 => if z w 8 6 && z w 5 3 then .ok (.fbpop (hd w) (f5 w 0)) else .error .field
  | 14 => if z w 5 3 then .ok (.selftest (hd w) (f6 w 8) (f5 w 0)) else .error .field
  | 15 => if z w 8 6 && z w 5 3 then .ok (.shsleep (hd w) (f5 w 0)) else .error .field
  | _ => .error .unassigned

/-- Major 0x31 (R159). -/
def decCreg (w : Nat) : Except Reject Instr :=
  match w / 2 ^ 12 % 4 with
  | 0 => .ok (.crd (hd w) (f5 w 14) (fd 12 w 0))
  | 1 => .ok (.cwr (hd w) (f5 w 14) (fd 12 w 0))
  | _ => .error .unassigned

/-- Major 0x34 (R159). -/
def decCopy (w : Nat) : Except Reject Instr :=
  match w / 2 ^ 14 % 32 with
  | 0 => .ok (.cpy (hd w) (f6 w 8) (f3 w 5) (f5 w 0))
  | 1 => .ok (.cpyt (hd w) (f6 w 8) (f3 w 5) (f5 w 0))
  | 2 => .ok (.ccvt (hd w) (f6 w 8) (f3 w 5) (f5 w 0))
  | 3 => .ok (.cqnt (hd w) (f6 w 8) (f3 w 5) (f5 w 0))
  | 4 => .ok (.cqnth (hd w) (f6 w 8) (f3 w 5) (f5 w 0))
  | 5 => .ok (.csort (hd w) (f6 w 8) (f3 w 5) (f5 w 0))
  | 6 => .ok (.ccmpb (hd w) (f6 w 8) (f3 w 5) (f5 w 0))
  | 7 => .ok (.cexpb (hd w) (f6 w 8) (f3 w 5) (f5 w 0))
  | 8 => .ok (.ccmpp (hd w) (f6 w 8) (f3 w 5) (f5 w 0))
  | 9 => .ok (.cexpp (hd w) (f6 w 8) (f3 w 5) (f5 w 0))
  | 10 => .ok (.cdec (hd w) (f6 w 8) (f3 w 5) (f5 w 0))
  | 11 => .ok (.cenc (hd w) (f6 w 8) (f3 w 5) (f5 w 0))
  | 12 => if z w 5 3 then .ok (.cfill (hd w) (f6 w 8) (f5 w 0)) else .error .field
  | 13 => .ok (.cgath (hd w) (f6 w 8) (f3 w 5) (f5 w 0))
  | 14 => .ok (.cscat (hd w) (f6 w 8) (f3 w 5) (f5 w 0))
  | 16 => .ok (.pcpy (hd w) (f6 w 8) (f3 w 5) (f5 w 0))
  | 17 => .ok (.pcvt (hd w) (f6 w 8) (f3 w 5) (f5 w 0))
  | 18 => .ok (.pdec (hd w) (f6 w 8) (f3 w 5) (f5 w 0))
  | 19 => .ok (.penc (hd w) (f6 w 8) (f3 w 5) (f5 w 0))
  | 24 => if z w 8 6 then .ok (.qbind (hd w) (f3 w 5) (f5 w 0)) else .error .field
  | 25 => if z w 8 6 && z w 0 5 then .ok (.qrel (hd w) (f3 w 5)) else .error .field
  | _ => .error .unassigned

/-- Major 0x35 (R159). -/
def decScene (w : Nat) : Except Reject Instr :=
  match w / 2 ^ 14 % 32 with
  | 0 => if z w 5 3 then .ok (.lflush (hd w) (f6 w 8) (f5 w 0)) else .error .field
  | 3 => if z w 5 3 then .ok (.alignc (hd w) (f6 w 8) (f5 w 0)) else .error .field
  | 1 => if z w 25 4 && z w 0 14 then .ok (.scene (fd 3 w 29)) else .error .field
  | 2 => if z w 25 4 && z w 0 14 then .ok (.sceneLast (fd 3 w 29)) else .error .field
  | _ => .error .unassigned

/-- A scalar word (R157 to R160). -/
def decodeScalar (w : Nat) : Except Reject Instr :=
  match w / 2 ^ 19 % 64 with
  | 0 => if z w 0 19 then .ok (.nop (hd w)) else .error .field
  | 1 => decInt w
  | 2 => decMul w
  | 3 => decCmp w
  | 4 => decPred w
  | 5 => decFp w
  | 6 => decAddr w
  | 7 => decSys w
  | 8 => .ok (.addi (hd w) (f5 w 14) (f5 w 9) (fd 9 w 0))
  | 9 => .ok (.andi (hd w) (f5 w 14) (f5 w 9) (fd 9 w 0))
  | 10 => .ok (.ori (hd w) (f5 w 14) (f5 w 9) (fd 9 w 0))
  | 11 => .ok (.xori (hd w) (f5 w 14) (f5 w 9) (fd 9 w 0))
  | 12 => if z w 5 4 then .ok (.shli (hd w) (f5 w 14) (f5 w 9) (f5 w 0)) else .error .field
  | 13 => if z w 5 4 then .ok (.shri (hd w) (f5 w 14) (f5 w 9) (f5 w 0)) else .error .field
  | 14 => if z w 5 4 then .ok (.srai (hd w) (f5 w 14) (f5 w 9) (f5 w 0)) else .error .field
  | 15 => if r3 w 14 then .ok (.ceqi (hd w) (f3 w 14) (f5 w 9) (fd 9 w 0)) else .error .field
  | 16 => if r3 w 14 then .ok (.clti (hd w) (f3 w 14) (f5 w 9) (fd 9 w 0)) else .error .field
  | 17 => if r3 w 14 && r3 w 9 then .ok (.xaddi (hd w) (f3 w 14) (f3 w 9) (fd 9 w 0)) else .error .field
  | 18 => .ok (.liu (hd w) (f5 w 14) (fd 14 w 0))
  | 19 => .ok (.lim (hd w) (f5 w 14) (fd 14 w 0))
  | 20 => .ok (.ldb (hd w) (f5 w 14) (f5 w 9) (fd 4 w 5) (f5 w 0))
  | 21 => .ok (.ldh (hd w) (f5 w 14) (f5 w 9) (fd 4 w 5) (f5 w 0))
  | 22 => .ok (.ldw (hd w) (f5 w 14) (f5 w 9) (fd 4 w 5) (f5 w 0))
  | 23 => .ok (.stb (hd w) (f5 w 14) (f5 w 9) (fd 4 w 5) (f5 w 0))
  | 24 => .ok (.sth (hd w) (f5 w 14) (f5 w 9) (fd 4 w 5) (f5 w 0))
  | 25 => .ok (.stw (hd w) (f5 w 14) (f5 w 9) (fd 4 w 5) (f5 w 0))
  | 26 => .ok (.ldwAcq (hd w) (f5 w 14) (f5 w 9) (fd 4 w 5) (f5 w 0))
  | 27 => .ok (.stwRel (hd w) (f5 w 14) (f5 w 9) (fd 4 w 5) (f5 w 0))
  | 28 => .ok (.ldg (hd w) (f5 w 14) (f3 w 11) (fd 4 w 7) (f6 w 1) (bitAt w 0))
  | 29 => .ok (.stg (hd w) (f5 w 14) (f3 w 11) (fd 4 w 7) (f6 w 1) (bitAt w 0))
  | 30 => if r3 w 14 then .ok (.ldgx (hd w) (f3 w 14) (f3 w 11) (fd 4 w 7) (f6 w 1) (bitAt w 0)) else .error .field
  | 31 => if r3 w 14 then .ok (.stgx (hd w) (f3 w 14) (f3 w 11) (fd 4 w 7) (f6 w 1) (bitAt w 0)) else .error .field
  | 32 => .ok (.gadd (hd w) (f5 w 14) (f3 w 11) (fd 4 w 7) (f6 w 1) (bitAt w 0))
  | 33 => .ok (.gmax (hd w) (f5 w 14) (f3 w 11) (fd 4 w 7) (f6 w 1) (bitAt w 0))
  | 34 => .ok (.gswap (hd w) (f5 w 14) (f3 w 11) (fd 4 w 7) (f6 w 1) (bitAt w 0))
  | 35 => if even w 14 then .ok (.gcas (hd w) (f5 w 14) (f3 w 11) (fd 4 w 7) (f6 w 1) (bitAt w 0)) else .error .field
  | 36 => .ok (.aadd (hd w) (f5 w 14) (f5 w 9) (fd 4 w 5) (f5 w 0))
  | 37 => .ok (.amin (hd w) (f5 w 14) (f5 w 9) (fd 4 w 5) (f5 w 0))
  | 38 => .ok (.amax (hd w) (f5 w 14) (f5 w 9) (fd 4 w 5) (f5 w 0))
  | 39 => .ok (.aor (hd w) (f5 w 14) (f5 w 9) (fd 4 w 5) (f5 w 0))
  | 40 => .ok (.aswap (hd w) (f5 w 14) (f5 w 9) (fd 4 w 5) (f5 w 0))
  | 41 => if even w 14 then .ok (.acas (hd w) (f5 w 14) (f5 w 9) (fd 4 w 5) (f5 w 0)) else .error .field
  | 42 => .ok (.spl (hd w) (f5 w 14) (fd 14 w 0))
  | 43 => .ok (.sps (hd w) (f5 w 14) (fd 14 w 0))
  | 44 => .ok (.pbr (hd w) (f3 w 16) (fd 11 w 5) (f5 w 0))
  | 45 => if z w 0 16 then .ok (.br (hd w) (f3 w 16)) else .error .field
  | 46 => if z w 0 16 then .ok (.call (hd w) (f3 w 16)) else .error .field
  | 47 => if z w 0 19 then .ok (.ret (hd w)) else .error .field
  | 48 => if decide (6 ≤ w / 2 ^ 16 % 8) then .error .unassigned else if z w 0 16 then .ok (.lstart (hd w) (f3 w 16)) else .error .field
  | 49 => decCreg w
  | 50 => if z w 16 1 then .ok (.cfence (hd w) (fd 2 w 17) (fd 16 w 0)) else .error .field
  | 51 => if z w 0 7 then .ok (.waitv (hd w) (f5 w 14) (f3 w 11) (fd 4 w 7)) else .error .field
  | 52 => decCopy w
  | 53 => decScene w
  | 54 => if z w 26 3 then .ok (.idle (fd 3 w 29) (BitVec.ofNat 20 (w % 2 ^ 19 + 2 ^ 19 * (w / 2 ^ 25 % 2)))) else .error .field
  | _ => .error .unassigned

/-- Layout of R157. -/
def encWord (h : SHdr) (major ops : Nat) : Nat :=
  h.idle.toNat * 2 ^ 29 + h.gp.toNat * 2 ^ 26 + b2n h.gs * 2 ^ 25 + major * 2 ^ 19 + ops
/-- Sub-format S3 (R158). -/
def encS3 (h : SHdr) (major d a b fn : Nat) : Nat :=
  encWord h major (d * 2 ^ 14 + a * 2 ^ 9 + b * 2 ^ 4 + fn)
/-- Sub-format SI (R158). -/
def encSI (h : SHdr) (major d a imm : Nat) : Nat :=
  encWord h major (d * 2 ^ 14 + a * 2 ^ 9 + imm)
/-- Sub-format SG (R158). -/
def encSG (h : SHdr) (major d x cls tp ord : Nat) : Nat :=
  encWord h major (d * 2 ^ 14 + x * 2 ^ 11 + cls * 2 ^ 7 + tp * 2 + ord)
/-- Sub-format SX (R158). -/
def encSX (h : SHdr) (major sub tp x a : Nat) : Nat :=
  encWord h major (sub * 2 ^ 14 + tp * 2 ^ 8 + x * 2 ^ 5 + a)

/-- The word of a scalar instruction; none for every other instruction. -/
def encodeScalar : Instr → Option Nat
  | .add h d a b => some (encS3 h 0x01 d.toNat a.toNat b.toNat 0x0)
  | .sub h d a b => some (encS3 h 0x01 d.toNat a.toNat b.toNat 0x1)
  | .and h d a b => some (encS3 h 0x01 d.toNat a.toNat b.toNat 0x2)
  | .or h d a b => some (encS3 h 0x01 d.toNat a.toNat b.toNat 0x3)
  | .xor h d a b => some (encS3 h 0x01 d.toNat a.toNat b.toNat 0x4)
  | .andn h d a b => some (encS3 h 0x01 d.toNat a.toNat b.toNat 0x5)
  | .shl h d a b => some (encS3 h 0x01 d.toNat a.toNat b.toNat 0x6)
  | .shr h d a b => some (encS3 h 0x01 d.toNat a.toNat b.toNat 0x7)
  | .sra h d a b => some (encS3 h 0x01 d.toNat a.toNat b.toNat 0x8)
  | .min h d a b => some (encS3 h 0x01 d.toNat a.toNat b.toNat 0x9)
  | .max h d a b => some (encS3 h 0x01 d.toNat a.toNat b.toNat 0xa)
  | .minu h d a b => some (encS3 h 0x01 d.toNat a.toNat b.toNat 0xb)
  | .maxu h d a b => some (encS3 h 0x01 d.toNat a.toNat b.toNat 0xc)
  | .mul h d a b => some (encS3 h 0x02 d.toNat a.toNat b.toNat 0x0)
  | .mulh h d a b => some (encS3 h 0x02 d.toNat a.toNat b.toNat 0x1)
  | .mulhu h d a b => some (encS3 h 0x02 d.toNat a.toNat b.toNat 0x2)
  | .div h d a b => some (encS3 h 0x02 d.toNat a.toNat b.toNat 0x4)
  | .divu h d a b => some (encS3 h 0x02 d.toNat a.toNat b.toNat 0x5)
  | .rem h d a b => some (encS3 h 0x02 d.toNat a.toNat b.toNat 0x6)
  | .remu h d a b => some (encS3 h 0x02 d.toNat a.toNat b.toNat 0x7)
  | .ceq h d a b => some (encS3 h 0x03 d.toNat a.toNat b.toNat 0x0)
  | .cne h d a b => some (encS3 h 0x03 d.toNat a.toNat b.toNat 0x1)
  | .clt h d a b => some (encS3 h 0x03 d.toNat a.toNat b.toNat 0x2)
  | .cle h d a b => some (encS3 h 0x03 d.toNat a.toNat b.toNat 0x3)
  | .cltu h d a b => some (encS3 h 0x03 d.toNat a.toNat b.toNat 0x4)
  | .cleu h d a b => some (encS3 h 0x03 d.toNat a.toNat b.toNat 0x5)
  | .fceq h d a b => some (encS3 h 0x03 d.toNat a.toNat b.toNat 0x8)
  | .fclt h d a b => some (encS3 h 0x03 d.toNat a.toNat b.toNat 0x9)
  | .fcle h d a b => some (encS3 h 0x03 d.toNat a.toNat b.toNat 0xa)
  | .fcun h d a b => some (encS3 h 0x03 d.toNat a.toNat b.toNat 0xb)
  | .pand h d a b => some (encS3 h 0x04 d.toNat a.toNat b.toNat 0x0)
  | .por h d a b => some (encS3 h 0x04 d.toNat a.toNat b.toNat 0x1)
  | .pxor h d a b => some (encS3 h 0x04 d.toNat a.toNat b.toNat 0x2)
  | .pandn h d a b => some (encS3 h 0x04 d.toNat a.toNat b.toNat 0x3)
  | .pnot h d a => some (encS3 h 0x04 d.toNat a.toNat 0 0x4)
  | .psave h d => some (encS3 h 0x04 d.toNat 0 0 0x8)
  | .pload h a => some (encS3 h 0x04 0 a.toNat 0 0x9)
  | .fadd h d a b => some (encS3 h 0x05 d.toNat a.toNat b.toNat 0x0)
  | .fsub h d a b => some (encS3 h 0x05 d.toNat a.toNat b.toNat 0x1)
  | .fmul h d a b => some (encS3 h 0x05 d.toNat a.toNat b.toNat 0x2)
  | .fma h d a b => some (encS3 h 0x05 d.toNat a.toNat b.toNat 0x3)
  | .fdiv h d a b => some (encS3 h 0x05 d.toNat a.toNat b.toNat 0x4)
  | .fmin h d a b => some (encS3 h 0x05 d.toNat a.toNat b.toNat 0x5)
  | .fmax h d a b => some (encS3 h 0x05 d.toNat a.toNat b.toNat 0x6)
  | .fabs h d a => some (encS3 h 0x05 d.toNat a.toNat 0 0x7)
  | .fneg h d a => some (encS3 h 0x05 d.toNat a.toNat 0 0x8)
  | .fcvti h d a => some (encS3 h 0x05 d.toNat a.toNat 0 0x9)
  | .fcvtiz h d a => some (encS3 h 0x05 d.toNat a.toNat 0 0xa)
  | .fcvtf h d a => some (encS3 h 0x05 d.toNat a.toNat 0 0xb)
  | .xadd h d a b => some (encS3 h 0x06 d.toNat a.toNat b.toNat 0x0)
  | .xset h d a b => some (encS3 h 0x06 d.toNat a.toNat b.toNat 0x1)
  | .xlo h d a => some (encS3 h 0x06 d.toNat a.toNat 0 0x2)
  | .xhi h d a => some (encS3 h 0x06 d.toNat a.toNat 0 0x3)
  | .xmov h d a => some (encS3 h 0x06 d.toNat a.toNat 0 0x4)
  | .addi h d a imm => some (encSI h 0x08 d.toNat a.toNat imm.toNat)
  | .andi h d a imm => some (encSI h 0x09 d.toNat a.toNat imm.toNat)
  | .ori h d a imm => some (encSI h 0x0a d.toNat a.toNat imm.toNat)
  | .xori h d a imm => some (encSI h 0x0b d.toNat a.toNat imm.toNat)
  | .shli h d a imm => some (encSI h 0x0c d.toNat a.toNat imm.toNat)
  | .shri h d a imm => some (encSI h 0x0d d.toNat a.toNat imm.toNat)
  | .srai h d a imm => some (encSI h 0x0e d.toNat a.toNat imm.toNat)
  | .ceqi h d a imm => some (encSI h 0x0f d.toNat a.toNat imm.toNat)
  | .clti h d a imm => some (encSI h 0x10 d.toNat a.toNat imm.toNat)
  | .xaddi h d a imm => some (encSI h 0x11 d.toNat a.toNat imm.toNat)
  | .liu h d imm => some (encWord h 0x12 (d.toNat * 2 ^ 14 + imm.toNat))
  | .lim h d imm => some (encWord h 0x13 (d.toNat * 2 ^ 14 + imm.toNat))
  | .ldb h d a cls off => some (encWord h 0x14 (d.toNat * 2 ^ 14 + a.toNat * 2 ^ 9 + cls.toNat * 2 ^ 5 + off.toNat))
  | .ldh h d a cls off => some (encWord h 0x15 (d.toNat * 2 ^ 14 + a.toNat * 2 ^ 9 + cls.toNat * 2 ^ 5 + off.toNat))
  | .ldw h d a cls off => some (encWord h 0x16 (d.toNat * 2 ^ 14 + a.toNat * 2 ^ 9 + cls.toNat * 2 ^ 5 + off.toNat))
  | .stb h d a cls off => some (encWord h 0x17 (d.toNat * 2 ^ 14 + a.toNat * 2 ^ 9 + cls.toNat * 2 ^ 5 + off.toNat))
  | .sth h d a cls off => some (encWord h 0x18 (d.toNat * 2 ^ 14 + a.toNat * 2 ^ 9 + cls.toNat * 2 ^ 5 + off.toNat))
  | .stw h d a cls off => some (encWord h 0x19 (d.toNat * 2 ^ 14 + a.toNat * 2 ^ 9 + cls.toNat * 2 ^ 5 + off.toNat))
  | .ldwAcq h d a cls off => some (encWord h 0x1a (d.toNat * 2 ^ 14 + a.toNat * 2 ^ 9 + cls.toNat * 2 ^ 5 + off.toNat))
  | .stwRel h d a cls off => some (encWord h 0x1b (d.toNat * 2 ^ 14 + a.toNat * 2 ^ 9 + cls.toNat * 2 ^ 5 + off.toNat))
  | .ldg h d xa cls tp ord => some (encSG h 0x1c d.toNat xa.toNat cls.toNat tp.toNat (b2n ord))
  | .stg h d xa cls tp ord => some (encSG h 0x1d d.toNat xa.toNat cls.toNat tp.toNat (b2n ord))
  | .ldgx h d xa cls tp ord => some (encSG h 0x1e d.toNat xa.toNat cls.toNat tp.toNat (b2n ord))
  | .stgx h d xa cls tp ord => some (encSG h 0x1f d.toNat xa.toNat cls.toNat tp.toNat (b2n ord))
  | .gadd h d xa cls tp ord => some (encSG h 0x20 d.toNat xa.toNat cls.toNat tp.toNat (b2n ord))
  | .gmax h d xa cls tp ord => some (encSG h 0x21 d.toNat xa.toNat cls.toNat tp.toNat (b2n ord))
  | .gswap h d xa cls tp ord => some (encSG h 0x22 d.toNat xa.toNat cls.toNat tp.toNat (b2n ord))
  | .gcas h d xa cls tp ord => some (encSG h 0x23 d.toNat xa.toNat cls.toNat tp.toNat (b2n ord))
  | .aadd h d a cls off => some (encWord h 0x24 (d.toNat * 2 ^ 14 + a.toNat * 2 ^ 9 + cls.toNat * 2 ^ 5 + off.toNat))
  | .amin h d a cls off => some (encWord h 0x25 (d.toNat * 2 ^ 14 + a.toNat * 2 ^ 9 + cls.toNat * 2 ^ 5 + off.toNat))
  | .amax h d a cls off => some (encWord h 0x26 (d.toNat * 2 ^ 14 + a.toNat * 2 ^ 9 + cls.toNat * 2 ^ 5 + off.toNat))
  | .aor h d a cls off => some (encWord h 0x27 (d.toNat * 2 ^ 14 + a.toNat * 2 ^ 9 + cls.toNat * 2 ^ 5 + off.toNat))
  | .aswap h d a cls off => some (encWord h 0x28 (d.toNat * 2 ^ 14 + a.toNat * 2 ^ 9 + cls.toNat * 2 ^ 5 + off.toNat))
  | .acas h d a cls off => some (encWord h 0x29 (d.toNat * 2 ^ 14 + a.toNat * 2 ^ 9 + cls.toNat * 2 ^ 5 + off.toNat))
  | .spl h d imm => some (encWord h 0x2a (d.toNat * 2 ^ 14 + imm.toNat))
  | .sps h d imm => some (encWord h 0x2b (d.toNat * 2 ^ 14 + imm.toNat))
  | .pbr h bn loff slot => some (encWord h 0x2c (bn.toNat * 2 ^ 16 + loff.toNat * 2 ^ 5 + slot.toNat))
  | .br h bn => some (encWord h 0x2d (bn.toNat * 2 ^ 16))
  | .call h bn => some (encWord h 0x2e (bn.toNat * 2 ^ 16))
  | .ret h => some (encWord h 0x2f 0)
  | .lstart h lvl => some (encWord h 0x30 (lvl.toNat * 2 ^ 16))
  | .crd h d creg => some (encWord h 0x31 (d.toNat * 2 ^ 14 + 0 * 2 ^ 12 + creg.toNat))
  | .cwr h d creg => some (encWord h 0x31 (d.toNat * 2 ^ 14 + 1 * 2 ^ 12 + creg.toNat))
  | .cfence h scope mask => some (encWord h 0x32 (scope.toNat * 2 ^ 17 + mask.toNat))
  | .waitv h d xa cls => some (encSG h 0x33 d.toNat xa.toNat cls.toNat 0 0)
  | .idle n cnt => some (n.toNat * 2 ^ 29 + (cnt.toNat / 2 ^ 19) * 2 ^ 25 + 0x36 * 2 ^ 19 + cnt.toNat % 2 ^ 19)
  | .nop h => some (encWord h 0 0)
  | .tret h => some (encSX h 0x07 0x00 0 0 0)
  | .trap h code => some (encSX h 0x07 0x01 code.toNat 0 0)
  | .featq h a => some (encSX h 0x07 0x02 0 0 a.toNat)
  | .tlbinv h tp xa a => some (encSX h 0x07 0x03 tp.toNat xa.toNat a.toNat)
  | .ctxpark h tp a => some (encSX h 0x07 0x08 tp.toNat 0 a.toNat)
  | .ctxrun h tp xa a => some (encSX h 0x07 0x09 tp.toNat xa.toNat a.toNat)
  | .kindle h tp a => some (encSX h 0x07 0x0a tp.toNat 0 a.toNat)
  | .douse h tp a => some (encSX h 0x07 0x0b tp.toNat 0 a.toNat)
  | .tagset h tp a => some (encSX h 0x07 0x0c tp.toNat 0 a.toNat)
  | .fbpop h a => some (encSX h 0x07 0x0d 0 0 a.toNat)
  | .selftest h tp a => some (encSX h 0x07 0x0e tp.toNat 0 a.toNat)
  | .shsleep h a => some (encSX h 0x07 0x0f 0 0 a.toNat)
  | .cpy h tp xa a => some (encSX h 0x34 0x00 tp.toNat xa.toNat a.toNat)
  | .cpyt h tp xa a => some (encSX h 0x34 0x01 tp.toNat xa.toNat a.toNat)
  | .ccvt h tp xa a => some (encSX h 0x34 0x02 tp.toNat xa.toNat a.toNat)
  | .cqnt h tp xa a => some (encSX h 0x34 0x03 tp.toNat xa.toNat a.toNat)
  | .cqnth h tp xa a => some (encSX h 0x34 0x04 tp.toNat xa.toNat a.toNat)
  | .csort h tp xa a => some (encSX h 0x34 0x05 tp.toNat xa.toNat a.toNat)
  | .ccmpb h tp xa a => some (encSX h 0x34 0x06 tp.toNat xa.toNat a.toNat)
  | .cexpb h tp xa a => some (encSX h 0x34 0x07 tp.toNat xa.toNat a.toNat)
  | .ccmpp h tp xa a => some (encSX h 0x34 0x08 tp.toNat xa.toNat a.toNat)
  | .cexpp h tp xa a => some (encSX h 0x34 0x09 tp.toNat xa.toNat a.toNat)
  | .cdec h tp xa a => some (encSX h 0x34 0x0a tp.toNat xa.toNat a.toNat)
  | .cenc h tp xa a => some (encSX h 0x34 0x0b tp.toNat xa.toNat a.toNat)
  | .cfill h tp a => some (encSX h 0x34 0x0c tp.toNat 0 a.toNat)
  | .cgath h tp xa a => some (encSX h 0x34 0x0d tp.toNat xa.toNat a.toNat)
  | .cscat h tp xa a => some (encSX h 0x34 0x0e tp.toNat xa.toNat a.toNat)
  | .pcpy h tp xa a => some (encSX h 0x34 0x10 tp.toNat xa.toNat a.toNat)
  | .pcvt h tp xa a => some (encSX h 0x34 0x11 tp.toNat xa.toNat a.toNat)
  | .pdec h tp xa a => some (encSX h 0x34 0x12 tp.toNat xa.toNat a.toNat)
  | .penc h tp xa a => some (encSX h 0x34 0x13 tp.toNat xa.toNat a.toNat)
  | .qbind h q a => some (encSX h 0x34 0x18 0 q.toNat a.toNat)
  | .qrel h q => some (encSX h 0x34 0x19 0 q.toNat 0)
  | .lflush h tp a => some (encSX h 0x35 0x00 tp.toNat 0 a.toNat)
  | .scene n => some (n.toNat * 2 ^ 29 + 0x35 * 2 ^ 19 + 1 * 2 ^ 14)
  | .sceneLast n => some (n.toNat * 2 ^ 29 + 0x35 * 2 ^ 19 + 2 * 2 ^ 14)
  | .alignc h tp a => some (encSX h 0x35 0x03 tp.toNat 0 a.toNat)
  | _ => none

/-! ### Vector words -/

/-- An operand specifier (R166). -/
def decodeSpec (s : Nat) : Except Reject Spec :=
  match s / 2 ^ 17 % 8 with
  | 0 => if z s 5 12 then .ok (.v (f5 s 0)) else .error .form
  | 1 => if z s 3 14 then .ok (.q (f3 s 0)) else .error .form
  | 2 => if z s 0 3 then .ok (.row (fd 4 s 13) (f5 s 8) (f5 s 3)) else .error .form
  | 3 => if z s 0 3 then .ok (.col (fd 4 s 13) (f5 s 8) (f5 s 3)) else .error .form
  | 4 => .ok (.sp (f5 s 12) (fd 4 s 8) (fd 8 s 0))
  | 5 => if z s 5 12 then .ok (.g (f5 s 0)) else .error .form
  | 6 => if z s 16 1 then .ok (.imm (fd 16 s 0)) else .error .form
  | _ => if z s 3 14 then .ok (.y (f3 s 0)) else .error .form

/-- The 20 bits of a specifier (R166). -/
def encodeSpec : Spec → Nat
  | .v n => n.toNat
  | .q n => 1 * 2 ^ 17 + n.toNat
  | .row t g p => 2 * 2 ^ 17 + t.toNat * 2 ^ 13 + g.toNat * 2 ^ 8 + p.toNat * 2 ^ 3
  | .col t g p => 3 * 2 ^ 17 + t.toNat * 2 ^ 13 + g.toNat * 2 ^ 8 + p.toNat * 2 ^ 3
  | .sp g s o => 4 * 2 ^ 17 + g.toNat * 2 ^ 12 + s.toNat * 2 ^ 8 + o.toNat
  | .g n => 5 * 2 ^ 17 + n.toNat
  | .imm v => 6 * 2 ^ 17 + v.toNat
  | .y n => 7 * 2 ^ 17 + n.toNat

/-- The round field (R20). -/
def rmodeOf (c : Nat) : RMode :=
  match c % 4 with
  | 0 => .rne | 1 => .rtz | 2 => .rdn | _ => .rup
def rmodeCode : RMode → Nat
  | .rne => 0 | .rtz => 1 | .rdn => 2 | .rup => 3

/-- The fields of a vector word (R165) with its three specifiers. -/
def vwordOf (w : Nat) (d a b : Spec) : VWord :=
  ⟨fd 4 w 92, f3 w 89, bitAt w 88, ElemTy.ofCode (w / 2 ^ 76), fd 4 w 72, fd 2 w 70,
    rmodeOf (w / 2 ^ 68), bitAt w 67, bitAt w 66, bitAt w 65, f5 w 60, d, a, b⟩

/-- A vector word with operands (R165 to R168, R286). -/
def decodeVForm (op : VOp) (w : Nat) : Except Reject Instr :=
  match decodeSpec (w / 2 ^ 40), decodeSpec (w / 2 ^ 20), decodeSpec w with
  | .ok d, .ok a, .ok b =>
    let v := vwordOf w d a b
    if Machine.vLegal op v then .ok (op.instr v) else .error .form
  | _, _, _ => .error .form

/-- A vector word (R165 to R169). -/
def decodeVector (w : Nat) : Except Reject Instr :=
  match w / 2 ^ 80 % 256 with
  | 0xE0 => if z w 0 80 && z w 88 4 then .ok (.vscene (fd 4 w 92)) else .error .field
  | 0xE1 => if z w 0 80 && z w 88 4 then .ok (.vsceneLast (fd 4 w 92)) else .error .field
  | 0xE8 => if z w 20 60 && z w 88 4 then .ok (.vidle (fd 4 w 92) (fd 20 w 0)) else .error .field
  | c =>
    match VOp.ofCode c with
    | some op => decodeVForm op w
    | none => .error .unassigned

/-- The word of a vector form (R165). -/
def encodeVForm (op : VOp) (v : VWord) : Nat :=
  v.idle.toNat * 2 ^ 92 + v.msk.toNat * 2 ^ 89 + b2n v.msn * 2 ^ 88 + op.code * 2 ^ 80
    + v.etype.code * 2 ^ 76 + v.cls.toNat * 2 ^ 72 + v.nv.toNat * 2 ^ 70 + rmodeCode v.rnd * 2 ^ 68
    + b2n v.sat * 2 ^ 67 + b2n v.rlxo * 2 ^ 66 + b2n v.rlxv * 2 ^ 65 + v.fn.toNat * 2 ^ 60
    + encodeSpec v.d * 2 ^ 40 + encodeSpec v.a * 2 ^ 20 + encodeSpec v.b

/-- The word of a vector instruction; none for every other instruction. -/
def encodeVector (i : Instr) : Option Nat :=
  match i.vec? with
  | some (op, v) => some (encodeVForm op v)
  | none =>
    match i with
    | .vidle n c => some (n.toNat * 2 ^ 92 + 0xE8 * 2 ^ 80 + c.toNat)
    | .vscene n => some (n.toNat * 2 ^ 92 + 0xE0 * 2 ^ 80)
    | .vsceneLast n => some (n.toNat * 2 ^ 92 + 0xE1 * 2 ^ 80)
    | _ => none

/-! ### Matrix words -/

/-- The fields of a matrix word (R171). -/
def mwordOf (w : Nat) : MWord :=
  ⟨fd 20 w 164, fd 2 w 162, fd 4 w 158, f6 w 152, f6 w 146, f6 w 140, f6 w 134, fd 4 w 130,
    bitAt w 129, fd 2 w 127, fd 2 w 125, bitAt w 124, bitAt w 123, fd 2 w 121, fd 15 w 106,
    fd 8 w 98, fd 15 w 83, fd 2 w 81, fd 2 w 79, fd 36 w 43, fd 36 w 7⟩

/-- A matrix word (R171 to R173). -/
def decodeMatrix (w : Nat) : Except Reject Instr :=
  if !z w 0 7 then .error .field
  else
    match w / 2 ^ 184 % 256 with
    | 0x00 => if z w 0 164 then .ok (.mnop (fd 20 w 164)) else .error .field
    | 0xF0 => if z w 0 164 then .ok (.mscene (fd 20 w 164)) else .error .field
    | 0xF1 => if z w 0 164 then .ok (.msceneLast (fd 20 w 164)) else .error .field
    | c =>
      match MOp.ofCode c with
      | some op =>
        let m := mwordOf w
        if Machine.mLegal op m then .ok (op.instr m) else .error .form
      | none => .error .unassigned

/-- The word of a matrix form (R171). -/
def encodeMForm (op : MOp) (m : MWord) : Nat :=
  op.code * 2 ^ 184 + m.stamp.toNat * 2 ^ 164 + m.slot.toNat * 2 ^ 162 + m.cls.toNat * 2 ^ 158
    + m.tp.toNat * 2 ^ 152 + m.tc0.toNat * 2 ^ 146 + m.tc1.toNat * 2 ^ 140 + m.tc2.toNat * 2 ^ 134
    + m.tile.toNat * 2 ^ 130 + b2n m.ovw * 2 ^ 129 + m.nr.toNat * 2 ^ 127 + m.nc.toNat * 2 ^ 125
    + b2n m.atr * 2 ^ 124 + b2n m.btr * 2 ^ 123 + m.bsrc.toNat * 2 ^ 121 + m.abase.toNat * 2 ^ 106
    + m.astr.toNat * 2 ^ 98 + m.bbase.toNat * 2 ^ 83 + m.aisc.toNat * 2 ^ 81 + m.bisc.toNat * 2 ^ 79
    + m.ainc.toNat * 2 ^ 43 + m.binc.toNat * 2 ^ 7

/-- The word of a matrix instruction; none for every other instruction. -/
def encodeMatrix (i : Instr) : Option Nat :=
  match i.mat? with
  | some (op, m) => some (encodeMForm op m)
  | none =>
    match i with
    | .mnop s => some (s.toNat * 2 ^ 164)
    | .mscene s => some (0xF0 * 2 ^ 184 + s.toNat * 2 ^ 164)
    | .msceneLast s => some (0xF1 * 2 ^ 184 + s.toNat * 2 ^ 164)
    | _ => none

/-! ### Streams and the opcode table -/

/-- The stream of a word of so many bits (R152). -/
def decodeBits (nbits w : Nat) : Except Reject Instr :=
  if nbits ≤ 32 then decodeScalar w else if nbits ≤ 96 then decodeVector w else decodeMatrix w

/-- `encode`: the word and its width in bytes of an instruction that a word encodes. -/
def encode (i : Instr) : Option (Nat × Nat) :=
  match encodeScalar i with
  | some w => some (4, w)
  | none =>
    match encodeVector i with
    | some w => some (12, w)
    | none =>
      match encodeMatrix i with
      | some w => some (24, w)
      | none => none

/-- The instruction whose bytes stand lowest first (R13, R152): the decoder of a slot. -/
def decodeBytes (bs : List Byte) : Except Reject Instr := decodeBits (8 * bs.length) (ofLe bs)

/-- The instruction the decoder reads from a word of the opcode table: the word laid out in its
slot's bytes and decoded from them. The table gives widths to scalar rows alone, so a shorter
`nbits` fills a scalar slot. -/
def decodeTableWord (nbits w : Nat) : Option Instr :=
  let n := if nbits ≤ 32 then 4 else if nbits ≤ 96 then 12 else 24
  match decodeBytes (toLe n w) with
  | .ok i => some i
  | .error _ => none

end Sys2Proof
end

