-- ==== Sys2Proof/Machine/Records.lean ====
section
/-!
DEFINITION. Shared-exponent blocks (R28 to R30), sorted-weight records (R35 to R41), group results
of the matrix unit (R32 to R34) and additions into running sums (R47).
-/
namespace Sys2Proof.Machine

/-- Exact zero. -/
def Fp.zero : Fp := .fin false 0 0

/-- Exact sum of a list (every addend counted, NaN and infinities as IEEE 754). -/
def sumFp (l : List Fp) : Fp := l.foldl (Fp.add .rne) .zero

/-! ### Shared-exponent blocks -/

/-- Element `i` of an se block of field width `w`, the block as a little-endian number (R28, R29). -/
def seElem (w blk i : Nat) : Fp :=
  let e := bits blk 7 0
  if e = 0xFF then .nan
  else
    let h := bits blk (8 + 2 * (i / 8) + 1) (8 + 2 * (i / 8))
    let f := elemAt (blk / 2 ^ 16) w i
    .fin (bitAt f (w - 1)) (f % 2 ^ (w - 1)) ((e : Int) - 127 - h - ((w : Int) - 2))

/-- `|round(x / 2^g)|` of R30, `mmax` for an infinity. -/
def seMag (rm : RMode) (mmax : Nat) (g : Int) : Fp → Nat
  | .fin n m e => roundQ rm n (m * 2 ^ (e - g).toNat) (2 ^ (g - e).toNat)
  | _ => mmax

/-- Whether a value rounds to a magnitude of at most `mmax` on the grid (R30); an infinity does not. -/
def seFits (rm : RMode) (mmax : Nat) (g : Int) (x : Fp) : Bool :=
  x.isFin && decide (seMag rm mmax g x ≤ mmax)

/-- The largest sub-exponent of a quarter from `h` down for which every member fits (R30). -/
def seShift (rm : RMode) (mmax : Nat) (g0 : Int) (q : List Fp) : Nat → Nat
  | 0 => 0
  | h + 1 => if q.all (seFits rm mmax (g0 - (h + 1))) then h + 1 else seShift rm mmax g0 q h

/-- The larger of two exponents `floor(log2 |x|)` of non-zero finite values. -/
def seTop (l : List Fp) : Option Int :=
  l.foldl (fun acc x =>
    match x with
    | .fin _ m e =>
      if m = 0 then acc
      else match acc with
        | none => some (m.log2 + e)
        | some a => some (max a (m.log2 + e))
    | _ => acc) none

/-- Conversion of 32 values into an se block of field width `w` (R30), as a little-endian number. -/
def seEncode (w : Nat) (rm : RMode) (xs : List Fp) : Nat :=
  if xs.any Fp.isNan then 0xFF
  else
    let e : Nat :=
      if xs.any Fp.isInf then 0xFE
      else match seTop xs with
        | none => 0
        | some t => (clamp (t + 127) 0 0xFE).toNat
    let mmax := 2 ^ (w - 1) - 1
    let g0 : Int := (e : Int) - 127 - ((w : Int) - 2)
    let qs := chunksOf 8 4 xs
    let hs := qs.map (fun q => seShift rm mmax g0 q 3)
    let fields := (qs.zip hs).flatMap (fun (q, h) => q.map (fun x =>
      min (seMag rm mmax (g0 - h) x) mmax + (if x.neg then 2 ^ (w - 1) else 0)))
    e + 2 ^ 8 * packElems 2 hs + 2 ^ 16 * packElems w fields

/-- Bytes of an se block (R28). -/
def seBytes (w : Nat) : Nat := 2 + 4 * w

/-! ### Sorted-weight records -/

/-- Slot size of a format code, none for a code R35 does not list. -/
def recSize : Nat → Option Nat
  | 0x12 => some 32
  | 0x14 => some 64
  | 0x18 => some 64
  | 0x24 => some 32
  | 0x28 => some 64
  | _ => none

/-- Whether the code is a difference record's (R35). -/
def recIsDiff (code : Nat) : Bool := code == 0x12 || code == 0x14 || code == 0x18

/-- Format code and scale of a record (R36, R37). -/
def recCode (r : Nat) : Nat := bits r 15 8
def recScale (r : Nat) : Fp := decodeF (fmtOf .bf16) (bits r 31 16)

/-- Difference width of a difference record, weight width of a dense one. -/
def recBits (code : Nat) : Nat := code % 16

/-- `d(1)` to `d(32)` of a difference record (R36, R38). -/
def recDiffs (r : Nat) : List Int :=
  let b := recBits (recCode r)
  sext (bits r 7 0) 8 :: (List.range 31).map (fun k => ((elemAt (r / 2 ^ 192) b k : Nat) : Int))

/-- `π(1)` to `π(32)` (R36). -/
def recOrder (r : Nat) : List Nat := (List.range 32).map (fun k => elemAt (r / 2 ^ 32) 5 k)

/-- The weights of a dense fallback record (R37). -/
def recDense (r : Nat) : List Int :=
  let b := recBits (recCode r)
  (List.range 32).map (fun i => sext (elemAt (r / 2 ^ 32) b i) b)

/-- Running totals `q(1)`, `q(2)`, and so on of a list of differences (R38). -/
def prefixSums : Int → List Int → List Int
  | _, [] => []
  | acc, d :: ds => (acc + d) :: prefixSums (acc + d) ds

/-- `S` of R39 by suffix sums: the pair of the suffix sum `T` and of the sum of `d(k) * T(k)`. -/
def suffixDot : List Int → List Int → Int × Int
  | d :: ds, a :: as =>
    let (t, s) := suffixDot ds as
    (a + t, s + d * (a + t))
  | _, _ => (0, 0)

/-- The pairs (weight, activation) of a record against activations (R34, R39, R40). -/
def recPairs (r : Nat) (acts : List Fp) : List (Int × Fp) :=
  if recIsDiff (recCode r) then
    (prefixSums 0 (recDiffs r)).zip ((recOrder r).map (fun p => acts.getD p .zero))
  else (recDense r).zip acts

/-- The least exponent of a list of finite values. -/
def gridOf (l : List Fp) : Int := l.foldl (fun g x => min g x.exp) 0

/-- The exact sum of R39 for a difference record or of R40 for a dense one. An activation that is not
finite puts the group under the special values of R34, which the exact sum of the pairs gives. -/
def recSum (r : Nat) (acts : List Fp) : Fp :=
  if recIsDiff (recCode r) && acts.all Fp.isFin then
    let as := (recOrder r).map (fun p => acts.getD p .zero)
    let g := gridOf as
    let s := (suffixDot (recDiffs r) (as.map (Fp.onGrid g))).2
    .fin (decide (s < 0)) s.natAbs g
  else sumFp ((recPairs r acts).map (fun (q, a) => Fp.mul (Fp.ofInt q) a))

/-- A group's exact scaled sum with the special values of R34; an exact zero is +0 (R32). -/
def groupExact (scale sum : Fp) : Fp :=
  let v := Fp.mul scale sum
  if v.isZero then .zero else v

/-- The exact scaled value of a record against activations (R309, R328). -/
def recValue (flush : Bool) (r : Nat) (acts : List Fp) : Fp :=
  groupExact (daz flush .bf16 (recScale r)) (recSum r acts)

/-- One group of a dense step: `G(g)` with scale 1 (R32, R34). -/
def denseGroup (flush : Bool) (as ws : List Fp) : Nat :=
  roundF32 flush (groupExact (.fin false 1 0) (sumFp ((as.zip ws).map (fun (a, w) => Fp.mul a w))))

/-- An f32 addition of R33: R22 on both operands and on the result. -/
def addF32 (flush : Bool) (c g : Nat) : Nat :=
  roundF32 flush (Fp.add .rne (operandEl flush .f32 c) (operandEl flush .f32 g))

/-- The accumulator update of R33 from the four group results. -/
def accUpdate (flush ovw : Bool) (c : Nat) : List Nat → Nat
  | [] => c
  | g :: gs => gs.foldl (addF32 flush) (if ovw then g else addF32 flush c g)

/-! ### Running sums -/

/-- What an addition into a lane leaves: the lane, `INEXACT`, `OVF` (R47). -/
structure YAdd where
  y : BitVec 64
  inexact : Bool
  ovf : Bool
deriving DecidableEq, Repr

/-- The range limits of a running-sum lane (R47). -/
def yMax : Int := 2 ^ 63 - 1
def yMin : Int := -(2 ^ 63)

/-- One addition of an exact addend into a lane with binary point `p` (R47). -/
def yAdd (y : BitVec 64) (p : Nat) (v : Fp) : YAdd :=
  match v with
  | .nan => ⟨BitVec.ofInt 64 yMax, false, true⟩
  | .inf n => ⟨BitVec.ofInt 64 (if n then yMin else yMax), false, true⟩
  | .fin n m e =>
    let num := m * 2 ^ (e + p).toNat
    let den := 2 ^ (-(e + p)).toNat
    let q := roundQ .rne n num den
    let s := y.toInt + (if n then -(q : Int) else q)
    ⟨BitVec.ofInt 64 (clamp s yMin yMax), num % den != 0, decide (s < yMin) || decide (yMax < s)⟩

end Sys2Proof.Machine
end

