-- ==== Sys2Proof/Machine/Tab.lean ====
section
/-!
DEFINITION. Finite tables as sorted lists of pairs, and byte memory in its one canonical form:
addresses strictly rising, no entry equal to 0, which is what an unlisted address reads as (log 4).
-/
namespace Sys2Proof.Machine

/-- A finite table: keys rising. What an unlisted key holds, the reader says. -/
abbrev Tab (α : Type) := List (Nat × α)

/-- The entry of key `k`, `d` when unlisted. -/
def Tab.get {α : Type} (d : α) : Tab α → Nat → α
  | [], _ => d
  | (j, v) :: t, k => if j = k then v else Tab.get d t k

/-- The table with entry `k` set to `v`. -/
def Tab.put {α : Type} : Tab α → Nat → α → Tab α
  | [], k, v => [(k, v)]
  | (j, w) :: t, k, v =>
    if k < j then (k, v) :: (j, w) :: t
    else if k = j then (k, v) :: t
    else (j, w) :: Tab.put t k v

/-- The table without key `k`. -/
def Tab.del {α : Type} (t : Tab α) (k : Nat) : Tab α := t.filter (fun e => e.1 != k)

/-- Byte memory (R13, R110). -/
abbrev Memory := List Host.Cell

/-- One byte; 0 when unlisted. -/
def Memory.read : Memory → Nat → Byte
  | [], _ => 0
  | (j, v) :: t, k => if j = k then v else Memory.read t k

/-- One byte written; writing 0 removes the entry. -/
def Memory.write : Memory → Nat → Byte → Memory
  | [], k, v => if v = 0 then [] else [(k, v)]
  | (j, w) :: t, k, v =>
    if k < j then (if v = 0 then (j, w) :: t else (k, v) :: (j, w) :: t)
    else if k = j then (if v = 0 then t else (k, v) :: t)
    else (j, w) :: Memory.write t k v

/-- Addresses above `lo` and strictly rising, no zero byte. -/
def Memory.wfFrom : Nat → Memory → Bool
  | _, [] => true
  | lo, (j, v) :: t => decide (lo ≤ j) && v != 0 && Memory.wfFrom (j + 1) t

/-- The canonical form. -/
def Memory.wf (m : Memory) : Bool := Memory.wfFrom 0 m

/-- `n` bytes from address `a`, lowest first. -/
def Memory.readN (m : Memory) (a : Nat) : Nat → List Byte
  | 0 => []
  | n + 1 => m.read a :: Memory.readN m (a + 1) n

/-- Bytes written from address `a` upward. -/
def Memory.writeN (m : Memory) (a : Nat) : List Byte → Memory
  | [] => m
  | b :: bs => Memory.writeN (m.write a b) (a + 1) bs

/-- Single bytes written, in order. -/
def Memory.writeCells (m : Memory) (cs : List Host.Cell) : Memory :=
  cs.foldl (fun m c => m.write c.1 c.2) m

end Sys2Proof.Machine
end

