-- ==== Sys2Proof/Machine/State.lean ====
section
/-!
DEFINITION. The state of a Chathal C2 package as plain data: every register, table, store, queue and
transfer the manual names (INVENTORY.md, State), and the model's own scheduling data (log 1).
House cues and local cues are `Nat`s; `CUE`, `LCUE` and `SLIP` read them modulo `2 ^ 64`.
-/
namespace Sys2Proof.Machine

/-- Why a step stops with a fault. -/
inductive Fault
  /-- Raised by the meaning of a word when the agent named by `State.cur` has no context to run it in:
  no step of the machine issues so. Safe: the machine stops. -/
  | noContext
deriving DecidableEq, Repr

/-- Why a step has no meaning. -/
inductive Refusal
  /-- Raised by an arm of `exec` whose meaning is not written, with the mnemonic. Safe: the machine stops. -/
  | notModelled (mnemonic : String)
deriving DecidableEq, Repr

/-! ### Streams and time -/

/-- The fetch and timing state of one stream (R59 to R61, R64, R170). -/
structure Stream where
  /-- The stream has an entry line (R49). -/
  present : Bool := false
  /-- The next word: line within the image and slot. -/
  line : Nat := 0
  slot : Nat := 0
  /-- Local cue that the next idle count is counted from (R59). -/
  prev : Nat := 0
  /-- Local cue in which it last issued a word, of an idle count that has not run out too (R74). -/
  issued : Option Nat := none
  /-- The next word is the first after a timing reference (R60). -/
  atRef : Bool := false
  /-- The next word is the target of a transfer: idle 0 reads as 1 (R170). -/
  target : Bool := false
  /-- The next word is a resumed target that is not the one saved: R170 checks it (R381, log 52). -/
  check : Bool := false
  /-- Matrix stream: reference and occupancy of the previous word; 0 for none (R61). -/
  ref : Nat := 0
  occ : Nat := 0
  /-- The stream waits: at the first line of a body (8), or at the end of this level's body (R64). -/
  wait : Option Nat := none
  /-- Levels whose current iteration the stream takes part in, and how many starts of each level it has met (R64). -/
  inside : List Nat := []
  passes : Tab Nat := []
  /-- Levels of which an iteration start or the end passed while the stream stood in their body, or whose first line
  it reached too late (R64). -/
  late : List Nat := []
  /-- Matrix stream: the reference and period of its next word when its time passed (R61, R64). -/
  oref : Option (Nat × Option Nat) := none
  /-- SCENE has issued, with its form (R71, R368). -/
  done : Option Bool := none
  /-- Target of a transfer made by a word of the bundle in progress. -/
  redir : Option Word := none
  /-- Count of an idle word of the bundle in progress (R169). -/
  skip : Nat := 0
  /-- The word after the bundle in progress: line and slot. -/
  seqLine : Nat := 0
  seqSlot : Nat := 0
deriving DecidableEq, Repr

/-- A loop level's running state (R64). -/
structure Level where
  /-- Started and not ended. -/
  active : Bool := false
  /-- Iteration 0 has started. -/
  began : Bool := false
  /-- Start of iteration 0 and of the current iteration. -/
  first : Nat := 0
  start : Nat := 0
  idx : Nat := 0
  count : Nat := 0
  period : Nat := 0
  /-- Interlocked (R66). -/
  ilk : Bool := false
  /-- How often the level has started. -/
  starts : Nat := 0
  /-- Levels within whose scalar body it was started. -/
  within : List Nat := []
deriving DecidableEq, Repr

/-- A context's clock: the local cue is the house cue less the slip, or stands still (R56). -/
inductive Clock
  | run (slip : Nat)
  | stopped (lcue : Nat)
deriving DecidableEq, Repr

/-- Why the core of a context is frozen (R57), in the form in which the end of the freeze is judged. -/
inductive Freeze
  /-- Dark or kindling blocks (R102). -/
  | blocks (l : List Nat)
  /-- A window's allowance: window and packets needed (R353). -/
  | window (n need : Nat)
  /-- An interlocked wait for a token, or for an access that binds a register (R69, R201). -/
  | token (t : Nat)
  | access (id : Nat)
  /-- An interlocked wait until a house cue (R69, R133, R170), or a parity replay (R404): the writes in flight
  it waits for, by issue number, and the b register whose last write it waits for. -/
  | until (cue : Nat) (writes : List Nat) (branch : Option Nat)
  /-- A record waits for room in the die fault buffer (R400). -/
  | record
  /-- A walk or a fetch through a CXL port that is down has not timed out until a house cue (R346, R441). -/
  | read (cue : Nat)
  /-- Every lantern of the die is held (R360). -/
  | lanterns
  /-- A handler's access waits at its bank (R97, R98): the address. -/
  | port (addr : Nat)
  /-- The engine holds its limit of commands (R252): a pool engine, or the core's copy engine. -/
  | engine (pool : Bool)
deriving DecidableEq, Repr

/-- What a held context does when RESUME names it (R399). -/
inductive Redo
  /-- Issue the faulting word again. -/
  | issue
  /-- Let the command of an engine make its access again. -/
  | command (e : Engine) (id : Nat)
  /-- Start the pulls again. -/
  | pulls
  /-- Restart at the last restart point. -/
  | restart
deriving DecidableEq, Repr

/-- A held context (R398): cause of its record and what resumes it. -/
structure Hold where
  cause : Nat
  redo : Redo
deriving DecidableEq, Repr

/-- A record of the die fault buffer (R401). -/
structure FaultRec where
  cause : Nat
  who : Nat
  req : Nat
  addr : Nat
  detail : Nat
  stamp : Nat
deriving DecidableEq, Repr

/-- What the word just executed did (R164): the step that runs a bundle or a cycle reads it. -/
inductive Verdict
  /-- It took effect, or its guard failed. -/
  | went
  /-- It raised a program trap and did not take effect: cause, `INFO`, `EINFO`, stream. -/
  | trap (cause info einfo strm : Nat)
  /-- It froze the core. -/
  | freeze (f : Freeze)
  /-- It was held with a system fault. -/
  | hold (h : Hold) (r : FaultRec)
deriving DecidableEq, Repr

/-! ### Registers -/

/-- A stream-register binding (R273, R275): the record's 64 bytes as a number, and its position. -/
structure QBind where
  shape : Nat
  pos : Nat
deriving DecidableEq, Repr

/-- An element on its way into a lantern, its window resolved at issue (R352, R356): window, target
package, die, core and core-local address, operation and data. -/
structure LElem where
  win : Nat
  pkg : Nat
  die : Nat
  core : Nat
  addr : Nat
  eop : Nat
  data : Word
  /-- Issue number of its instruction (R140). -/
  seq : Nat := 0
deriving DecidableEq, Repr

/-- A piece of a full store (R302): window, target, word mask and 128 bytes. -/
structure Piece where
  win : Nat
  pkg : Nat
  die : Nat
  core : Nat
  addr : Nat
  mask : Nat
  bytes : List Byte
deriving DecidableEq, Repr

/-- A write in flight (R175, R200, R283, R320). -/
inductive PWrite
  | g (n : Nat) (v : Word) (mark : Bool)
  | x (n : Nat) (v : DWord) (mark : Bool)
  | p (n : Nat) (v : Bool)
  /-- PLOAD: p1 to p7 at once. -/
  | preds (v : BitVec 8)
  | b (n : Nat) (v : Word)
  /-- Bits of a vector register selected by a bit mask, of elements of `ew` bits, and the marks of the lanes
  written. -/
  | v (n ew : Nat) (val sel : Vec) (marks : List (Nat × Bool))
  | m (n : Nat) (val sel : Mask)
  /-- Bytes of the scratchpad in elements of `unit` bytes, and marks of its words. -/
  | sp (unit : Nat) (cells : List (Nat × Byte)) (marks : List (Nat × Bool))
  /-- Bits of scratchpad bytes: address, byte, the bits written, for elements of 4 bits (R302). -/
  | spn (cells : List (Nat × Byte × Byte)) (marks : List (Nat × Bool))
  /-- A word of the spill store (R134, R227). -/
  | spill (addr : Nat) (v : Word) (mark : Bool)
  /-- Elements of the accumulator store written through a view (R89). -/
  | view (els : List (Nat × Word)) (marks : List (Nat × Bool))
  /-- Additions into lanes of a running-sum register (R47), clearing lanes (R310). -/
  | yadd (n : Nat) (lane : Nat) (nan inf neg : Bool) (m : Nat) (e : Int) (mark : Bool)
  | yclr (n : Nat) (lanes : List Nat)
  /-- A tile update of a step: per element, the group results and the overwrite bit (R33, R321). -/
  | tileAcc (tile : Nat) (ovw flush : Bool) (els : List (Nat × List Word))
  /-- A tile update that sets elements (MZERO, MLDT). -/
  | tileSet (tile : Nat) (els : List (Nat × Word)) (marks : List (Nat × Bool))
  /-- An update becomes visible to views and stores (R321): the elements before it. -/
  | tileSeen (tile : Nat) (old : List (Nat × Word))
  | latch (k : Nat) (bytes : List Byte) (ktr : Bool) (marks : List (Nat × Bool))
  | fresh (tile : Nat)
  /-- The update that used a fresh tile's flag has been made: the flag reads as 0, unless a later MRETZ set it
  and its own first update is still to be made (R332). -/
  | freshClr (tile : Nat)
  | ftab (image : List Byte)
  /-- A token of the matrix stream, or of a one-cycle operation, completes (R320, R366). -/
  | tok (t id : Nat)
  /-- A control-register write takes effect (R238): the event of the table that makes it. The number is
  the even one for a 64-bit register; 0x1000 is added for bank 1 of a stagehand's write. `hi`: only the high half
  of the value is written. `now`: a drain makes it (R378), without the event. -/
  | creg (num : Nat) (v : DWord) (hi now : Bool)
  | qbind (n : Nat) (b : Option QBind)
  /-- Owner tag of scratchpad blocks (R391). -/
  | otag (first last tag : Nat)
  /-- Elements of one instruction enter lanterns (R357): `flushed` when a fence or flush covers them. -/
  | lantern (cls : Nat) (rlx flushed : Bool) (els : List LElem)
  /-- The four pieces of a full store leave (R302). -/
  | full (cls : Nat) (rlx : Bool) (pieces : List Piece)
  /-- Refusals at the source of one instruction (R352, R364): cause, class, target as the window gave it at issue,
  address, count. -/
  | refused (cause cls pkg die core addr count : Nat)
deriving DecidableEq, Repr

/-- One write in flight: due cycle, issue order, stream (0 scalar, 1 vector, 2 matrix), whether it is
delayed beyond the exposed latency with an entry in the stream's forwarding table (R99, R133). -/
structure Pend where
  due : Nat
  seq : Nat
  strm : Nat
  delayed : Bool
  w : PWrite
deriving DecidableEq, Repr

/-- A register bound to an access until its token completes (R201). -/
structure Bound where
  reg : Nat
  tok : Nat
  id : Nat
deriving DecidableEq, Repr

/-- The registers that a context and a stagehand both have (R199, R238, R240, R424). -/
structure Regs where
  g : Tab Word := []
  x : Tab DWord := []
  /-- p0 to p7; bit 0 is not read (R199). -/
  p : BitVec 8 := 0
  b : Tab Word := []
  /-- One more than the cycle of the last write of each b register; 0 for none (R170). -/
  bAt : Tab Nat := []
  /-- Tokens pending and failed (R135, R256); bit 0 is not used. -/
  tokPend : BitVec 64 := 0
  tokFail : BitVec 64 := 0
  /-- The last producer of each token. -/
  tokId : Tab Nat := []
  xferst : Word := 0
  frameptr : Nat := 0
  framesz : Nat := 0
  slim : Word := 0x4000
  spill : Memory := []
  /-- Poison marks of registers and spill words by location code (R396). -/
  marks : Tab Bool := []
  bound : List Bound := []
  /-- Read latch and staging word with the register each was loaded for (R238). -/
  latch : Option (Nat × Word) := none
  staging : Option (Nat × Word) := none
  pend : List Pend := []
  str : Stream := {}
  /-- The house cue at which a walk or a fetch through a CXL port that is down times out (R346, R441, log 69). -/
  timeout : Option Nat := none
deriving DecidableEq, Repr

/-! ### Contexts -/

/-- What a script's header fixes for a running context (R48). -/
structure Script where
  /-- Address of the image, physical when `phys`. -/
  base : Nat := 0
  phys : Bool := true
  length : Nat := 0
  level : Nat := 0
  world : Nat := 0xFF
  uniform : Bool := false
  /-- Interlocked: `FLAGS.MODE`. -/
  ilk : Bool := false
  rdepth : Nat := 0
  dext : Nat := 1
  cext : Nat := 1
  pext : Nat := 1
deriving DecidableEq, Repr

/-- Life of a context in its bank (R386 `BANKST`). -/
inductive Life
  | starting
  | live
  | parking
deriving DecidableEq, Repr

/-- A block's presence state (R103): `dousing` and `kindling` record a DOUSE that follows. -/
inductive Presence
  | lit
  | dark
  | kindling (thenDouse : Bool)
  | dousing
deriving DecidableEq, Repr

/-- The timing state a trap saves and a restart point records (R74, R378). -/
structure Timing where
  ss : Stream := {}
  vs : Stream := {}
  ms : Stream := {}
  levels : Tab Level := []
  stack : List Nat := []
deriving DecidableEq, Repr

/-- A wait in WAITV (R146 to R149). -/
structure Wait where
  va : Nat
  pa : Nat
  expect : Word
  cls : Nat
  begun : Nat
  interval : Nat
  /-- The house cue of the next poll. -/
  pollAt : Nat
  /-- Held in a wake table. -/
  entry : Bool
  woken : Bool
  /-- The read of the word that is under way, by its access (R146). -/
  read : Option Nat
deriving DecidableEq, Repr

/-- An entry of a lantern fault log (R364). -/
structure LfEntry where
  core : Nat
  bank : Nat
  cls : Nat
  cause : Nat
  pkg : Nat
  die : Nat
  tcore : Nat
  addr : Nat
  mask : Nat
deriving DecidableEq, Repr

/-- A program access booked to a bank by a word already issued (R94, R97): local cue, bank row;
`hold` marks a reservation of R97, under which the bank serves no other access; `late` the nominal access of a
write that is delayed beyond it (R99); `made` that a drain has made it (R378), for R94 goes on checking it. -/
structure Booking where
  cyc : Nat
  row : Nat
  hold : Bool
  late : Bool := false
  made : Bool := false
deriving DecidableEq, Repr

/-- A context (R101 and the rules INVENTORY.md names). -/
structure Ctx where
  life : Life := .live
  /-- Owner as R106 codes it. -/
  own : Nat := 4
  script : Script := {}
  regs : Regs := {}
  nval : Tab (BitVec 16) := []
  v : Tab Vec := []
  m : Tab Mask := []
  /-- Lane `L` of y register `n` at key `128 n + L`. -/
  y : Tab DWord := []
  yctl : Tab Word := []
  q : Tab QBind := []
  /-- Element `(i, j)` of tile `c` at key `4096 c + 64 i + j`. -/
  tiles : Tab Word := []
  fresh : BitVec 16 := 0
  /-- Tiles whose fresh flag no word has used yet (R332). -/
  armed : BitVec 16 := 0
  /-- Byte `m` of latch `k` at address `16384 k + m`. -/
  klatch : Memory := []
  ktr : BitVec 2 := 0
  fthdr : Word := 0
  /-- Slot `s` of row `r` at key `4 r + s`. -/
  ftab : Tab (BitVec 16) := []
  /-- One more than the house cue of the last MFTLD that took effect; 0 for none (R335). -/
  ftabAt : Nat := 0
  /-- Word `w` of level `j` at key `12 j + w`; word `w` of window `n` at key `8 n + w`. -/
  looptab : Tab Word := []
  wintab : Tab Word := []
  levels : Tab Level := []
  /-- Active levels, the last started first. -/
  stack : List Nat := []
  vs : Stream := {}
  ms : Stream := {}
  clock : Clock := .stopped 0
  frozen : Option Freeze := none
  held : Option Hold := none
  waitv : Option Wait := none
  sceneno : Nat := 0
  castpos : Word := 0
  castst : Word := 0
  /-- Restart-point record: offset from the scene start and timing (R74). -/
  rpOff : Nat := 0
  rp : Timing := {}
  /-- Local cue of the last restart point, from which the interval counts (R76). -/
  rpCue : Nat := 0
  tvec : Word := 0
  estatus : Word := 0
  elcue : DWord := 0
  epcs : Word := 0
  epcv : Word := 0
  epcm : Word := 0
  einfo : Word := 0
  /-- `STATUS` fields of the last trap (R380). -/
  cause : Nat := 0
  info : Nat := 0
  strm : Nat := 0
  hnd : Bool := false
  /-- Trap entry in progress: house cue of its end, and the hold that follows it when no handler is
  entered (R377, R378). -/
  entry : Option (Nat × Option Hold) := none
  /-- Local cue at trap entry, against which TRET checks `ELCUE`, the saved timing, and which
  streams issued in the trap cycle before the fault (R378, R381). -/
  tau : Nat := 0
  saved : Timing := {}
  lburn : Word := 512
  waitbud : Word := 0
  rsfInfo : Word := 0
  rsfDest : Word := 0
  rsfAddr : Word := 0
  rsfMask : Word := 0
  /-- Refusals carried by a parked context, and its lost mark (R364). -/
  rsfKept : List LfEntry := []
  lost : Bool := false
  ptroot : DWord := 0
  ctxdesc : DWord := 0
  /-- The descriptor address is virtual: that of a launch with `PHYS` 0 (R426, R429, log 65). -/
  descVa : Bool := false
  /-- Presence of blocks 0 to 27 (R101). -/
  blocks : Tab Presence := []
  booked : List Booking := []
  /-- Blocks that the words issued have touched (R98, R102), bit `n` for block `n`. -/
  touched : BitVec 156 := 0
  /-- Arrived at the scene barrier, with the form (R71). -/
  arrived : Option Bool := none
  /-- The launch the context belongs to. -/
  launch : Option Nat := none
  /-- Token completions held while outside the owner's frames (R82): token, producer, cause. -/
  tokHeld : List (Nat × Nat × Nat) := []
  /-- The drain of a read fault waits for TRET (R393). -/
  after : Bool := false
  /-- Blocks sealed with a world's context (R433). -/
  sealedBlocks : List Nat := []
  /-- Blocks whose pulls failed, which RESUME starts again (R399). -/
  unlit : List Nat := []
  /-- A deferred remote-store fault is owed: to be raised when the context next runs (R144, log 61). -/
  owed : Bool := false
  /-- Records a parked context carries (R400), and the core's cast registers as saved (R387). -/
  recsKept : List FaultRec := []
  keptCtl : Word := 0
  keptId : Word := 0
  keptRoot : Word := 0
deriving DecidableEq, Repr

/-! ### Engines and memory traffic -/

/-- An image of record of a block (R108): address, sealed, key selector of its descriptor. -/
structure Image where
  addr : Nat
  img : Bool
  enc : Bool
  keysel : Nat
  world : Nat
deriving DecidableEq, Repr

/-- A pull or write-out of a block (R103, R105). -/
structure Xfer where
  bank : Nat
  block : Nat
  out : Bool
  /-- A pull that a word waits for, which goes first (R105). -/
  touched : Bool
  started : Bool
deriving DecidableEq, Repr

/-- A translation held by a TLB (R112). -/
structure TlbEntry where
  root : Nat
  /-- Virtual address of the page and its size. -/
  va : Nat
  size : Nat
  pa : Nat
  wld : Nat
  writable : Bool
  /-- Physical address of the entry, whose `D` a write sets. -/
  pte : Nat
  dirty : Bool
deriving DecidableEq, Repr

/-- A command's phase (R254 to R256). -/
inductive Phase
  | walk
  | waiting
  | reading
  | writing
  | finishing
deriving DecidableEq, Repr

/-- A copy or pool command (R246 to R272). -/
structure Cmd where
  id : Nat
  /-- Major 0x34 sub-code. -/
  op : Nat
  core : Nat
  bank : Nat
  sh : Bool
  own : Nat
  tok : Nat
  tokId : Nat
  cls : Nat
  src : Nat
  shape : Nat
  root : Nat
  phys : Bool
  key : Nat
  /-- Producers of tokens it waits for (R255). -/
  waits : List Nat
  depFailed : Bool
  phase : Phase
  /-- 64-byte lines still to be read, lines read with their bytes, and poisoned words read, by the keys of
  `lineKey`. -/
  toRead : List Nat
  data : Tab (List Byte)
  poison : List Nat
  /-- Destination bytes still to be written, in order: key, byte, poisoned. -/
  toWrite : List (Nat × Byte × Bool)
  /-- Physical pages of 64 KiB virtual pages as walked; none for a page not present (R254). -/
  pages : Tab (Option Nat)
  /-- Translations it has used, which it keeps to its end (R244). -/
  used : List TlbEntry
  /-- Pages not present whose record the pager has (R394). -/
  told : List Nat
  /-- Dies it has sent a packet to (R258), as `8 * package + die`. -/
  met : List Nat
  /-- Packets in flight: read requests and writes not yet acknowledged. -/
  flying : Nat
  /-- The engine waits for RESUME after a fault. -/
  stuck : Bool
  /-- Causes of R257 met so far. -/
  causes : List Nat
deriving DecidableEq, Repr

/-- What a global access of a stream does (R220, R223, R146). -/
inductive AccOp
  | load (reg bytes : Nat)
  | store (bytes : Nat) (data : Nat) (mark : Bool)
  /-- Returning atomic: 0 add, 1 max, 2 swap, 3 compare and swap, with its operands. -/
  | atomic (reg op : Nat) (v w : Word)
  /-- The read of WAITV (R146), or its poll (R147): the value compared. -/
  | watch (expect : Word)
deriving DecidableEq, Repr

/-- A global access of a stream in flight. -/
structure Acc where
  id : Nat
  core : Nat
  bank : Nat
  sh : Bool
  tok : Nat
  cls : Nat
  va : Nat
  pa : Nat
  root : Nat
  op : AccOp
  sent : Bool
  /-- The page is not present: the data goes to the bounce buffer (R114). -/
  bounce : Bool
deriving DecidableEq, Repr

/-- A fence that is not complete (R126 to R130); `remote` for package and system scope (R128). -/
structure FenceRec where
  id : Nat
  core : Nat
  bank : Nat
  sh : Bool
  mask : Nat
  remote : Bool
deriving DecidableEq, Repr

/-- A token of the stagehand or of a context that an LFLUSH or another operation completes when a set
of numbered commands and packets is done (R244, R366). `flush` is the class mask of an LFLUSH whose
remote writes have not all left yet. -/
structure TokWait where
  core : Nat
  bank : Nat
  sh : Bool
  tok : Nat
  tokId : Nat
  waits : List Nat
  flush : Nat
  /-- House cue of the issue of an LFLUSH, with which the lanterns that it emits leave. -/
  since : Nat := 0
deriving DecidableEq, Repr

/-- A park in progress (R387). -/
structure Park where
  bank : Nat
  how : Nat
  tok : Nat
  tokId : Nat
  /-- 0: waits for its point; 1: write-outs run; 2: the control block is being written. -/
  phase : Nat
  failed : Bool
  /-- The house cue at which the read of its descriptor through a CXL port that is down times out (R346, R441). -/
  unread : Option Nat := none
deriving DecidableEq, Repr

/-- A context being started by CTXRUN (R389). -/
structure Start where
  bank : Nat
  tok : Nat
  tokId : Nat
  eager : Bool
  /-- The read of its descriptor through a CXL port that is down has not timed out (R346, R441). -/
  unread : Bool := false
deriving DecidableEq, Repr

/-- A KINDLE or DOUSE in progress (R390). -/
structure BlockTok where
  bank : Nat
  first : Nat
  last : Nat
  out : Bool
  tok : Nat
  tokId : Nat
deriving DecidableEq, Repr

/-- A TAGSET whose tags wait for the end of transfers, or of its zeroing (R106, R391). -/
structure TagWait where
  /-- Scratchpad blocks whose tag is not set yet. -/
  blocks : List Nat
  tag : Nat
  tok : Nat
  tokId : Nat
  clr : Bool
deriving DecidableEq, Repr

/-- A self-test in progress (R405, R406): its unit, the house cue from which it may run, the stagehand cycles it still
needs, the token it completes, and the record of an error that waits for its end. -/
structure SelfTest where
  unit : Nat
  start : Nat
  left : Nat
  tok : Nat
  tokId : Nat
  record : Option FaultRec
deriving DecidableEq, Repr

/-- A request at the asynchronous port of a core (R92, R98): the scratchpad address, whose bank serves it; the
requester, whose requests to one bank keep their order; the event that makes the access, none for the place in which
a word of a stagehand or a handler waits. -/
structure PortReq where
  core : Nat
  addr : Nat
  who : Nat
  act : Option (Instr × EvArg)
deriving DecidableEq, Repr

/-- A core (R1, R2): two context banks, scratchpad, stagehand, copy engine, registers. -/
structure Core where
  bank0 : Option Ctx := none
  bank1 : Option Ctx := none
  /-- Contexts of worlds sealed outside their frames, by world (R433, log 12): bank `2 + w` of the model. -/
  sealed : Tab Ctx := []
  stage : Nat := 0
  sp : Memory := []
  spMarks : Tab Bool := []
  /-- Owner tag of each scratchpad block; 6 unless listed (R106). -/
  otag : Tab Nat := []
  spBlk : Tab Presence := []
  spImg : Tab Image := []
  xfers : List Xfer := []
  cmds : List Cmd := []
  tlb : List TlbEntry := []
  stlb : List TlbEntry := []
  share : Word := 0
  /-- House cues of the stagehand cycles that count against the share (R79), and one more than the house cue of the
  last stagehand cycle; 0 for none (R78). -/
  shCycles : List Nat := []
  shAt : Nat := 0
  /-- For a bank, the cycle in which it last served an asynchronous request, and the requester (R98):
  16 × (house cue + 1) + number of the requester. -/
  portAt : Tab Nat := []
  /-- The entry of the pool routing table under which the transfer of blocks being made left, 0 for none (R442). -/
  xferRoute : Nat := 0
  framectl : Word := 0
  framebase : DWord := 0
  frametab : Tab (BitVec 16) := []
  wlive : BitVec 4 := 0
  wsave : Tab DWord := []
  wepoch : Tab DWord := []
  /-- `CKEY`2 to 7 and `WKEY`0 to 3 at their offsets in the private page (R271, R433). -/
  keys : Memory := []
  /-- A frame gap in progress: the house cue of its end (R81). -/
  gapEnd : Option Nat := none
  castctl : Word := 0
  castid : Word := 0
  castroot : Word := 0
  castcnt : Word := 0
  fbrec : Tab Word := []
  stres : Word := 0
  errcnt : Word := 0
  /-- Registers written last, newest first, as `logCode` names them (R404). -/
  oplog : List Nat := []
  selftests : List SelfTest := []
  /-- Units found lasting that wait for a context boundary (R405). -/
  sparing : List Nat := []
  /-- The core is held in reset (R362, R373). -/
  outOfService : Bool := false
  /-- An exchange in progress: the house cue of its end (R385). -/
  exchange : Option Nat := none
  parks : List Park := []
  starts : List Start := []
  blkToks : List BlockTok := []
  tagWaits : List TagWait := []
  /-- The stagehand's translation root, code address and bank (R417, R424). -/
  shroot : DWord := 0
  shcode : DWord := 0
  shbank : Word := 0
  sh : Regs := {}
  /-- The stagehand runs; when asleep, the house cue at which its limit passes (R402). -/
  shAwake : Bool := false
  /-- The stagehand's WAITV that has not ended, and its word (R146, log 47). -/
  shWatch : Option (Wait × Nat) := none
  shLimit : Option Nat := none
deriving DecidableEq, Repr

/-! ### Dies -/

/-- An entry of a lantern (R355) with what its source die keeps. -/
structure LEntry where
  eop : Nat
  ecore : Nat
  waddr : Nat
  data : Word
  core : Nat
  bank : Nat
  win : Nat
  /-- Issue number of the instruction of its oldest element (R140). -/
  seq : Nat := 0
deriving DecidableEq, Repr

/-- A lantern (R354). -/
structure Lantern where
  /-- 0 free, 1 open, 2 held. -/
  state : Nat := 0
  pkg : Nat := 0
  die : Nat := 0
  cls : Nat := 0
  rlx : Bool := false
  own : Nat := 0
  entries : List LEntry := []
  /-- House cue of the oldest entry's entering, and the burn deadline (R359). -/
  opened : Nat := 0
  deadline : Nat := 0
  /-- A fence or flush covers an entry that entered in this cycle (R358): it is emitted at the cycle's end. -/
  flush : Bool := false
deriving DecidableEq, Repr

/-- A posted packet not yet acknowledged (R343, R345). -/
structure Posted where
  id : Nat
  pkt : Packet
  /-- Per element: storing core, bank and window (R353, R364). -/
  users : List (Nat × Nat × Nat)
  /-- The command whose write it carries, or the access. -/
  cmd : Option (Engine × Nat)
  acc : Option Nat
  since : Nat
  /-- The lantern that it left, which a returned packet holds (R361). -/
  lantern : Option Nat
deriving DecidableEq, Repr

/-- A request tag in use (R346): who waits for the reply. -/
inductive TagUser
  | acc (core id : Nat)
  | cmd (e : Engine) (id : Nat) (addrs : List Nat)
deriving DecidableEq, Repr

/-- A queue (R410, R411). -/
structure Queue where
  base : DWord := 0
  root : DWord := 0
  ctl : Word := 0
  rd : Word := 0
  wr : Word := 0
  state : Nat := 0
  ecause : Nat := 0
deriving DecidableEq, Repr

/-- A die (R1): fabric interface, front end, fault buffer, pool engines. -/
structure Die where
  lanterns : Tab Lantern := []
  /-- Lanterns emitted in this cycle, by number, whose packets have still to leave (R361). -/
  leaving : List (Nat × Lantern) := []
  lfl : List LfEntry := []
  lflovf : DWord := 0
  latereply : DWord := 0
  linkdn : Word := 0
  rtsel : Word := 0
  rtold : Word := 0
  fabtmo : Word := 0x01000000
  /-- `RTAB0` at keys 0 to 1023, `RTAB1` at keys 1024 to 2047; 0xFF unless listed (R348). -/
  rtab : Tab Byte := []
  /-- Next `SEQ` to and from another die, at key `8 * package + die` (R345). -/
  seqOut : Tab Nat := []
  seqIn : Tab Nat := []
  /-- The landing queue (R344): packets that wait for a core's port, by source pair and `SEQ`. -/
  landing : List (Nat × Nat) := []
  posted : List Posted := []
  /-- Ages of the 8,192 request tags, those in use, and requests that wait for one (R346). -/
  tagAge : Tab Nat := []
  /-- House cue at which the request that holds a tag times out. -/
  tagDue : Tab Nat := []
  tagUse : Tab TagUser := []
  tagWait : List (Packet × TagUser) := []
  /-- Successive failed sends of each link (R340). -/
  crcFails : Tab Nat := []
  ffqbase : DWord := 0
  ffqsize : DWord := 0
  ffqhead : DWord := 0
  ffqtail : DWord := 0
  bouncebase : DWord := 0
  bouncehead : DWord := 0
  bouncetail : DWord := 0
  fbuf : List FaultRec := []
  fbovf : Bool := false
  /-- Records held outside the buffer: core that holds it (none for the die), record, and the answer of the access
  that the die holds with it (R400). -/
  fbheld : List (Option Nat × FaultRec × Option Packet) := []
  fbowner : Nat := 0
  /-- Wake table: core, bank (8 for a stagehand) and address of each watched word (R147). -/
  wakeTab : List (Nat × Nat × Nat) := []
  queues : Tab Queue := []
  curQ : Option Nat := none
  /-- Slice left of the current queue, in house-cue cycles, and the cue it was set at (R416). -/
  slice : Nat := 0
  sliceAt : Nat := 0
  /-- Last queue served at each level. -/
  lastServed : Tab Nat := []
  inPacket : Bool := false
  qlaunch : DWord := 0
  qlstat : Word := 0
  armlead : Word := 0x00100000
  pool : List (Nat × Cmd) := []
  ptlb : Tab (List TlbEntry) := []
  /-- Packets that wait for a ring link (R340), and packets in the station that wait for a rack or hall link, routed
  under their version (R347). -/
  stalled : List Packet := []
  atStation : List Packet := []
deriving DecidableEq, Repr

/-! ### Launches -/

/-- A cast core of a launch on this package. -/
structure Member where
  core : Nat
  bank : Nat
  pos : Nat
  /-- Arrived at the pending barrier, with the form. -/
  arrived : Option Bool
  left : Bool
deriving DecidableEq, Repr

/-- Progress of a launch (R429, R430). -/
inductive LState
  | arming
  | armed
  | running
  | ended
deriving DecidableEq, Repr

/-- A launch (R426 to R430, R71 to R73, R374). -/
structure Launch where
  id : Nat
  launchid : Word
  die : Nat
  queue : Option Nat
  vec : Nat
  irq : Bool
  phys : Bool
  root : Nat
  done : Nat
  world : Nat
  pext : Nat
  packages : List Nat
  rootPkg : Nat
  rootDie : Nat
  packet : List Byte
  /-- SM3 of the script image that arming has read, for a world's measurement (R447). -/
  image : List Byte
  state : LState
  round : Nat
  t0 : Nat
  /-- Dies that reported ready or arrived, as `8 * package + die`; dies of this package that have sent
  their report; the house cue at which each package was last heard (R373, R374). -/
  reports : List Nat
  sent : List Nat
  heard : Tab Nat
  dies : List Nat
  members : List Member
  lost : Nat
  mixed : Bool
  /-- Members of each package that left, as far as the root has been told (R373). -/
  told : Tab Nat
  /-- The barrier has completed: next scene start (R72). -/
  sceneAt : Option Nat
  /-- Forms that arrived: some plain, some last (R368). -/
  plain : Bool
  last : Bool
deriving DecidableEq, Repr

/-! ### The package -/

/-- The boot controller's inputs and record (R444 to R446). -/
structure Flash where
  /-- Bytes of the boot step record (R446). -/
  record : Tab Byte := []
  /-- Configuration record (R444): its signed bytes, the vendor root key with which it comes, its signature, and its
  items (R445), the image signing key among them. -/
  cfgBytes : List Byte := []
  cfgKey : List Byte := []
  cfgSig : List Byte := []
  imgKey : List Byte := []
  /-- The sideband is I3C, else SMBus (R443). -/
  cfgI3c : Bool := false
  cfgPkg : Nat := 0
  cfgPool : Tab DWord := []
  cfgFabtmo : Word := 0x01000000
  cfgArmlead : Word := 0x00100000
  cfgPower : Nat := 3200
  cfgPorts : Nat := 0xFFFF
  cfgVersion : Nat := 0
  /-- Firmware image: where boot puts it, its signed bytes, signature and security version (R444). -/
  imgSig : List Byte := []
  imgAddr : Nat := 0
  imgBytes : List Byte := []
  imgVersion : Nat := 0
  /-- Outcome of each boot step by the primary and by the alternate method: fails when set. -/
  failPrimary : List Nat := []
  failAlternate : List Nat := []
deriving DecidableEq, Repr

/-- A packet as a rack or hall link carries it (R342, R349): link, sealed bytes, tag, and bits 31:0 of the counter. -/
structure Frame where
  link : Nat
  bytes : List Byte
  tag : List Byte
  count : Nat
deriving DecidableEq, Repr

/-- The agent whose word `exec` runs: a core's program streams or its stagehand, and whether further
words of the same bundle follow (the model's own, log 1). -/
structure Cur where
  core : Nat := 0
  sh : Bool := true
  more : Bool := false
  /-- Raised after the bundle (R376): cause and `INFO` of a trap that follows its word's effect. -/
  late : Option (Nat × Nat) := none
  /-- The word that runs, as fetched (R398 record 0x4F), and its line. -/
  word : Nat := 0
  line : Nat := 0
  /-- The word meets a schedule fault of its stream (R61, R64, R74). -/
  sched : Bool := false
  /-- A TRET of the bundle in progress returns at its end (R60, R381). -/
  ret : Bool := false
  /-- Writes in flight numbered from here belong to words of this cycle (R69, R200). -/
  base : Option Nat := none
  verdict : Verdict := .went
deriving DecidableEq, Repr

/-- The whole machine. -/
structure State where
  /-- House cue (R55). -/
  cue : Nat
  /-- Cluster SRAM of every die, host memory and the pool by physical address (R110), and the poison
  marks of its words by address div 4 (R396). -/
  phys : Memory
  physMarks : Tab Bool
  cores : Tab Core
  dies : Tab Die
  /-- Package number (R110, R439). -/
  pkgNum : Nat
  /-- Exposed core count of each die; 16 unless listed (R2). -/
  exposed : Tab Nat
  poolRoute : Tab DWord
  cxlDown : List Nat
  launches : List Launch
  /-- MSI-X messages sent, newest first (R418, R421, R430). -/
  msix : List Nat
  /-- The MSI-X table by 32-bit word and the pending bits set (R440). -/
  msixTab : Tab Word
  msixPend : List Nat
  /-- Values returned to the host's reads through its BARs, newest first (R408). -/
  hostReads : List Nat
  /-- Packets that left for other packages, newest first (R341). -/
  outbox : List Packet
  /-- Sideband answers sent, newest first (R443). -/
  mailbox : List (List Byte)
  flash : Flash
  bootCode : Nat
  /-- Minimum security version of the identity store (R444). -/
  minVersion : Nat
  /-- SM3 digest of the vendor root key, of the identity store (R444). -/
  rootDigest : List Byte
  /-- The sideband bus in use is I3C (R443). -/
  i3c : Bool
  /-- `WMEAS`0 to 3; 32 zero bytes unless listed (R447). -/
  wmeas : Tab (List Byte)
  /-- Keys and packet counters of rack and hall links by link number (R349). -/
  linkKeys : Tab (List Byte)
  linkCount : Tab Nat
  /-- Receiving key of each link, and the epoch it is of (R349). -/
  linkRxKeys : Tab (List Byte)
  linkRxEpoch : Tab Nat
  /-- Frames sent by links, newest first (R349). -/
  linkOut : List Frame
  overPower : Bool
  tripped : Bool
  /-- Control blocks written out, by the serial their images carry (R451, log 12). -/
  ctlImages : Tab Ctx
  /-- Events by house cue: the package's own and those from outside (log 1). -/
  agenda : List (Nat × Instr × EvArg)
  /-- Durations the manual leaves open, taken in order; 1 when none is left (log 2). -/
  delays : List Nat
  /-- Counter of the values the manual leaves open (log 3). -/
  freeIx : Nat
  /-- Number of the next access, command, packet or producer (log 1). -/
  nextId : Nat
  accs : List Acc
  fences : List FenceRec
  tokWaits : List TokWait
  /-- Requests at the asynchronous ports, in the order in which they reached them (R98). -/
  ports : List PortReq
  cur : Cur
  /-- Operands of the event that runs (log 1). -/
  ev : EvArg
deriving DecidableEq, Repr

/-- The machine right after reset: house cue 0, no context, every owner tag 6, every queue disabled,
registers at the values the maps give (R106, R240, R241, R348, R386, R411, R417), and zero where the
manual gives none (log 4, log 5). The stagehands sleep. The package is not booted: the event
PACKAGE_RESET of house cue 0 runs the boot steps of R446 (log 6). -/
def State.reset : State where
  cue := 0
  phys := []
  physMarks := []
  cores := []
  dies := []
  pkgNum := 0
  exposed := []
  poolRoute := []
  cxlDown := []
  launches := []
  msix := []
  msixTab := []
  msixPend := []
  hostReads := []
  outbox := []
  mailbox := []
  flash := {}
  bootCode := 0
  minVersion := 0
  rootDigest := []
  i3c := false
  wmeas := []
  linkKeys := []
  linkCount := []
  linkRxKeys := []
  linkRxEpoch := []
  linkOut := []
  overPower := false
  tripped := false
  ctlImages := []
  agenda := [(0, .packageReset, {})]
  delays := []
  freeIx := 0
  nextId := 0
  accs := []
  fences := []
  tokWaits := []
  ports := []
  cur := {}
  ev := {}

end Sys2Proof.Machine
end

