-- ==== Sys2Proof/Machine/Ops.lean ====
section
/-!
DEFINITION. The named operations over the state: reaching cores, banks, contexts and dies; clocks and
local cues; registers, marks, tokens and writes in flight; fault records and holds; taking a program
trap and returning from one (R375 to R383, R398 to R401).
-/
namespace Sys2Proof.Machine

/-- The outcome of a meaning. -/
abbrev Out := Host.Outcome State Fault Refusal

/-! ### Reaching things -/

/-- Core `c` of the package, numbered `16 d + c`. -/
def State.core (s : State) (c : Nat) : Core := s.cores.get {} c
def State.setCore (s : State) (c : Nat) (k : Core) : State := { s with cores := s.cores.put c k }
def State.modCore (s : State) (c : Nat) (f : Core → Core) : State := s.setCore c (f (s.core c))
/-- Die `d` of the package. -/
def State.die (s : State) (d : Nat) : Die := s.dies.get {} d
def State.setDie (s : State) (d : Nat) (k : Die) : State := { s with dies := s.dies.put d k }
def State.modDie (s : State) (d : Nat) (f : Die → Die) : State := s.setDie d (f (s.die d))

/-- Die of a core. -/
def dieOf (c : Nat) : Nat := c / 16

/-- The context of bank `b` (R384); banks from 2 on are the sealed contexts of worlds (log 12). -/
def Core.bank (k : Core) (b : Nat) : Option Ctx :=
  if b = 0 then k.bank0 else if b = 1 then k.bank1 else (k.sealed.find? (fun e => e.1 == b - 2)).map (·.2)
def Core.setBank (k : Core) (b : Nat) (x : Option Ctx) : Core :=
  if b = 0 then { k with bank0 := x }
  else if b = 1 then { k with bank1 := x }
  else { k with sealed := match x with | some x => k.sealed.put (b - 2) x | none => k.sealed.del (b - 2) }

def State.ctx (s : State) (c b : Nat) : Option Ctx := (s.core c).bank b
def State.setCtx (s : State) (c b : Nat) (x : Ctx) : State := s.modCore c (·.setBank b (some x))
def State.modCtx (s : State) (c b : Nat) (f : Ctx → Ctx) : State :=
  match s.ctx c b with
  | some x => s.setCtx c b (f x)
  | none => s

/-- The bank whose context runs (R384). -/
def State.stageOf (s : State) (c : Nat) : Nat := (s.core c).stage

/-- The context that the current word runs in: the stage context of the current core. -/
def State.me (s : State) : Ctx := (s.ctx s.cur.core (s.stageOf s.cur.core)).getD {}
def State.modMe (s : State) (f : Ctx → Ctx) : State :=
  s.modCtx s.cur.core (s.stageOf s.cur.core) f

/-- Whether the current agent exists: a stagehand always, a program stream when its bank is not empty. -/
def State.hasAgent (s : State) : Bool := s.cur.sh || (s.ctx s.cur.core (s.stageOf s.cur.core)).isSome

/-- The registers of the current agent. -/
def State.regs (s : State) : Regs := if s.cur.sh then (s.core s.cur.core).sh else s.me.regs
def State.modRegs (s : State) (f : Regs → Regs) : State :=
  if s.cur.sh then s.modCore s.cur.core (fun k => { k with sh := f k.sh })
  else s.modMe (fun x => { x with regs := f x.regs })

/-- Registers of a context or of a stagehand named from outside. -/
def State.modRegsOf (s : State) (c b : Nat) (sh : Bool) (f : Regs → Regs) : State :=
  if sh then s.modCore c (fun k => { k with sh := f k.sh })
  else s.modCtx c b (fun x => { x with regs := f x.regs })
def State.regsOf (s : State) (c b : Nat) (sh : Bool) : Regs :=
  if sh then (s.core c).sh else ((s.ctx c b).getD {}).regs

/-! ### Time -/

/-- Local cue of a context at a house cue (R56). -/
def Ctx.lcue (x : Ctx) (cue : Nat) : Nat :=
  match x.clock with
  | .run slip => cue - slip
  | .stopped l => l

/-- Slip of a context at a house cue (R56). -/
def Ctx.slip (x : Ctx) (cue : Nat) : Nat := cue - x.lcue cue

/-- The clock stops at the local cue it shows. -/
def Ctx.stop (x : Ctx) (cue : Nat) : Ctx := { x with clock := .stopped (x.lcue cue) }
/-- A frozen or held context's clock stops, but not while it waits at the scene barrier (R72 before R56, log 66). -/
def Ctx.halt (x : Ctx) (cue : Nat) : Ctx := if x.arrived.isSome then x else x.stop cue
/-- The clock runs on from the local cue it shows, at a house cue. -/
def Ctx.go (x : Ctx) (cue : Nat) : Ctx := { x with clock := .run (cue - x.lcue cue) }

/-- The time line on which the current agent's cycles count: local cue for program streams; house cue
for the stagehand (log 35) and for a handler (R379). -/
def State.now (s : State) : Nat :=
  if s.cur.sh || s.me.hnd then s.cue else s.me.lcue s.cue

/-- Timing mode in force (R66); handlers and the stagehand are interlocked (R379, log 35). -/
def Ctx.ilk (x : Ctx) : Bool :=
  match x.stack.find? (fun j => (x.levels.get {} j).began) with
  | some j => (x.levels.get {} j).ilk
  | none => x.script.ilk
def State.interlocked (s : State) : Bool := s.cur.sh || s.me.hnd || s.me.ilk
/-- R22 flushes subnormals in exposed mode. -/
def State.flush (s : State) : Bool := !s.interlocked

/-- A duration the manual leaves open: at least one cycle (log 2). -/
def State.popDelay (s : State) : Nat × State :=
  match s.delays with
  | [] => (1, s)
  | d :: ds => (if d = 0 then 1 else d, { s with delays := ds })

/-- The order in which the events that touch a queue take effect within a cycle (R423): `QADV`, `QREPAIR`, kicks and
wakes, `QCTL`. -/
def eventRank : Instr → Nat
  | .qrepair => 1
  | .kick => 2
  | .wakeRegister => 2
  | .qctlWrite => 3
  | _ => 0

/-- Insertion of an event after those due no later, in the order of R423. -/
def insertEvent (t : Nat) (e : Instr × EvArg) :
    List (Nat × Instr × EvArg) → List (Nat × Instr × EvArg)
  | [] => [(t, e)]
  | (u, f) :: r =>
    if t < u || (t == u && decide (eventRank e.1 < eventRank f.1)) then (t, e) :: (u, f) :: r
    else (u, f) :: insertEvent t e r

/-- An event at a house cue. -/
def State.at_ (s : State) (t : Nat) (e : Instr) (a : EvArg) : State :=
  { s with agenda := insertEvent t (e, a) s.agenda }
/-- An event after a duration the manual leaves open. -/
def State.later (s : State) (e : Instr) (a : EvArg) : State :=
  let (d, s) := s.popDelay
  s.at_ (s.cue + d) e a
/-- An event of a core's die once a request that nothing answers has timed out (R346). -/
def State.afterFabtmo (s : State) (c : Nat) (e : Instr) (a : EvArg) : State :=
  s.at_ (s.cue + (s.die (dieOf c)).fabtmo.toNat) e a
/-- A fresh number. -/
def State.fresh (s : State) : Nat × State := (s.nextId, { s with nextId := s.nextId + 1 })

/-! ### Location codes of registers, for marks, bindings and race picks (R396, R201, R67) -/

def codeG (n : Nat) : Nat := n
def codeX (n : Nat) : Nat := 32 + n
def codeP (n : Nat) : Nat := 40 + n
def codeB (n : Nat) : Nat := 48 + n
def codeN (n : Nat) : Nat := 56 + n
def codeV (n : Nat) : Nat := 64 + n
def codeM (n : Nat) : Nat := 96 + n
def codeY (n : Nat) : Nat := 104 + n
def codeLane (n l : Nat) : Nat := 0x1000 + 128 * n + l
def codeYLane (n l : Nat) : Nat := 0x2000 + 128 * n + l
def codeTile (k : Nat) : Nat := 0x10000 + k
def codeLatch (w : Nat) : Nat := 0x30000 + w
def codeSpill (w : Nat) : Nat := 0x40000 + w
/-- Element `e` of a vector register, and half byte `h` of the scratchpad, as race picks name them. -/
def codeElem (n e : Nat) : Nat := 0x8000000000 + 1024 * n + e
def codeSp (h : Nat) : Nat := 0x10000000000 + h

/-! ### Plain register reads and writes (R199, R278) -/

/-- g register as it stands; g0 reads as zero. -/
def Regs.gAt (r : Regs) (n : Nat) : Word := if n = 0 then 0 else r.g.get 0 n
def Regs.setG (r : Regs) (n : Nat) (v : Word) : Regs := if n = 0 then r else { r with g := r.g.put n v }
def Regs.xAt (r : Regs) (n : Nat) : DWord := r.x.get 0 n
def Regs.setX (r : Regs) (n : Nat) (v : DWord) : Regs := { r with x := r.x.put n v }
/-- p0 reads as true. -/
def Regs.pAt (r : Regs) (n : Nat) : Bool := n == 0 || r.p.getLsbD n
def Regs.setP (r : Regs) (n : Nat) (v : Bool) : Regs :=
  if n = 0 then r
  else { r with p := if v then r.p ||| BitVec.ofNat 8 (2 ^ n) else r.p &&& ~~~ BitVec.ofNat 8 (2 ^ n) }
def Regs.bAt' (r : Regs) (n : Nat) : Word := r.b.get 0 n
/-- A b register written at cycle `t` (R170). -/
def Regs.setB (r : Regs) (n : Nat) (v : Word) (t : Nat) : Regs :=
  { r with b := r.b.put n v, bAt := r.bAt.put n (t + 1) }
def Regs.mark (r : Regs) (code : Nat) : Bool := r.marks.get false code
def Regs.setMark (r : Regs) (code : Nat) (m : Bool) : Regs :=
  if code = 0 then r else { r with marks := if m then r.marks.put code true else r.marks.del code }
def Regs.setMarks (r : Regs) (base : Nat) (l : List (Nat × Bool)) : Regs :=
  l.foldl (fun r e => r.setMark (base + e.1) e.2) r

/-- n register; n0 reads as 0xFFFF (R70). -/
def Ctx.nAt (x : Ctx) (n : Nat) : Nat := if n = 0 then 0xFFFF else (x.nval.get 0xFFFF n).toNat
/-- m register; m0 reads as all ones (R278). -/
def Ctx.mAt (x : Ctx) (n : Nat) : Mask := if n = 0 then BitVec.allOnes 128 else x.m.get (BitVec.allOnes 128) n
def Ctx.setM (x : Ctx) (n : Nat) (v : Mask) : Ctx := if n = 0 then x else { x with m := x.m.put n v }
def Ctx.vAt (x : Ctx) (n : Nat) : Vec := x.v.get 0 n
def Ctx.tileAt (x : Ctx) (k : Nat) : Word := x.tiles.get 0 k
/-- Presence of a block of a context, its scratchpad blocks apart (R101). -/
def Ctx.block (x : Ctx) (n : Nat) : Presence := x.blocks.get .lit n

/-! ### Tokens (R135, R256) -/

def Regs.pending (r : Regs) (t : Nat) : Bool := t != 0 && r.tokPend.getLsbD t
def Regs.failed (r : Regs) (t : Nat) : Bool := t != 0 && r.tokFail.getLsbD t
/-- `produce(t)` of R177; the failed mark clears. -/
def Regs.produce (r : Regs) (t id : Nat) : Regs :=
  if t = 0 then r
  else { r with
    tokPend := r.tokPend ||| BitVec.ofNat 64 (2 ^ t)
    tokFail := r.tokFail &&& ~~~ BitVec.ofNat 64 (2 ^ t)
    tokId := r.tokId.put t id }
/-- A token completes, failed with a cause other than 0 (R256). Only its last producer completes it. -/
def Regs.complete (r : Regs) (t id cause : Nat) : Regs :=
  let r :=
    if cause = 0 then r
    else { r with xferst := BitVec.ofNat 32 (0x80000000 + cause % 16 * 256 + t % 64) }
  if t = 0 || r.tokId.get 0 t != id then r
  else
    let r := { r with tokPend := r.tokPend &&& ~~~ BitVec.ofNat 64 (2 ^ t) }
    if cause = 0 then r else { r with tokFail := r.tokFail ||| BitVec.ofNat 64 (2 ^ t) }

/-! ### Operand log (R404) -/

/-- A register as the operand log names it: its location code, and whose it is. -/
def logCode (b : Nat) (sh : Bool) (code : Nat) : Nat := code + 0x100 * (if sh then 2 else b)

/-- A register written: the core's operand log keeps the last 32. -/
def Core.logReg (k : Core) (b : Nat) (sh : Bool) (code : Nat) : Core :=
  { k with oplog := (logCode b sh code :: k.oplog).take 32 }

/-! ### Records (R400, R401) -/

/-- `REQ` of R401. -/
def reqWord (pkg die core kind : Nat) : Nat :=
  pkg % 1024 + die % 8 * 2 ^ 10 + core % 16 * 2 ^ 13 + kind % 8 * 2 ^ 17
def State.reqOf (s : State) (c kind : Nat) : Nat := reqWord s.pkgNum (dieOf c) c kind

/-- `WHO` of R401; a sealed world's bank is 0. -/
def whoByte (c bank : Nat) (held : Bool) : Nat := c % 16 + b2n (bank == 1) * 16 + b2n held * 32

/-- The command processor's stagehand wakes (R402). -/
def State.wakeSh (s : State) (c : Nat) : State :=
  s.modCore c (fun k => { k with shAwake := true, shLimit := none })

/-- A record enters the buffer of its die, or is held outside it (R400); the core that holds one freezes
(R57). -/
def State.pushRec (s : State) (d : Nat) (holder : Option Nat) (r : FaultRec) : State :=
  let k := s.die d
  if k.fbuf.length < 256 && k.fbheld.isEmpty then
    (s.setDie d { k with fbuf := k.fbuf ++ [r] }).wakeSh (16 * d + k.fbowner)
  else
    let s := s.setDie d { k with fbheld := k.fbheld ++ [(holder, r, none)], fbovf := true }
    match holder with
    | none => s
    | some c => s.modCtx c (s.stageOf c) (fun x =>
        if x.frozen.isSome then x else { x.halt s.cue with frozen := some .record })

/-- A cycle set for an event has come; ALIGNC may have moved the house cue past it (R370). -/
def timeCome (cue : Nat) : Option Nat → Bool
  | some t => decide (t ≤ cue)
  | none => false

/-- A record that concerns no context (R401). -/
def State.dieRec (s : State) (d cause req addr detail : Nat) : State :=
  s.pushRec d none ⟨cause, 0, req, addr, detail, s.cue⟩

/-- `REQ` of a requester (R401). -/
def reqNum (r : Requester) : Nat := reqWord r.pkg r.die r.core r.kind

/-- An agent of core `c` as a requester: a stream or engine for bank `b`, or the stagehand (R401). -/
def State.agent (s : State) (c b kind : Nat) : Requester :=
  { kind := kind, pkg := s.pkgNum, die := dieOf c, core := c % 16, who := whoByte c (if kind = 3 then 0 else b) false }

/-- A record that an access of a requester leaves at die `d` (R401): met by its own agent, whose core holds a record
without room, or by the die's fabric interface. -/
def State.agentRec (s : State) (d cause : Nat) (r : Requester) (addr detail : Nat) : State :=
  if r.far then s.dieRec d cause (reqWord s.pkgNum d 0 4) addr detail
  else
    s.pushRec d (if r.kind ≤ 3 then some (16 * r.die + r.core) else none)
      ⟨cause, r.who, reqNum r, addr, detail, s.cue⟩

/-- A record about a core's context. -/
def State.ctxRec (s : State) (c bank : Nat) (held : Bool) (cause kind addr detail : Nat) : State :=
  s.pushRec (dieOf c) (some c) ⟨cause, whoByte c bank held, s.reqOf c kind, addr, detail, s.cue⟩

/-- Space frees: held records enter in the order they were raised (R400). -/
def State.drainHeldRecs (s : State) (d : Nat) : State :=
  let k := s.die d
  match k.fbheld with
  | [] => s
  | (_, r, p) :: rest =>
    if k.fbuf.length < 256 then
      let s := (s.setDie d { k with fbuf := k.fbuf ++ [r], fbheld := rest }).wakeSh (16 * d + k.fbowner)
      match p with
      | some p => s.at_ s.cue .packetResend { pkt := some p }
      | none => s
    else s

/-- A record of a core waits outside its die's full buffer. -/
def State.recWaits (s : State) (c : Nat) : Bool :=
  (s.die (dieOf c)).fbheld.any (fun e => e.1 == some c)

/-! ### Holds (R398) -/

/-- A context is held; its clock stops. -/
def State.holdCtx (s : State) (c b : Nat) (h : Hold) : State :=
  s.modCtx c b (fun x => { x.halt s.cue with held := some h })

/-! ### Writes in flight (R200, R283, R320) -/

/-- A write of the current agent, due `k` cycles after its issue. -/
def State.addPend (s : State) (strm k : Nat) (w : PWrite) : State :=
  let due := s.now + k
  let (i, s) := s.fresh
  s.modRegs (fun r => { r with pend := r.pend ++ [⟨due, i, strm, false, w⟩] })

/-- R94 order of writes due in one cycle: scalar, vector, matrix, each in issue order; by cycle first. Window writes of one
triple that are due in different cycles leave so too, whichever issued first (R284 before R140; DESIGN CHOICE, log 67). -/
def pendBefore (a b : Pend) : Bool :=
  a.due < b.due || (a.due == b.due && (a.strm < b.strm || (a.strm == b.strm && a.seq < b.seq)))

/-- The bits of `new` where `sel` is set, of `old` elsewhere. -/
def blend {n : Nat} (old new sel : BitVec n) : BitVec n := (old &&& ~~~sel) ||| (new &&& sel)

end Sys2Proof.Machine
end

