-- ==== Sys2Proof/Machine/Flags.lean ====
section
/-!
DEFINITION. What the machine computes of status and comparison: the status word (R380), token status
(R240), bank status (R386), and the predicates of the compares (R208, R297).
-/
namespace Sys2Proof.Machine

/-- `STATUS` of a context in a bank (R380). In a handler `MODE` is that of the interrupted code (log 37). -/
def Ctx.status (x : Ctx) (bank : Nat) : Word :=
  BitVec.ofNat 32 (x.own % 16 * 2 ^ 24 + bank % 2 * 2 ^ 23 + b2n x.ilk * 2 ^ 22 + b2n x.hnd * 2 ^ 21
    + x.strm % 4 * 2 ^ 18 + x.info % 256 * 2 ^ 8 + x.cause % 256)

/-- `ESTATUS` as trap entry writes it: `STATUS` with this trap's cause, stream and detail (R378). -/
def Ctx.trapStatus (x : Ctx) (bank cause info strm : Nat) : Word :=
  ({ x with cause := cause, info := info, strm := strm }).status bank

/-- `TOKST`0 or 1: a set bit is a complete token (R240). -/
def Regs.tokst (r : Regs) (half : Nat) : Word :=
  BitVec.ofNat 32 ((r.tokPend &&& ~~~ (1 : BitVec 64)).toNat / 2 ^ (32 * half)) ^^^ 0xFFFFFFFF

/-- State code of a bank in `BANKST` (R386). -/
def bankCode (stage : Bool) : Option Ctx → Nat
  | none => 0
  | some x =>
    match x.life with
    | .starting => 6
    | .parking => 5
    | .live =>
      if x.held.isSome then 4
      else if x.waitv.isSome then 3
      else if stage then 1 else 2

/-- `BANKST` of a core (R386). -/
def Core.bankst (k : Core) : Word :=
  BitVec.ofNat 32 (bankCode (k.stage == 0) k.bank0 + 8 * bankCode (k.stage == 1) k.bank1 + 64 * k.stage)

/-- Integer comparisons of R208: equal, signed and unsigned less. -/
def cmpEq (a b : Word) : Bool := a == b
def cmpLt (a b : Word) : Bool := decide (a.toInt < b.toInt)
def cmpLe (a b : Word) : Bool := decide (a.toInt ≤ b.toInt)
def cmpLtu (a b : Word) : Bool := decide (a.toNat < b.toNat)
def cmpLeu (a b : Word) : Bool := decide (a.toNat ≤ b.toNat)

/-- f32 comparisons of R208: false when an operand is NaN, but for unordered. -/
def fpEq (a b : Fp) : Bool := a.eqv b
def fpLt (a b : Fp) : Bool := a.lt b
def fpLe (a b : Fp) : Bool := a.lt b || a.eqv b
def fpUn (a b : Fp) : Bool := a.isNan || b.isNan

end Sys2Proof.Machine
end

