-- ==== Sys2Proof/Machine/Bodies.lean ====
section
/-!
DEFINITION. The loop table as a stream meets it (R63, R64): the fields of a level's entry, and how a stream comes to a
line of the bodies.
-/
namespace Sys2Proof.Machine

/-- Word `w` of loop-table entry `j`. -/
def Ctx.loopWord (x : Ctx) (j w : Nat) : Nat := (x.looptab.get 0 (12 * j + w)).toNat
def Ctx.loopKind (x : Ctx) (j : Nat) : Nat := bits (x.loopWord j 0) 1 0
def Ctx.loopIlk (x : Ctx) (j : Nat) : Bool := bitAt (x.loopWord j 0) 2
def Ctx.loopCount (x : Ctx) (j : Nat) : Nat := x.loopWord j 1
def Ctx.loopPeriod (x : Ctx) (j : Nat) : Nat := x.loopWord j 2
/-- First and last line of the body of a stream (0 scalar, 1 vector, 2 matrix), none without one. -/
def Ctx.loopBody (x : Ctx) (j strm : Nat) : Option (Nat × Nat) :=
  let f := x.loopWord j (4 + 2 * strm)
  if f = 0xFFFFFFFF then none else some (f, x.loopWord j (5 + 2 * strm))
/-- `index(j)` of R177. -/
def Ctx.index (x : Ctx) (j : Nat) : Nat := (x.levels.get {} j).idx

/-- Levels whose body of a stream starts at a line and whose iteration it does not take part in. -/
def Ctx.entering (x : Ctx) (strm line : Nat) (t : Stream) : List Nat :=
  (List.range 6).filter (fun j =>
    x.loopKind j == 1 && (x.loopBody j strm).map (·.1) == some line && !t.inside.contains j)

/-- A line lies in the body of level `j`. -/
def Ctx.inBody (x : Ctx) (strm line j : Nat) : Bool :=
  match x.loopBody j strm with
  | some (f, l) => decide (f ≤ line) && decide (line ≤ l)
  | none => false

/-- A stream takes part in an iteration of level `j`. -/
def Ctx.join (x : Ctx) (j : Nat) (t : Stream) : Stream :=
  { t with inside := j :: t.inside.filter (· != j), passes := t.passes.put j (x.levels.get {} j).starts }

/-- The first line of the body of level `j` is reached when iteration 0 has started (R64), of a start that the stream
has not met where the level has ended since (log 20). -/
def Ctx.tooLate (x : Ctx) (t : Stream) (j : Nat) : Bool :=
  let v := x.levels.get {} j
  if v.active then v.began else decide (t.passes.get 0 j < v.starts)

/-- A stream reaches a line (R64): at the first line of a body it waits for iteration 0; when that has
started, its next word meets the schedule fault (log 20). -/
def Ctx.reach (x : Ctx) (strm : Nat) (t : Stream) : Stream :=
  match x.entering strm t.line t with
  | [] => t
  | l =>
    match l.find? (x.tooLate t) with
    | some j => { t with late := j :: t.late }
    | none => { t with wait := some 8 }

/-- A stream goes from the line of its last word on in sequence (R64, R156): at the end of the body of an active level
it waits; of active levels that share a last line, the one started last acts (log 21). -/
def Ctx.fall (x : Ctx) (strm frm : Nat) (t : Stream) : Stream :=
  if t.line = frm then t
  else match x.stack.find? (fun j => (x.loopBody j strm).map (·.2) == some frm) with
    | some j => { t with wait := some j }
    | none => x.reach strm t

/-- A stream comes to its line from elsewhere: the bodies it left count no more, and in the body of a level whose
iteration runs, past its first line, it takes part in that iteration (log 20). -/
def Ctx.land (x : Ctx) (strm : Nat) (t : Stream) : Stream :=
  let past := fun j => x.inBody strm t.line j && (x.loopBody j strm).map (·.1) != some t.line
  let t := { t with inside := t.inside.filter past, late := t.late.filter (x.inBody strm t.line) }
  let t := (x.stack.filter (fun j => past j && (x.levels.get {} j).began)).foldl (fun t j => x.join j t) t
  x.reach strm t

end Sys2Proof.Machine
end

