-- ==== Sys2Proof/Machine/Sm.lean ====
section
/-!
DEFINITION. The ciphers and digests the manual names by their standards (log 10): SM4 (GB/T 32907),
SM3 (GB/T 32905) and GCM (NIST SP 800-38D) with SM4 as its block cipher (R272). A block is a number
whose first byte is the most significant.
-/
namespace Sys2Proof.Machine

/-- The number whose first byte is the most significant. -/
def ofBe (l : List Byte) : Nat := l.foldl (fun a b => 256 * a + b.toNat) 0
/-- `n` bytes, the most significant first. -/
def toBe (n v : Nat) : List Byte := (toLe n v).reverse

/-! ### SM4 -/

/-- The S-box as one number, entry 0 the most significant byte. -/
def sm4Box : Nat :=
  0xD690E9FECCE13DB716B614C228FB2C052B679A762ABE04C3AA441326498606999C4250F491EF987A33540B43EDCFAC62E4B31CA9C908E89580DF94FA758F3FA64707A7FCF37317BA83593C19E6854FA8686B81B27164DA8BF8EB0F4B70569D351E240E5E6358D1A225227C3B01217887D40046579FD327524C3602E7A0C4C89EEABF8AD240C738B5A3F7F2CEF96115A1E0AE5DA49B341A55AD933230F58CB1E31DF6E22E8266CA60C02923AB0D534E6FD5DB3745DEFD8E2F03FF6A726D6C5B518D1BAF92BBDDBC7F11D95C411F105AD80AC13188A5CD7BBD2D74D012B8E5B4B08969974A0C96777E65B9F109C56EC68418F07DEC3ADC4D2079EE5F3ED7CB3948

def sm4Sub (x : Nat) : Nat := sm4Box / 256 ^ (255 - x % 256) % 256

def rotl32 (x n : Nat) : Nat := (x * 2 ^ n + x / 2 ^ (32 - n)) % 2 ^ 32

/-- The S-box on each byte of a word. -/
def sm4Tau (x : Nat) : Nat :=
  sm4Sub (x / 2 ^ 24) * 2 ^ 24 + sm4Sub (x / 2 ^ 16) * 2 ^ 16 + sm4Sub (x / 2 ^ 8) * 2 ^ 8 + sm4Sub x

def xor4 (a b c d : Nat) : Nat := Nat.xor (Nat.xor a b) (Nat.xor c d)

def sm4T (x : Nat) : Nat :=
  let b := sm4Tau x
  Nat.xor (xor4 b (rotl32 b 2) (rotl32 b 10) (rotl32 b 18)) (rotl32 b 24)

def sm4TKey (x : Nat) : Nat :=
  let b := sm4Tau x
  Nat.xor (Nat.xor b (rotl32 b 13)) (rotl32 b 23)

/-- The constant of round `i`: bytes `28 i`, `28 i + 7`, `28 i + 14`, `28 i + 21` modulo 256. -/
def sm4Ck (i : Nat) : Nat :=
  (28 * i) % 256 * 2 ^ 24 + (28 * i + 7) % 256 * 2 ^ 16 + (28 * i + 14) % 256 * 2 ^ 8 + (28 * i + 21) % 256

/-- One round of the key schedule or of the cipher on four words. -/
def sm4Round (f : Nat → Nat) (k : Nat) (w : Nat × Nat × Nat × Nat) : Nat × Nat × Nat × Nat :=
  let (a, b, c, d) := w
  (b, c, d, Nat.xor a (f (xor4 b c d k)))

def words4 (x : Nat) : Nat × Nat × Nat × Nat :=
  (x / 2 ^ 96 % 2 ^ 32, x / 2 ^ 64 % 2 ^ 32, x / 2 ^ 32 % 2 ^ 32, x % 2 ^ 32)

/-- The 32 round keys of a 128-bit key. -/
def sm4Keys (key : Nat) : List Nat :=
  let w := words4 (Nat.xor key 0xA3B1BAC656AA3350677D9197B27022DC)
  ((List.range 32).foldl (fun (acc : (Nat × Nat × Nat × Nat) × List Nat) i =>
    let w := sm4Round sm4TKey (sm4Ck i) acc.1
    (w, acc.2 ++ [w.2.2.2])) (w, [])).2

/-- One block enciphered under round keys. -/
def sm4Block (rks : List Nat) (x : Nat) : Nat :=
  let (a, b, c, d) := rks.foldl (fun w k => sm4Round sm4T k w) (words4 x)
  d * 2 ^ 96 + c * 2 ^ 64 + b * 2 ^ 32 + a

/-! ### GCM -/

/-- Product in GF(2^128) of GCM: `fuel` bits of `x` from its most significant, `v` the multiple. -/
def gmulGo (x : Nat) : Nat → Nat → Nat → Nat
  | 0, _, z => z
  | i + 1, v, z =>
    let z := if bitAt x i then Nat.xor z v else z
    let v := if v % 2 = 1 then Nat.xor (v / 2) (0xE1 * 2 ^ 120) else v / 2
    gmulGo x i v z

def gmul (x y : Nat) : Nat := gmulGo x 128 y 0

/-- 16-byte blocks of a message, the last padded with zeros. -/
def blocks16 (l : List Byte) : List Nat :=
  (chunksOf 16 (l.length / 16 + 1) l).map (fun c => ofBe (c ++ List.replicate (16 - c.length) 0))

/-- GHASH with empty additional data. -/
def ghash (h : Nat) (c : List Byte) : Nat :=
  let y := (blocks16 c).foldl (fun y b => gmul (Nat.xor y b) h) 0
  gmul (Nat.xor y (8 * c.length)) h

/-- Counter-mode text: blocks of the message from a counter. -/
def ctrGo (rks : List Nat) (iv : Nat) : Nat → List (List Byte) → List Byte
  | _, [] => []
  | n, b :: bs =>
    let ks := toBe 16 (sm4Block rks (iv * 2 ^ 32 + n % 2 ^ 32))
    (b.zip ks).map (fun (x, y) => x ^^^ y) ++ ctrGo rks iv (n + 1) bs

/-- Text enciphered or deciphered with a 96-bit IV. -/
def gcmText (rks : List Nat) (iv : Nat) (l : List Byte) : List Byte :=
  ctrGo rks iv 2 (chunksOf 16 (l.length / 16 + 1) l)

/-- The 128-bit tag of a ciphertext. -/
def gcmTag (rks : List Nat) (iv : Nat) (c : List Byte) : List Byte :=
  toBe 16 (Nat.xor (ghash (sm4Block rks 0) c) (sm4Block rks (iv * 2 ^ 32 + 1)))

/-- SM4-GCM encryption with empty additional data: ciphertext and tag (R272). -/
def gcmSeal (key iv : Nat) (p : List Byte) : List Byte × List Byte :=
  let rks := sm4Keys key
  let c := gcmText rks iv p
  (c, gcmTag rks iv c)

/-- SM4-GCM decryption: none when the tag does not verify (R272). -/
def gcmOpen (key iv : Nat) (c tag : List Byte) : Option (List Byte) :=
  let rks := sm4Keys key
  if gcmTag rks iv c == tag then some (gcmText rks iv c) else none

/-! ### SM3 -/

def sm3P0 (x : Nat) : Nat := Nat.xor (Nat.xor x (rotl32 x 9)) (rotl32 x 17)
def sm3P1 (x : Nat) : Nat := Nat.xor (Nat.xor x (rotl32 x 15)) (rotl32 x 23)

/-- The 68 expanded words of a block, newest first. -/
def sm3Expand : Nat → List Nat → List Nat
  | 0, w => w
  | n + 1, w =>
    let at_ := fun i => w.getD (i - 1) 0
    let t := sm3P1 (Nat.xor (Nat.xor (at_ 16) (at_ 9)) (rotl32 (at_ 3) 15))
    sm3Expand n (Nat.xor (Nat.xor t (rotl32 (at_ 13) 7)) (at_ 6) :: w)

def not32 (x : Nat) : Nat := 2 ^ 32 - 1 - x

/-- One round of the compression on the words A to H. -/
def sm3Round (ws : List Nat) (v : List Nat) (j : Nat) : List Nat :=
  match v with
  | [a, b, c, d, e, f, g, h] =>
    let t := if j < 16 then 0x79CC4519 else 0x7A879D8A
    let ss1 := rotl32 ((rotl32 a 12 + e + rotl32 t (j % 32)) % 2 ^ 32) 7
    let ss2 := Nat.xor ss1 (rotl32 a 12)
    let ff := if j < 16 then Nat.xor (Nat.xor a b) c
      else Nat.lor (Nat.lor (Nat.land a b) (Nat.land a c)) (Nat.land b c)
    let gg := if j < 16 then Nat.xor (Nat.xor e f) g
      else Nat.lor (Nat.land e f) (Nat.land (not32 e) g)
    let wj := ws.getD j 0
    let wj' := Nat.xor wj (ws.getD (j + 4) 0)
    let tt1 := (ff + d + ss2 + wj') % 2 ^ 32
    let tt2 := (gg + h + ss1 + wj) % 2 ^ 32
    [tt1, a, rotl32 b 9, c, sm3P0 tt2, e, rotl32 f 19, g]
  | v => v

def sm3Block (v : List Nat) (blk : List Byte) : List Nat :=
  let w0 := (chunksOf 4 16 blk).map ofBe
  let ws := (sm3Expand 52 w0.reverse).reverse
  let v' := (List.range 64).foldl (sm3Round ws) v
  (v.zip v').map (fun (x, y) => Nat.xor x y)

/-- SM3 digest, 32 bytes. -/
def sm3 (m : List Byte) : List Byte :=
  let pad := m ++ (0x80 : Byte) :: List.replicate ((119 - m.length % 64) % 64) 0 ++ toBe 8 (8 * m.length)
  let iv := [0x7380166F, 0x4914B2B9, 0x172442D7, 0xDA8A0600, 0xA96F30BC, 0x163138AA, 0xE38DEE4D, 0xB0FB0E4E]
  ((chunksOf 64 (pad.length / 64 + 1) pad).foldl sm3Block iv).flatMap (toBe 4)

end Sys2Proof.Machine
end

