-- ==== Sys2Proof/Machine/Local.lean ====
section
/-!
DEFINITION. Core-local memory: the address map (R87 to R90), bank rows and the wheel (R91 to R97),
presence of blocks (R101, R102), owner tags (R106), poison marks of words (R396), reads of registers,
scratchpad and accumulator store with writes still in flight (R67, R99, R131, R133, R321).
-/
namespace Sys2Proof.Machine

/-- What a core-local address names (R87). -/
inductive Region
  | sp
  | row
  | col
  | win
  | none
deriving DecidableEq, Repr

/-- R87. -/
def regionOf (a : Nat) : Region :=
  if a < 0x00800000 then .sp
  else if a < 0x00840000 then .row
  else if a < 0x00880000 then .col
  else if 0x10000000 ≤ a && decide (a < 0x20000000) then .win
  else .none

/-- Key of the accumulator element at a view address (R89). -/
def viewKey (a : Nat) : Nat :=
  if a < 0x00840000 then (a - 0x00800000) / 4
  else
    let o := (a - 0x00840000) / 4
    o / 4096 * 4096 + o % 64 * 64 + o / 64 % 64

/-- Bank row of a scratchpad address: group, row and bank as one number (R91). -/
def bankRow (a : Nat) : Nat := a / 128
/-- Bank of a bank row: group and bank (R91). -/
def bankOfRow (r : Nat) : Nat := r / 32768 * 32 + r % 32
/-- Bank of a scratchpad address (R91). -/
def bankOf (a : Nat) : Nat := bankOfRow (bankRow a)
/-- Presence block of a scratchpad address, numbered 0 to 127 (R91). -/
def spBlock (a : Nat) : Nat := a / 65536 % 128
/-- Block of an image descriptor of a scratchpad address (R101). -/
def blockOf (a : Nat) : Nat := 28 + spBlock a

/-- Wheel position of a local cue (R92). -/
def wheel (lc : Nat) : Nat := lc % 8

/-- The distinct values of a list, in order of first appearance. -/
def distinct (l : List Nat) : List Nat :=
  l.foldl (fun acc x => if acc.contains x then acc else acc ++ [x]) []

/-- Distinct values of a list in ascending order. -/
def ascending (l : List Nat) : List Nat := sortBy (fun a b => decide (a < b)) (distinct l)

/-! ### Presence and owners -/

/-- Presence of block `n` of R101 for a context of core `k`. -/
def presenceOf (k : Core) (x : Ctx) (n : Nat) : Presence :=
  if n < 28 then x.block n else k.spBlk.get .lit (n - 28)

/-- Lit or dousing: the block lets an instruction issue (R102). -/
def presenceOk : Presence → Bool
  | .lit => true
  | .dousing => true
  | _ => false

/-- A block below 28 of a context is lit or dousing. -/
def Ctx.hasBlock (x : Ctx) (n : Nat) : Bool := presenceOk (x.block n)

/-- The blocks of a list that are dark or kindling (R102). -/
def State.missing (s : State) (c b : Nat) (l : List Nat) : List Nat :=
  let k := s.core c
  let x := (k.bank b).getD {}
  l.filter (fun n => !presenceOk (presenceOf k x n))

/-- Owner tag of a scratchpad block (R106). -/
def Core.tag (k : Core) (blk : Nat) : Nat := k.otag.get 6 blk

/-- A block written while it is dousing: its write-out is abandoned and it is lit (R103). -/
def Core.touchWrite (k : Core) (blk : Nat) : Core :=
  match k.spBlk.get .lit blk with
  | .dousing => { k with
      spBlk := k.spBlk.put blk .lit
      xfers := k.xfers.filter (fun e => !(e.out && e.block == 28 + blk)) }
  | _ => k

/-! ### Scratchpad bytes and marks -/

/-- Bytes written to the scratchpad of a core, with the words' poison marks: a write clears the mark
of its word unless the value is poisoned (R396). -/
def Core.spPut (k : Core) (cells : List (Nat × Byte)) (marks : List (Nat × Bool)) : Core :=
  { k with
    sp := k.sp.writeCells cells
    spMarks := marks.foldl (fun t e => if e.2 then t.put e.1 true else t.del e.1) k.spMarks }

/-- Such a write made at the asynchronous port: a dousing block is lit again (R104). -/
def Core.spWrite (k : Core) (cells : List (Nat × Byte)) (marks : List (Nat × Bool)) : Core :=
  ((distinct (cells.map (fun e => spBlock e.1))).foldl Core.touchWrite k).spPut cells marks

/-- The bytes of `v` at addresses from `a`. -/
def cellsOf (a : Nat) (bs : List Byte) : List (Nat × Byte) := (upFrom a bs.length).zip bs

/-- The words a run of bytes lies in. -/
def wordsOf (a n : Nat) : List Nat := upFrom (a / 4) ((a + n + 3) / 4 - a / 4)

/-! ### Reads with writes in flight -/

/-- One choice the manual leaves open, for the current issue and a location (R67, log 3). In
interlocked mode only words of one cycle read so early, and they read the old value (log 13). -/
def State.pick (s : State) (key : Nat) : Bool := !s.interlocked && Config.racePick s.freeIx key

/-- Who reads memory early, as R122 tells reads apart: a stream in a class, the class field of its word (R158, R165). -/
def State.reader (s : State) (strm : Nat) : Nat :=
  16 * strm + (if strm = 0 then bits s.cur.word 8 5 else if strm = 1 then bits s.cur.word 75 72 else 0)

/-- An early read of a word of memory finds the write of number `n`: from some cycle on every read of the requester and
class does (R67, R122; log 3). -/
def State.finds (s : State) (strm n place : Nat) : Bool :=
  !s.interlocked && decide (Config.raceFrom n place (s.reader strm) ≤ s.now)

/-- A read made before a write is due: the value before it or the value written, write by write in
order (R67). -/
def earlyRead {α : Type} (s : State) (key : Nat) (cur : α) : List α → α
  | [] => cur
  | w :: ws => earlyRead s (key + 0x100000) (if s.pick key then w else cur) ws

/-- The same where a write makes its value of the one before it: the read finds one of the values that the place holds in
turn. `acc` is what it finds so far and `cum` the value once the writes before have been made; a write marked `true` is
read as made, and one whose number `find` takes is found. -/
def earlyFold {α : Type} (find : Nat → Bool) : α → α → List (Bool × Nat × (α → α)) → α
  | acc, _, [] => acc
  | acc, cum, (now, n, f) :: l =>
    let new := f cum
    earlyFold find (if now then f acc else if find n then new else acc) new l

/-- Values pending for g register `n`. -/
def pendG (r : Regs) (n : Nat) : List Word :=
  r.pend.filterMap (fun p => match p.w with | .g k v _ => if k = n then some v else none | _ => none)
def pendX (r : Regs) (n : Nat) : List DWord :=
  r.pend.filterMap (fun p => match p.w with | .x k v _ => if k = n then some v else none | _ => none)
def pendP (r : Regs) (n : Nat) : List Bool :=
  r.pend.filterMap (fun p => match p.w with
    | .p k v => if k = n then some v else none
    | .preds v => some (v.getLsbD n)
    | _ => none)
def pendB (r : Regs) (n : Nat) : List Word :=
  r.pend.filterMap (fun p => match p.w with | .b k v => if k = n then some v else none | _ => none)

/-- `gread(n)` of R177: g0 is zero; an early read in exposed mode may return either value (R67). -/
def State.g (s : State) (n : Nat) : Word :=
  if n = 0 then 0 else earlyRead s (codeG n) (s.regs.gAt n) (pendG s.regs n)
/-- x register as the current issue reads it. -/
def State.x (s : State) (n : Nat) : DWord := earlyRead s (codeX n) (s.regs.xAt n) (pendX s.regs n)
/-- p register as the current issue reads it; p0 is true. -/
def State.p (s : State) (n : Nat) : Bool :=
  if n = 0 then true else earlyRead s (codeP n) (s.regs.pAt n) (pendP s.regs n)
/-- b register as the current issue reads it. -/
def State.b (s : State) (n : Nat) : Word := earlyRead s (codeB n) (s.regs.bAt' n) (pendB s.regs n)

/-- The guard of a scalar word passes (R157). -/
def State.guard (s : State) (h : SHdr) : Bool := s.p h.gp.toNat != h.gs

/-- The elements of a vector write that an early read finds written (R67, R283), as a bit mask: `i` writes of the
register precede it. -/
def State.pickEls (s : State) (n ew i : Nat) : Nat :=
  (List.range (4096 / ew)).foldl (fun m e =>
    if s.pick (codeElem n e + 0x1000000 * i) then m + 2 ^ (ew * e) * (2 ^ ew - 1) else m) 0

/-- Vector register with its pending writes, element by element (R67). -/
def State.v (s : State) (n : Nat) : Vec :=
  let x := s.me
  let ws := x.regs.pend.filterMap (fun p =>
    match p.w with | .v k ew val sel _ => if k = n then some (ew, val, sel) else none | _ => none)
  (ws.foldl (fun (acc : Vec × Nat) w =>
    (blend acc.1 w.2.1 (w.2.2 &&& BitVec.ofNat 4096 (s.pickEls n w.1 acc.2)), acc.2 + 1)) (x.vAt n, 0)).1

/-- Mask register with its pending writes, bit by bit (R67); m0 is all ones. -/
def State.mask (s : State) (n : Nat) : Mask :=
  if n = 0 then BitVec.allOnes 128
  else
    let x := s.me
    let ws := x.regs.pend.filterMap (fun p =>
      match p.w with | .m k val sel => if k = n then some (val, sel) else none | _ => none)
    (ws.foldl (fun (acc : Mask × Nat) w =>
      let bs := (List.range 128).foldl (fun (m : Nat) l =>
        if s.pick (codeM n + 0x1000 * l + 0x100000 * acc.2) then m + 2 ^ l else m) 0
      (blend acc.1 w.1 (w.2 &&& BitVec.ofNat 128 bs), acc.2 + 1)) (x.mAt n, 0)).1

/-- Lane of a running-sum register as it stands. -/
def Ctx.yAt (x : Ctx) (n l : Nat) : DWord := x.y.get 0 (128 * n + l)
/-- `POINT` of a running-sum register (R46). -/
def Ctx.yPoint (x : Ctx) (n : Nat) : Nat := (x.yctl.get 0 n).toNat % 64

/-- An addend of a pending running-sum addition. -/
def yVal (nan inf neg : Bool) (m : Nat) (e : Int) : Fp :=
  if nan then .nan else if inf then .inf neg else .fin neg m e

/-- The writes in flight of the current agent in the order in which they are made (R94). -/
def State.pendInTurn (s : State) : List Pend := sortBy pendBefore s.regs.pend

/-- A lane of a y register with pending additions and clears (R67, R311). -/
def State.yLane (s : State) (n l : Nat) : DWord :=
  let x := s.me
  let at_ := fun (i : Nat) => s.pick (codeYLane n l + 0x100000 * i)
  earlyFold at_ (x.yAt n l) (x.yAt n l) (s.pendInTurn.filterMap (fun p =>
    match p.w with
    | .yadd k lane nan inf neg m e _ =>
      if k = n ∧ lane = l then some (false, p.seq, fun v => (yAdd v (x.yPoint n) (yVal nan inf neg m e)).y) else none
    | .yclr k lanes => if k = n ∧ lanes.contains l then some (false, p.seq, fun _ => 0) else none
    | _ => none))

/-- What a pending tile update makes of an element (R33, R321). -/
def updateEl (w : PWrite) (key : Nat) (old : Word) : Option Word :=
  match w with
  | .tileAcc _ ovw flush els =>
    (els.find? (fun e => e.1 == key)).map (fun e =>
      BitVec.ofNat 32 (accUpdate flush ovw old.toNat (e.2.map BitVec.toNat)))
  | .tileSet _ els _ => (els.find? (fun e => e.1 == key)).map (·.2)
  | .view els _ => (els.find? (fun e => e.1 == key)).map (·.2)
  | _ => none

/-- Addresses of the scratchpad bytes that a write in flight writes. -/
def spCells : PWrite → List Nat
  | .sp _ cells _ => cells.map (·.1)
  | .spn cells _ => cells.map (·.1)
  | _ => []

/-- Marks of the scratchpad words that a write in flight writes. -/
def spCellMarks : PWrite → List (Nat × Bool)
  | .sp _ _ marks => marks
  | .spn _ marks => marks
  | _ => []

/-- What a write in flight makes of a scratchpad byte. -/
def spOver (w : PWrite) (a : Nat) (old : Byte) : Byte :=
  match w with
  | .sp _ cells _ => (match cells.find? (fun e => e.1 == a) with | some e => e.2 | none => old)
  | .spn cells _ => (match cells.find? (fun e => e.1 == a) with
    | some (_, b, m) => (old &&& ~~~ m) ||| (b &&& m)
    | none => old)
  | _ => old

/-- A write in flight that a stream reads as if it had been made: an entry of its forwarding table (R133), and for
the scalar stream a store of the bundle in progress, which precedes its later words (R124, R125). -/
def State.forwards (s : State) (strm : Nat) (p : Pend) : Bool :=
  p.strm == strm && (p.delayed || (strm == 0 && (match s.cur.base with | some n => decide (n ≤ p.seq) | none => false)))

/-- Elements that a tile update of one cycle writes. -/
def updateKeys : PWrite → List Nat
  | .tileAcc _ _ _ els => els.map (·.1)
  | .tileSet _ els _ => els.map (·.1)
  | _ => []

/-- The value of an element before an update that views do not see yet. -/
def seenOld (key : Nat) : PWrite → Option Word
  | .tileSeen _ old => (old.find? (fun e => e.1 == key)).map (·.2)
  | _ => none

/-- A write in flight to an accumulator element: a view write in the cycle of an update of the element is discarded
(R321). -/
def elWrite (all : List Pend) (key : Nat) (p : Pend) : Bool :=
  (updateEl p.w key 0).isSome
    && (updateKeys p.w != [] || !all.any (fun q => q.due == p.due && (updateKeys q.w).contains key))

/-- An accumulator element as views, MSTT and its like read it: updates are seen 5 cycles after they
are made, and an earlier read finds one of the values that the element holds in turn (R67, R321); the scalar stream finds
the stores of its bundle (R124). -/
def State.view (s : State) (strm key : Nat) : Word :=
  let all := s.pendInTurn
  let unseen := all.filterMap (fun p => (seenOld key p.w).map (fun v => (p.seq, v)))
  let held := unseen.map (·.2) ++ [s.me.tileAt key]
  let made := (unseen.zip held.tail).map (fun e => (false, e.1.1, fun (_ : Word) => e.2))
  let coming := (all.filter (elWrite all key)).map (fun p =>
    (s.forwards strm p, p.seq, fun (v : Word) => (updateEl p.w key v).getD v))
  earlyFold (s.finds strm · (codeTile key)) (held.headD 0) (held.headD 0) (made ++ coming)

/-- Poison mark of an accumulator element as a stream's view reads it: with the value a forwarded store gives. -/
def State.viewMark (s : State) (strm key : Nat) : Bool :=
  s.regs.pend.foldl (fun acc p =>
    match p.w with
    | .view _ marks => if s.forwards strm p then ((marks.find? (fun e => e.1 == key)).map (·.2)).getD acc else acc
    | _ => acc) (s.me.regs.mark (codeTile key))

/-- The writes in flight that touch a word of the scratchpad, in order, each with whether a stream reads it as made and
whether an early read finds it (R67, R122). The word is what is found or not as a whole (R138). -/
def State.spWrites (s : State) (strm word : Nat) : List (PWrite × Bool × Bool) :=
  (s.pendInTurn.filter (fun p => (spCells p.w).any (fun a => a / 4 == word))).map (fun p =>
    (p.w, s.forwards strm p, s.finds strm p.seq (codeSp (8 * word))))

/-- What an early read finds of a place that writes change in turn: the value after the last write found, with the writes
that it reads as made. -/
def spFold {α : Type} (f : PWrite → α → α) (old : α) (l : List (PWrite × Bool × Bool)) : α :=
  (l.foldl (fun (acc : α × α) e =>
    let new := f e.1 acc.2
    (if e.2.1 then f e.1 acc.1 else if e.2.2 then new else acc.1, new)) (old, old)).1

/-- A byte of the scratchpad as a stream reads it: forwarded writes are found, other writes in flight may be (R67,
R133). -/
def State.spByte (s : State) (strm a : Nat) : Byte :=
  spFold (fun w b => spOver w a b) ((s.core s.cur.core).sp.read a) (s.spWrites strm (a / 4))

/-- `n` bytes of the scratchpad as a stream reads them. -/
def State.spBytes (s : State) (strm a n : Nat) : List Byte :=
  let ws := (wordsOf a n).map (s.spWrites strm)
  (upFrom a n).map (fun a' =>
    spFold (fun w b => spOver w a' b) ((s.core s.cur.core).sp.read a') (ws.getD (a' / 4 - a / 4) []))

/-- Poison mark of a scratchpad word. -/
def State.spMark (s : State) (a : Nat) : Bool := (s.core s.cur.core).spMarks.get false (a / 4)

/-- Poison mark of a scratchpad word as a stream reads it: that of the write found. -/
def State.spMarkOf (s : State) (strm a : Nat) : Bool :=
  spFold (fun w m => (((spCellMarks w).find? (fun e => e.1 == a / 4)).map (·.2)).getD m) (s.spMark a)
    (s.spWrites strm (a / 4))

/-! ### What an issue waits for -/

/-- Location codes of what a pending write writes (R69): registers, tiles, latches. An update of a tile writes the tile
whole, so that a read of any of its elements waits (R321; DESIGN CHOICE, log 13). -/
def pwriteCodes : PWrite → List Nat
  | .g n _ _ => [codeG n]
  | .x n _ _ => [codeX n]
  | .p n _ => [codeP n]
  | .preds _ => (upFrom 1 7).map codeP
  | .b n _ => [codeB n]
  | .v n _ _ _ _ => [codeV n]
  | .m n _ _ => [codeM n]
  | .yadd n _ _ _ _ _ _ _ => [codeY n]
  | .yclr n _ => [codeY n]
  | .tileAcc t _ _ _ => [codeTile (4096 * t)]
  | .tileSet t _ _ => [codeTile (4096 * t)]
  | .tileSeen t _ => [codeTile (4096 * t)]
  | .latch k _ _ _ => [codeLatch k]
  | .view els _ => (distinct (els.map (fun e => e.1 / 4096))).map (fun t => codeTile (4096 * t))
  | _ => []

/-- The cycle from which a pending write is seen by an interlocked read of what it writes: views and tile stores
see a tile update 4 cycles after it is made (R321). -/
def Pend.seen (p : Pend) : Nat :=
  match p.w with
  | .tileAcc .. => p.due + 4
  | .tileSet .. => p.due + 4
  | _ => p.due

/-- The pending writes of what is read, by location code (R69). -/
def writesTo (l : List Pend) (codes : List Nat) : List Pend := l.filter (fun p => (pwriteCodes p.w).any codes.contains)

/-- A pending write writes scratchpad bytes among runs of bytes. -/
def hitsBytes (bytes : List (Nat × Nat)) (w : PWrite) : Bool :=
  (spCells w).any (fun e => bytes.any (fun (a, n) => decide (a ≤ e) && decide (e < a + n)))

/-- The pending scratchpad writes that a read of a stream waits for (R69): those of the bytes read, but for the
stream's own entries of its forwarding table (R133), and the writes before them that overlap them. -/
def writesOf (l : List Pend) (strm : Nat) (bytes : List (Nat × Nat)) : List Pend :=
  if bytes.isEmpty then []
  else (sortBy pendBefore l).foldr (fun p acc =>
    if (hitsBytes bytes p.w && !(p.delayed && p.strm == strm))
        || acc.any (fun q => (spCells q.w).any (spCells p.w).contains) then p :: acc else acc) []

/-! ### Bank checks (R94 to R97) -/

/-- One program access of a word: cycles after issue, bank row, reservation of R97. -/
structure Access where
  off : Nat
  row : Nat
  hold : Bool
deriving DecidableEq, Repr

/-- Accesses of a word that break R94 against position 7 and the accesses booked. -/
def clashes (x : Ctx) (now : Nat) (a : Access) : Bool :=
  wheel (now + a.off) == 7
    || x.booked.any (fun b => b.cyc == now + a.off && bankOfRow b.row == bankOfRow a.row)

/-- Two accesses of one word to distinct rows of one bank in one cycle (R94). -/
def selfClash (l : List Access) (a : Access) : Bool :=
  l.any (fun b => b.off == a.off && bankOfRow b.row == bankOfRow a.row && b.row != a.row)

/-- The bank rows refused, ascending (R94, R95, R97). -/
def refusedRows (x : Ctx) (now : Nat) (l : List Access) : List Nat :=
  ascending ((l.filter (fun a => clashes x now a || selfClash l a)).map (·.row))

/-- The accesses of a word booked for its cycles. -/
def book (x : Ctx) (now : Nat) (l : List Access) : Ctx :=
  { x with booked :=
      x.booked.filter (fun b => decide (now ≤ b.cyc + 1)) ++ l.map (fun a => ⟨now + a.off, a.row, a.hold, false, false⟩) }

end Sys2Proof.Machine
end

