-- ==== Sys2Proof/Machine/Translate.lean ====
section
/-!
DEFINITION. Global memory: the physical map and the pool routing (R110, R442), poison of physical
words, page tables and their walk (R111 to R114), translation buffers (R112), the free-frame queue
(R116) and the bounce buffer (R449).
-/
namespace Sys2Proof.Machine

/-- What a physical address names (R110). -/
inductive Place
  | sram (die : Nat)
  | host
  | pool (port : Nat)
  | corePriv (core off : Nat)
  | coreShared (core off : Nat)
  | dieShared (die off : Nat)
  /-- Another package. -/
  | far (pkg : Nat)
  | none
deriving DecidableEq, Repr

/-- Positions of the set bits of a word below bit `n`, ascending. -/
def setBits (n w : Nat) : List Nat := (List.range n).filter (fun i => bitAt w i)

/-- Port and device address of a pool address (R442): none when the entry's `PORTS` is zero. -/
def State.poolRouteOf (s : State) (a : Nat) : Option (Nat × Nat × Nat) :=
  let w := (s.poolRoute.get 0 (a / 2 ^ 43 % 256)).toNat
  let o := a % 2 ^ 43
  let ports := setBits 16 w
  if ports.isEmpty then Option.none
  else
    let k := o / 2 ^ (8 + bits w 31 28) % ports.length
    some (ports.getD k 0, bits w 27 16, bits w 63 32 * 2 ^ 32 + o)

/-- R110. -/
def State.place (s : State) (pa : Nat) : Place :=
  if bitAt pa 51 then
    match s.poolRouteOf (pa % 2 ^ 51) with
    | some (port, _, _) => .pool port
    | none => .none
  else
    let p := bits pa 50 41
    let o := pa % 2 ^ 41
    if p != s.pkgNum then .far p
    else if 0x10000000000 ≤ o then .host
    else if o < 0x100000000 then
      if o % 0x20000000 < 0x14000000 then .sram (o / 0x20000000) else .none
    else if o < 0x108000000 then
      let d := (o - 0x100000000) / 0x1000000
      let q := (o - 0x100000000) % 0x1000000
      if q < 0x200000 then
        let c := 16 * d + q / 0x20000
        if q % 0x20000 < 0x10000 then .corePriv c (q % 0x10000) else .coreShared c (q % 0x10000)
      else if q < 0x210000 then .dieShared d (q % 0x10000)
      else .none
    else .none

/-- Whether the address is backed by memory. -/
def Place.isMem : Place → Bool
  | .sram _ => true
  | .host => true
  | .pool _ => true
  | _ => false

/-- Key of a physical byte in `State.phys`: a pool byte stands at its device's address (R442). -/
def State.physKey (s : State) (pa : Nat) : Nat :=
  if bitAt pa 51 then
    match s.poolRouteOf (pa % 2 ^ 51) with
    | some (_, pid, da) => 2 ^ 52 + pid * 2 ^ 72 + da
    | none => pa
  else pa

/-- The port of a pool address is down: its requests time out (R441). -/
def State.portDown (s : State) (pa : Nat) : Bool :=
  match s.place pa with
  | .pool port => s.cxlDown.contains port
  | _ => false

/-- The package as it would be with every CXL port up: what is found only there lies behind a port that is down (R441). -/
def State.portsUp (s : State) : State := { s with cxlDown := [] }

/-- The entry of the pool routing table for a pool address, 0 for another (R442). -/
def State.routeWord (s : State) (pa : Nat) : Nat :=
  if bitAt pa 51 then (s.poolRoute.get 0 (pa % 2 ^ 51 / 2 ^ 43 % 256)).toNat else 0

/-- An access at an address made under the entry of the pool routing table under which it left, 0 for one that left
under none (R442). -/
def State.underEntry {α : Type} (s : State) (pa route : Nat) (f : State → α × State) : α × State :=
  if route = 0 || !bitAt pa 51 then f s
  else
    let now := s.poolRoute
    let r := f { s with poolRoute := s.poolRoute.put (pa % 2 ^ 51 / 2 ^ 43 % 256) (BitVec.ofNat 64 route) }
    (r.1, { r.2 with poolRoute := now })

/-! ### Addresses of other dies and packages (R110, R343, R347) -/

/-- The die of a CXL port, of the host port at number 16 (R343, log 8). -/
def portDie (n : Nat) : Nat := Config.portDie n % 8

/-- The die of another package that holds an address: of the host port for host memory. -/
def farDie (pa : Nat) : Nat :=
  let o := pa % 2 ^ 41
  if o < 0x100000000 then o / 0x20000000
  else if o < 0x108000000 then (o - 0x100000000) / 0x1000000
  else if 0x10000000000 ≤ o then portDie 16 else bits pa 31 29

/-- What becomes of a packet for another package at a station (R347, R348): `none` when the table marks the package
unreachable, else the link it leaves by. Only the package at position 0 of its rack ring has hall links (R339). -/
def State.routeOut (s : State) (st pkg : Nat) (ver : Bool) : Option Nat :=
  let code := ((s.die st).rtab.get 0xFF (b2n ver * 1024 + pkg)).toNat
  if code = 1 || code = 2 || ((code = 3 || code = 4) && s.pkgNum % 64 = 0) then some (code + 1) else none

/-- Package and die of an address of another package that a route reaches (R347). -/
def State.farOpen (s : State) (pa : Nat) : Option (Nat × Nat) :=
  match s.place pa with
  | .far p =>
    let d := farDie pa
    let st := d / 2 * 2
    if (s.routeOut st p (bitAt (s.die st).rtsel.toNat 0)).isSome then some (p, d) else none
  | _ => none

/-- Bits under a poison mark that nothing gave a value (R396, log 3). -/
def State.poisonBits (s : State) (n : Nat) : Nat × State :=
  ((Config.poisonBits s.freeIx).toNat % 2 ^ (8 * n), { s with freeIx := s.freeIx + 1 })

/-- Bytes of physical memory. -/
def State.pread (s : State) (pa n : Nat) : List Byte := (upFrom pa n).map (fun a => s.phys.read (s.physKey a))
/-- A little-endian number of physical memory. -/
def State.preadNum (s : State) (pa n : Nat) : Nat := ofLe (s.pread pa n)
/-- Whether any word of the bytes is poisoned. -/
def State.pmark (s : State) (pa n : Nat) : Bool :=
  (wordsOf pa n).any (fun w => s.physMarks.get false (s.physKey (4 * w) / 4))

/-- A write to a block that holds a watched word wakes the contexts that watch it (R147). -/
def State.wakeWatchers (s : State) (pa n : Nat) : State :=
  match s.place pa with
  | .sram d =>
    ((s.die d).wakeTab.filter (fun e =>
      decide (pa / 64 ≤ e.2.2 / 64) && decide (e.2.2 / 64 ≤ (pa + n - 1) / 64) && n != 0)).foldl
      (fun s e => s.at_ s.cue .waitvWake { core := e.1, bank := e.2.1 }) s
  | _ => s

/-- Bytes written to physical memory with one mark for all of them; a clean write clears the marks of
its words. A poisoned write to host memory writes all ones (R396). -/
def State.pwrite (s : State) (pa : Nat) (bs : List Byte) (mark : Bool) : State :=
  let host := s.place pa == .host
  let bs' := if mark && host then bs.map (fun _ => 0xFF) else bs
  let cells := (upFrom pa bs.length).map s.physKey |>.zip bs'
  let ws := (wordsOf pa bs.length).map (fun w => s.physKey (4 * w) / 4)
  ({ s with
    phys := s.phys.writeCells cells
    physMarks := ws.foldl (fun t w => if mark && !host then t.put w true else t.del w) s.physMarks } : State).wakeWatchers
      pa bs.length

/-- A run of zero bytes written: the entries in it go. -/
def State.pzero (s : State) (pa n : Nat) : State :=
  let key := s.physKey pa
  ({ s with
    phys := s.phys.filter (fun e => !(decide (key ≤ e.1) && decide (e.1 < key + n)))
    physMarks := s.physMarks.filter (fun e => !(decide (key / 4 ≤ e.1) && decide (e.1 < (key + n) / 4))) } : State).wakeWatchers
      pa n

/-! ### Page tables -/

/-- Outcome of a walk (R111). -/
inductive Walk
  | page (va size pa pte wld : Nat) (w d : Bool)
  | notPresent
  | zero (pte wld : Nat)
  | bad (pte level : Nat)
deriving DecidableEq, Repr

/-- A little-endian number of memory as a walker or a reader of descriptors finds it; the bytes of another package's
memory are free values (R107, R111, log 7). -/
def State.peek (s : State) (pa n : Nat) : Nat :=
  match s.place pa with
  | .far _ => ofLe ((upFrom pa n).map (Config.farByte s.freeIx))
  | _ => s.preadNum pa n

/-- Memory that answers here: populated, and not behind a port that is down (R441). -/
def State.answers (s : State) (pa : Nat) : Bool := (s.place pa).isMem && !s.portDown pa

/-- Memory that an agent of the package can read: its own and the pool's, and another package's that a route reaches. What
a read through a port that is down was for fails after `FABTMO` (R346, R441, log 69). DESIGN CHOICE (log 69): a walk or a
read of a descriptor of a package that no route reaches finds nothing at once. -/
def State.reaches (s : State) (pa : Nat) : Bool := s.answers pa || (s.farOpen pa).isSome

/-- A table entry that cannot be read: unpopulated, out of reach or poisoned (R111). -/
def State.pteBad (s : State) (a : Nat) : Bool := !s.reaches a || s.pmark a 8

/-- The walk from a table of a level down (R111). -/
def State.walkFrom (s : State) (va table : Nat) : Nat → Walk
  | 0 =>
    let a := table + 8 * bits va 24 16
    let e := s.peek a 8
    if s.pteBad a then .bad a 0
    else if !bitAt e 0 then
      if !bitAt e 6 then .notPresent
      else if bitAt e 5 && decide (bits e 11 9 ≤ 4) && bits e 63 52 == 0 && bits e 8 7 == 0
        then .zero a (bits e 11 9) else .bad a 0
    else if bits e 63 52 != 0 || bits e 8 7 != 0 || !bitAt e 5 || bits e 15 12 != 0
        || decide (4 < bits e 11 9) then .bad a 0
    else .page (va / 65536 * 65536) 65536 (bits e 51 12 * 4096) a (bits e 11 9) (bitAt e 1) (bitAt e 3)
  | l + 1 =>
    let a := table + 8 * (va / 2 ^ (16 + 9 * (l + 1)) % 512)
    let e := s.peek a 8
    if s.pteBad a then .bad a (l + 1)
    else if !bitAt e 0 then (if bitAt e 6 then .bad a (l + 1) else .notPresent)
    else if bitAt e 5 then
      if l != 0 then .bad a (l + 1)
      else if bits e 63 52 != 0 || bits e 8 7 != 0 || bits e 24 12 != 0 || decide (4 < bits e 11 9)
        then .bad a 1
      else .page (va / 2 ^ 25 * 2 ^ 25) (2 ^ 25) (bits e 51 12 * 4096) a (bits e 11 9) (bitAt e 1) (bitAt e 3)
    else if bits e 63 52 != 0 || bits e 11 6 != 0 || bits e 4 1 != 0 then .bad a (l + 1)
    else s.walkFrom va (bits e 51 12 * 4096) l

/-- The walk from a root (R109). -/
def State.walk (s : State) (root va : Nat) : Walk := s.walkFrom va root 3

/-- `A`, and `D` for a write, set in an entry (R112); one in another package changes there. -/
def State.setAD (s : State) (pte : Nat) (wr : Bool) : State :=
  let e := s.preadNum pte 1
  let e' := BitVec.ofNat 8 e ||| (if wr then 0x0C else 0x04)
  if s.answers pte then s.pwrite pte [e'] false else s

/-- A table entry at an unpopulated address, met by a walk of an agent, is recorded (R110). -/
def State.walkRec (s : State) (d : Nat) (r : Requester) (pte : Nat) : State :=
  if s.place pte == .none then s.agentRec d 0x53 r pte (reqNum r) else s

/-- The first word of a range at an unpopulated address, met by an agent, is recorded (R110): one record for the access
(log 7). -/
def State.unpopRec (s : State) (d : Nat) (r : Requester) (pa n : Nat) : State :=
  match (wordsOf pa n).find? (fun w => s.place (4 * w) == .none) with
  | some w => s.agentRec d 0x53 r (4 * w) (reqNum r)
  | none => s

/-- Whether an owner may access a page (R117): 0 to 3 a world, 4 open, 5 the stagehand. -/
def worldOk (own wld : Nat) : Bool := wld == 4 || wld == own || own == 5

/-! ### Translation buffers (R112) -/

/-- Which buffer an access goes through. -/
inductive TlbSel
  | scalar (core : Nat)
  | stream (core : Nat)
  | pool (die e : Nat)
  | none
deriving DecidableEq, Repr

def State.tlb (s : State) : TlbSel → List TlbEntry
  | .scalar c => (s.core c).tlb
  | .stream c => (s.core c).stlb
  | .pool d e => (s.die d).ptlb.get [] e
  | .none => []

def State.setTlb (s : State) (sel : TlbSel) (l : List TlbEntry) : State :=
  match sel with
  | .scalar c => s.modCore c (fun k => { k with tlb := l.take Config.tlbEntries })
  | .stream c => s.modCore c (fun k => { k with stlb := l.take Config.streamTlbEntries })
  | .pool d e => s.modDie d (fun k => { k with ptlb := k.ptlb.put e (l.take Config.streamTlbEntries) })
  | .none => s

def tlbHit (root va : Nat) (e : TlbEntry) : Bool :=
  e.root == root && decide (e.va ≤ va) && decide (va < e.va + e.size)

/-! ### Free frames (R116) -/

/-- Frames available in a die's free-frame queue. -/
def Die.frames (k : Die) : Nat :=
  let n := k.ffqsize.toNat
  if n = 0 then 0 else (k.ffqtail.toNat + n - k.ffqhead.toNat % n) % n

/-- The next frame is taken for a requester. An entry of the queue that cannot be read is poison, of which the bits name
the frame (R110, R396, log 69). -/
def State.takeFrame (s : State) (d : Nat) (r : Requester) : Nat × State :=
  let k := s.die d
  let n := k.ffqsize.toNat
  let a := k.ffqbase.toNat + 8 * (k.ffqhead.toNat % n)
  let s := s.setDie d { k with ffqhead := BitVec.ofNat 64 ((k.ffqhead.toNat + 1) % n) }
  if s.answers a then (s.preadNum a 8, s) else (s.unpopRec d r a 8).poisonBits 8

/-- A new frame is filled with zeros for a requester: at an unpopulated address a write that is discarded (R110). -/
def State.zeroFrame (s : State) (d : Nat) (r : Requester) (pa : Nat) : State :=
  if s.answers pa then s.pzero pa 65536 else s.unpopRec d r pa 65536

/-- Outcome of translating an access (R114). -/
inductive Xlate
  | ok (pa : Nat)
  | notPresent
  | prot
  | world (wld : Nat)
  | bad (pte level : Nat)
  | starved
deriving DecidableEq, Repr

/-- One access translated (R112, R114, R117): `wr` for writes and returning atomics, `die` whose
free-frame queue serves a demand-zero page, `r` the requester. A demand-zero page is installed; `A` and `D` are set.
DESIGN CHOICE (log 64): R114 does not order the protection fault (`W` = 0 for a write) and the world fault (`WLD` against
R117) of one page; the model raises them in the order of this definition. -/
def State.translate (s : State) (r : Requester) (sel : TlbSel) (die root own va : Nat) (wr : Bool) : Xlate × State :=
  match (s.tlb sel).find? (tlbHit root va) with
  | some e =>
    if wr && !e.writable then (.prot, s)
    else if !worldOk own e.wld then (.world e.wld, s)
    else
      let s :=
        if wr && !e.dirty then
          (s.setAD e.pte true).setTlb sel ({ e with dirty := true } :: (s.tlb sel).filter (· != e))
        else s
      (.ok (e.pa + (va - e.va)), s)
  | none =>
    match s.walk root va with
    | .notPresent => (.notPresent, s)
    | .bad a l => (.bad a l, s)
    | .page pva size pa pte wld w d =>
      if wr && !w then (.prot, s)
      else if !worldOk own wld then (.world wld, s)
      else
        let s := s.setAD pte wr
        let s := s.setTlb sel (⟨root, pva, size, pa, wld, w, pte, d || wr⟩ :: s.tlb sel)
        (.ok (pa + (va - pva)), s)
    | .zero pte wld =>
      if !worldOk own wld then (.world wld, s)
      else if (s.die die).frames = 0 then (.starved, s)
      else
        let old := s.peek pte 8
        let (f, s) := s.takeFrame die r
        let s := s.zeroFrame die r (bits f 51 12 * 4096)
        let e := bits f 51 12 * 4096 + bits old 11 9 * 512 + 32 + bits old 4 4 * 16 + b2n wr * 8 + 4 + 2 + 1
        let s := if s.answers pte then s.pwrite pte (toLe 8 e) false else s
        let pva := va / 65536 * 65536
        let pa := bits f 51 12 * 4096
        let s := s.setTlb sel (⟨root, pva, 65536, pa, wld, true, pte, wr⟩ :: s.tlb sel)
        (.ok (pa + (va - pva)), s)

/-- Physical address of an instruction or firmware address, without any effect (log 46): an address
that no valid page maps has none. What the access does besides is `State.noteRead`. -/
def State.lookAddr (s : State) (phys : Bool) (root va : Nat) : Option Nat :=
  if phys then some va
  else match s.walk root va with
    | .page pva _ pa _ _ _ _ => some (pa + (va - pva))
    | _ => none

/-- The walker sets `A` for an access to an address of a valid page (R112). -/
def State.touchPage (s : State) (root va : Nat) : State :=
  match s.walk root va with
  | .page _ _ _ pte _ _ _ => if bitAt (s.preadNum pte 1) 2 then s else s.setAD pte false
  | _ => s

/-- What a read by `State.lookAddr` does besides: the walker sets `A` (R112), and an unpopulated address met by the walk
or by the read is recorded (R110). -/
def State.noteRead (s : State) (d : Nat) (r : Requester) (phys : Bool) (root va n : Nat) : State :=
  if phys then s.unpopRec d r va n
  else match s.walk root va with
    | .page pva _ pa _ _ _ _ => (s.touchPage root va).unpopRec d r (pa + (va - pva)) n
    | .bad pte _ => s.walkRec d r pte
    | _ => s

/-! ### Bounce buffer (R115, R449) -/

/-- Size of the ring. -/
def ringSize : Nat := 2 * 1024 * 1024

/-- Bytes a record of `n` data bytes takes. -/
def recLen (n : Nat) : Nat := 32 + (n + 31) / 32 * 32

/-- `BOUNCEUSED`. -/
def Die.bounceUsed (k : Die) : Nat :=
  (k.bouncehead.toNat + ringSize - k.bouncetail.toNat % ringSize) % ringSize

/-- A record at an offset of the ring: header, then data padded with zeros; its poisoned words keep their
marks (R396). At an unpopulated address it is discarded and recorded (R110). -/
def State.bouncePut (s : State) (r : Requester) (d off va root len : Nat) (pad : Bool) (bs : List (Byte × Bool)) : State :=
  let base := (s.die d).bouncebase.toNat + off
  if !s.answers base then s.unpopRec d r base (recLen bs.length)
  else
  let hdr := toLe 8 va ++ toLe 8 root ++ toLe 2 len ++ toLe 2 (b2n pad) ++ toLe 12 0
  let s := s.pwrite base (hdr ++ bs.map (·.1) ++ List.replicate ((32 - bs.length % 32) % 32) 0) false
  let ws := chunksOf 4 bs.length bs
  ((List.range ws.length).zip ws).foldl (fun s (i, w) =>
    if w.any (·.2) then s.pwrite (base + 32 + 4 * i) (w.map (·.1)) true else s) s

/-- One record of at most 256 bytes written, with the pad record it needs; none when the buffer is
full (R449). -/
def State.bounceRec (s : State) (r : Requester) (d va root : Nat) (bs : List (Byte × Bool)) : Option State :=
  let k := s.die d
  let head := k.bouncehead.toNat
  let n := recLen bs.length
  let padLen := if ringSize < head + n then ringSize - head else 0
  if ringSize ≤ k.bounceUsed + padLen + n then none
  else
    let s := if padLen = 0 then s else s.bouncePut r d head 0 0 0 true []
    let off := if padLen = 0 then head else 0
    let s := s.bouncePut r d off va root bs.length false bs
    some (s.modDie d (fun k => { k with bouncehead := BitVec.ofNat 64 ((off + n) % ringSize) }))

/-- Data of one page as records in ascending address order, all or none (R115, R449). -/
def State.bounceRecs (s : State) (r : Requester) (d root : Nat) : List (Nat × List (Byte × Bool)) → Option State
  | [] => some s
  | (va, bs) :: rest =>
    match s.bounceRec r d va root bs with
    | some s => s.bounceRecs r d root rest
    | none => none

/-- The pieces of a write for records: at most 256 bytes each, none across a page. -/
def bouncePieces (va : Nat) : Nat → List (Byte × Bool) → List (Nat × List (Byte × Bool))
  | 0, _ => []
  | fuel + 1, bs =>
    if bs.isEmpty then []
    else
      let n := min 256 (65536 - va % 65536)
      (va, bs.take n) :: bouncePieces (va + n) fuel (bs.drop n)

/-- A write whose page is not present goes to the bounce buffer of a die; none when it is full. -/
def State.bounce (s : State) (r : Requester) (d va root : Nat) (bs : List (Byte × Bool)) : Option State :=
  s.bounceRecs r d root (bouncePieces va (bs.length + 1) bs)

end Sys2Proof.Machine
end

