-- ==== Sys2Proof/Machine/Fabric.lean ====
section
/-!
DEFINITION. The fabric: routes (R339 to R341, R347), posted packets and their order (R343 to R346),
windows (R350 to R353), lanterns (R354 to R361), refusals and their log (R363, R364).
-/
namespace Sys2Proof.Machine

/-! ### Packets -/

/-- The event of the table that a packet's arrival is (R343). -/
def packetEvent (p : Packet) : Instr :=
  match p.type with
  | 1 => .fullStorePacket
  | 2 => .lanternPacket
  | 3 => .globalWritePacket
  | 4 => .readRequestPacket
  | 5 => .readReplyPacket
  | 6 => .atomicRequestPacket
  | 7 => .atomicReplyPacket
  | 8 => .acknowledgementPacket
  | 9 => .barrierArrivalPacket
  | 10 => .barrierReleasePacket
  | 11 => .wakePacket
  | _ => .unknownPacketDiscard

/-- Types that carry a `SEQ` and are acknowledged (R343). -/
def isPosted (p : Packet) : Bool := (1 ≤ p.type && p.type ≤ 3) || p.type == 11

/-- A packet with every field zero but those named. -/
def Packet.mk0 (type cls : Nat) : Packet :=
  ⟨type, cls, false, false, 0, 0, 0, 0, 0, 0, 0, 0, 0, 0, 0, 0, [], 0, 0, 0, [], 0⟩

/-- A packet back to where another came from. -/
def answer (p : Packet) (type : Nat) : Packet :=
  { Packet.mk0 type p.cls with
    srcPkg := p.dstPkg, srcDie := p.dstDie, srcCore := p.dstCore
    dstPkg := p.srcPkg, dstDie := p.srcDie, dstCore := p.srcCore, tag := p.tag, age := p.age }

/-- The acknowledgement of a posted packet: one refusal bit per element (R342, R343, R362; log 48). -/
def ackOf (p : Packet) (causes : List Nat) : Packet :=
  { answer p 8 with
    tag := 0, age := 0, ack := p.seq, causes := causes
    aux := packElems 1 (causes.map (fun c => b2n (c != 0))) }

/-- Elements of a posted packet, as its refusal mask counts them. -/
def elementCount (p : Packet) : Nat := if p.type = 2 then p.aux else if p.type = 1 then 32 else 1

/-- The elements that a packet writes. -/
def wholeRefusal (p : Packet) : List Nat :=
  (List.range (elementCount p)).map (fun i => if p.type != 1 || bitAt p.aux i then 4 else 0)

/-- 64 bytes that nothing gave a value (R396). -/
def State.poisonLine (s : State) : List Byte × State :=
  (List.range 8).foldl (fun (acc : List Byte × State) _ =>
    let (v, s) := acc.2.poisonBits 8
    (acc.1 ++ toLe 8 v, s)) ([], s)

/-- The dies a packet leaves through on the package ring, and the ring (R341). -/
def ringHops (sd dd : Nat) : List (Nat × Nat) :=
  let n := (dd + 8 - sd) % 8
  if n ≤ 4 then (List.range n).map (fun i => ((sd + i) % 8, 0))
  else (List.range (8 - n)).map (fun i => ((sd + 8 - i) % 8, 1))

/-- A ring link on the way is down (R340). -/
def State.ringDown (s : State) (sd dd : Nat) : Bool :=
  (ringHops sd dd).any (fun h => bitAt (s.die h.1).linkdn.toNat h.2)

/-- The timeout of a packet, or what a packet that met the code 0xFF is answered with (R346, R348). -/
def timeoutEvent (p : Packet) (id : Nat) : Instr × EvArg :=
  if p.type == 11 then (.wakeAckTimeout, { die := p.srcDie, n := id })
  else if isPosted p then (.postedPacketTimeout, { die := p.srcDie, n := id })
  else (.requestTimeout, { die := p.srcDie, n := p.tag, m := p.age })

/-- Number of the record of a posted packet at its source die; 0 for a request. -/
def State.postedId (s : State) (p : Packet) : Nat :=
  match (s.die p.srcDie).posted.find? (fun e =>
    e.pkt.dstPkg == p.dstPkg && e.pkt.dstDie == p.dstDie && e.pkt.seq == p.seq) with
  | some e => e.id
  | none => 0

/-! ### Rack and hall links (R342, R347, R349) -/

/-- The header of a packet (R342). -/
def headerBytes (p : Packet) : List Byte :=
  toLe 1 p.type ++ toLe 1 (p.cls % 16 + b2n p.rlx * 16 + b2n p.ver * 32) ++ toLe 2 p.payload.length
    ++ toLe 4 (p.srcPkg % 1024 + p.srcDie % 8 * 2 ^ 10 + p.srcCore % 16 * 2 ^ 13 + p.owner % 8 * 2 ^ 17)
    ++ toLe 4 (p.dstPkg % 1024 + p.dstDie % 8 * 2 ^ 10 + p.dstCore % 16 * 2 ^ 13)
    ++ toLe 4 p.seq ++ toLe 2 (p.tag % 2 ^ 13 + p.age % 8 * 2 ^ 13) ++ toLe 2 0 ++ toLe 8 p.addr ++ toLe 4 p.aux

/-- The next key of a link (R349). -/
def ratchet (k : List Byte) (n : Nat) : List Byte :=
  (sm3 (k ++ [0x4B, 0x4C, 0x2D, 0x52, 0x41, 0x54, 0x43, 0x48] ++ toLe 8 n)).take 16

/-- The IV of packet `c` of a direction of a link (R349). -/
def linkIv (dir c : Nat) : Nat := ofBe (toLe 8 c ++ toLe 4 (Config.directionCode dir).toNat)

/-- Packet `c` of a link's direction, sealed (R349). -/
def frameOf (link : Nat) (key : List Byte) (c : Nat) (p : Packet) : Frame :=
  let (text, tag) := gcmSeal (ofBe key) (linkIv link c) (headerBytes p ++ p.payload)
  ⟨link, text, tag, c % 2 ^ 32⟩

/-- A packet goes out by a link of a station: the link's counter and key advance (R349). -/
def State.linkSend (s : State) (st link : Nat) (p : Packet) : State :=
  let l := 8 * st + link
  let c := s.linkCount.get 0 l
  let key := s.linkKeys.get [] l
  { s with
    outbox := p :: s.outbox
    linkOut := frameOf l key c p :: s.linkOut
    linkCount := s.linkCount.put l (c + 1)
    linkKeys := if (c + 1) % 2 ^ 24 = 0 then s.linkKeys.put l (ratchet key (c / 2 ^ 24)) else s.linkKeys }

/-- Packet `c` of a link has come in and verified: with the first of an epoch the receiver takes its key and erases the
one before (R349). -/
def State.linkTake (s : State) (l c : Nat) : State :=
  if c / 2 ^ 24 = s.linkRxEpoch.get 0 l + 1 then
    { s with
      linkRxKeys := s.linkRxKeys.put l (ratchet (s.linkRxKeys.get [] l) (s.linkRxEpoch.get 0 l))
      linkRxEpoch := s.linkRxEpoch.put l (c / 2 ^ 24) }
  else s

/-- `RTOLD` follows the packets in a station (R348). -/
def Die.countOld (k : Die) : Die :=
  { k with rtold := BitVec.ofNat 32 (k.atStation.filter (fun p => p.ver != bitAt k.rtsel.toNat 0)).length }

/-- The package that a packet in a station is for: one that this package returns busy goes back to its source (R344). -/
def State.towards (s : State) (p : Packet) : Nat :=
  if p.dstPkg == s.pkgNum && p.busy % 2 = 0 && p.busy != 0 then p.srcPkg else p.dstPkg

/-- A packet in a station is routed by the table of its version (R347): it leaves by a link, or waits while that is down
(R340); none where it has no route. -/
def State.stationOut (s : State) (st : Nat) (p : Packet) : Option State :=
  (s.routeOut st (s.towards p) p.ver).map (fun link =>
    if bitAt (s.die st).linkdn.toNat link then
      s.modDie st (fun k => { k with atStation := k.atStation ++ [p] }.countOld)
    else s.linkSend st link p)

/-- What answers a packet of another package that has no route as though it had timed out (R346, R348). DESIGN CHOICE
(log 73): a reply of poison, or an acknowledgement that refuses every element for cause 4. -/
def State.noRoute (s : State) (p : Packet) : Option (Packet × State) :=
  if isPosted p then
    let a := ackOf p (wholeRefusal p)
    some ((if p.type == 11 then { a with aux := 0 } else a), s)
  else if p.type == 4 || p.type == 6 then
    let (bs, s) := s.poisonLine
    let n := if p.type = 4 then (p.aux + 7) / 8 * 8 else 8
    some ({ answer p (p.type + 1) with addr := p.addr, marks := 2 ^ 16 - 1, payload := bs.take n }, s)
  else none

/-- A packet in a station goes on. One that has no route is answered at once as though it had timed out: at its source,
where that is here (R348). -/
def State.stationSend (s : State) (st : Nat) (p : Packet) : State :=
  match s.stationOut st p with
  | some s => s
  | none =>
    if p.srcPkg == s.pkgNum then
      if isPosted p || p.type == 4 || p.type == 6 then
        let e := timeoutEvent p (s.postedId p)
        s.at_ s.cue e.1 { e.2 with flag := true }
      else s
    else match s.noRoute p with
      | some (a, u) => (u.stationOut st { a with ver := bitAt (u.die st).rtsel.toNat 0 }).getD s
      | none => s

/-- A packet waits for a ring link of its die (R340). -/
def State.stall (s : State) (d : Nat) (p : Packet) : State :=
  s.modDie d (fun k => { k with stalled := k.stalled ++ [p] })

/-- A packet leaves its die: within the package it arrives after a duration the manual leaves open; for another
package it crosses the ring to its station and enters it under the version named there (R340, R341, R347). -/
def State.sendPacket (s : State) (p : Packet) : State :=
  if p.dstPkg == s.pkgNum then
    if s.ringDown p.srcDie p.dstDie then s.stall p.srcDie p else s.later (packetEvent p) { pkt := some p }
  else
    let st := p.dstDie / 2 * 2
    if s.ringDown p.srcDie st then s.stall p.srcDie p
    else s.stationSend st { p with ver := bitAt (s.die st).rtsel.toNat 0 }

/-- What becomes of a packet that comes in by a link of station `st` (R341, R347): `true` when it is here, for die
`dstDie`; a packet for another package goes on, as does one that the table does not deliver, and one whose ring link is
down waits. -/
def State.inbound (s : State) (p : Packet) : Bool × State :=
  let st := p.dstDie / 2 * 2
  if p.dstPkg != s.pkgNum then (false, s.stationSend st p)
  else if ((s.die st).rtab.get 0xFF (b2n p.ver * 1024 + s.pkgNum)).toNat != 0 then
    (false, s.stationSend st p)
  else if s.ringDown st p.dstDie then (false, s.stall st p)
  else (true, s)

/-- The key of packet `c` that comes in by link `l` (R349). -/
def State.rxKey (s : State) (l c : Nat) : List Byte :=
  let key := s.linkRxKeys.get [] l
  let e := s.linkRxEpoch.get 0 l
  if c / 2 ^ 24 = e + 1 then ratchet key e else key

/-- Packet `c` of link `l` verifies: the sealed text and the tag that its event gives open to it. An event that gives
none brings a packet that the link has verified (R349, log 48). -/
def State.verifies (s : State) (l c : Nat) (p : Packet) (sealed : List Byte) : Bool :=
  let n := sealed.length - 16
  sealed.isEmpty
    || gcmOpen (ofBe (s.rxKey l c)) (linkIv (64 + l) c) (sealed.take n) (sealed.drop n) == some (headerBytes p ++ p.payload)

/-- A packet comes in by link `l` of a station, one that does not verify as a flit whose CRC fails (R349). -/
def State.byLink (s : State) (l : Nat) (f : State → State) : State :=
  if s.verifies l s.ev.value.toNat (s.ev.pkt.getD (Packet.mk0 0 0)) s.ev.bytes then
    f ((s.linkTake l s.ev.value.toNat).modDie (l / 8) (fun k => { k with crcFails := k.crcFails.del (l % 8) }))
  else s.at_ s.cue .flitCrcFailure { die := l / 8, n := l % 8, flag := true }

/-- The event of a packet: `f` at its die. One of another package comes by link `width` as its packet number `value`,
through its station first; `flag` when it has crossed the ring. One of this package that comes by a link was refused
busy, and goes to its source (R344). A module that holds in reset takes none (R448). -/
def State.onPacket (s : State) (f : Packet → State → State) : State :=
  match s.ev.pkt with
  | none => s
  | some p =>
    if s.tripped then s
    else if s.ev.flag || (p.srcPkg == s.pkgNum && p.dstPkg == s.pkgNum) then f p s
    else
      s.byLink s.ev.width (fun s =>
        if p.srcPkg == s.pkgNum then s.at_ s.cue .packetResend { pkt := some p }
        else match s.inbound p with
          | (true, s) => f p s
          | (false, s) => s)

/-- Packets that waited at a die are tried again (R340). -/
def State.retryStalled (s : State) (d : Nat) : State :=
  let k := s.die d
  let s := s.modDie d (fun k => { k with stalled := [], atStation := [], rtold := 0 })
  let s := k.stalled.foldl (fun s p =>
    if p.srcPkg == s.pkgNum then s.sendPacket p
    else if s.ringDown d p.dstDie then s.stall d p
    else s.later (packetEvent p) { pkt := some p, flag := true }) s
  k.atStation.foldl (fun s p => s.stationSend d p) s

/-- A packet has timed out: it waits for no route any more (R340). -/
def State.unstall (s : State) (same : Packet → Bool) : State :=
  { s with dies := s.dies.map (fun (e : Nat × Die) => (e.1,
    if (e.2.stalled ++ e.2.atStation).any same then
      { e.2 with
        stalled := e.2.stalled.filter (fun p => !same p)
        atStation := e.2.atStation.filter (fun p => !same p) }.countOld
    else e.2)) }

/-- Key of another die in `seqOut` and `seqIn`. -/
def pairKey (pkg die : Nat) : Nat := 8 * pkg + die

/-- A posted packet takes its place in the `SEQ` order of its pair and leaves (R345); `FABTMO` runs
from there (R346). -/
def State.postFrom (s : State) (d : Nat) (p : Packet) (users : List (Nat × Nat × Nat))
    (cmd : Option (Engine × Nat)) (acc lantern : Option Nat) : State :=
  let k := s.die d
  let key := pairKey p.dstPkg p.dstDie
  let seq := k.seqOut.get 0 key
  let p := { p with srcPkg := s.pkgNum, srcDie := d, seq := seq, route := s.routeWord p.addr }
  let (i, s) := s.fresh
  let s := s.modDie d (fun k => { k with
    seqOut := k.seqOut.put key ((seq + 1) % 2 ^ 32)
    posted := k.posted ++ [⟨i, p, users, cmd, acc, s.cue, lantern⟩] })
  let e := timeoutEvent p i
  let s := s.at_ (s.cue + (s.die d).fabtmo.toNat) e.1 e.2
  s.sendPacket p

/-- A posted packet of a full store, a write, a wake. -/
def State.post (s : State) (d : Nat) (p : Packet) (users : List (Nat × Nat × Nat)) (cmd : Option (Engine × Nat))
    (acc : Option Nat) : State := s.postFrom d p users cmd acc none

/-- A global write packet of bytes at `pa` (R343). The manual gives the poison of its words no field of the
header; the model's packet carries it beside the header (log 48). -/
def writePacket (cls srcCore own pkg die pa : Nat) (bs : List (Byte × Bool)) : Packet :=
  let lead := pa % 8
  let trail := (8 - (lead + bs.length) % 8) % 8
  let all := List.replicate lead (0, false) ++ bs ++ List.replicate trail (0, false)
  let ws := chunksOf 4 all.length all
  { Packet.mk0 3 cls with
    srcCore := srcCore, owner := own, dstPkg := pkg, dstDie := die
    addr := pa / 8 * 8, aux := lead + trail * 8
    marks := packElems 1 (ws.map (fun w => b2n (w.any (·.2))))
    payload := all.map (·.1) }

/-! ### Windows (R350 to R353) -/

def winWord (x : Ctx) (n w : Nat) : Nat := (x.wintab.get 0 (8 * n + w)).toNat
def winBase (x : Ctx) (n : Nat) : Nat := bits (winWord x n 0) 22 0
def winLimit (x : Ctx) (n : Nat) : Nat := bits (winWord x n 1) 24 0
def winEn (x : Ctx) (n : Nat) : Bool := bitAt (winWord x n 2) 18
def winRlx (x : Ctx) (n : Nat) : Bool := bitAt (winWord x n 2) 17
def winCore (x : Ctx) (n : Nat) : Nat := bits (winWord x n 2) 16 13
def winDie (x : Ctx) (n : Nat) : Nat := bits (winWord x n 2) 12 10
def winPkg (x : Ctx) (n : Nat) : Nat := bits (winWord x n 2) 9 0
def winAllow (x : Ctx) (n : Nat) : Nat := bits (winWord x n 3) 15 0

/-- Whether a window's eight words meet R351. -/
def winValid (w : Nat → Nat) : Bool :=
  w 0 < 2 ^ 23 && w 0 % 128 == 0 && w 1 ≤ 0x1000000 && w 2 < 2 ^ 19 && w 3 < 2 ^ 16
    && w 4 == 0 && w 5 == 0 && w 6 == 0 && w 7 == 0 && (!bitAt (w 2) 18 || decide (4 ≤ w 3))

/-- Window and offset of a window address (R90). -/
def winOf (a : Nat) : Nat := a / 2 ^ 24 % 16
def winOff (a : Nat) : Nat := a % 2 ^ 24

/-- How an element of `k` bytes at a window address resolves (R352): refused for a cause at the
source, or a target address. -/
def winResolve (x : Ctx) (a k : Nat) : Nat × Nat :=
  let n := winOf a
  let o := winOff a
  let t := winBase x n + o
  if winLimit x n < o + k then (1, t)
  else if 0x007FFFFF < t + k - 1 then (5, t)
  else (0, t)

/-- `outstanding(n)` of R353. -/
def State.outstanding (s : State) (c b n : Nat) : Nat :=
  let k := s.die (dieOf c)
  (k.posted.filter (fun p => p.users.contains (c, b, n))).length
    + (k.lanterns.filter (fun e => e.2.state == 1
        && e.2.entries.any (fun t => t.core == c && t.bank == b && t.win == n))).length
    + (k.leaving.filter (fun e => e.2.entries.any (fun t => t.core == c && t.bank == b && t.win == n))).length

/-- `WALLOW`n (R353). -/
def State.wallow (s : State) (c b n : Nat) : Nat :=
  winAllow ((s.ctx c b).getD {}) n - s.outstanding c b n

/-! ### Refusals (R363, R364) -/

/-- A refusal is logged on the storing core's die, or marks the context lost when the log is full. -/
def State.logRefusal (s : State) (e : LfEntry) : State :=
  let d := dieOf e.core
  let k := s.die d
  if k.lfl.length < 64 then s.setDie d { k with lfl := k.lfl ++ [e] }
  else
    (s.setDie d { k with lflovf := k.lflovf + 1 }).modCtx e.core e.bank (fun x => { x with lost := true })

/-- A deferred remote-store fault is due for a context (R144). -/
def State.refusalDue (s : State) (c b : Nat) : Bool :=
  let x := (s.ctx c b).getD {}
  x.lost || !x.rsfKept.isEmpty || (s.die (dieOf c)).lfl.any (fun e => e.core == c && e.bank == b)

/-- The oldest refusal moves into the registers of R364, its log entry freed. -/
def State.takeRefusal (s : State) (c b : Nat) : State :=
  let x := (s.ctx c b).getD {}
  let d := dieOf c
  let k := s.die d
  let mine := fun (e : LfEntry) => e.core == c && e.bank == b
  let put := fun (s : State) (e : LfEntry) =>
    let more := s.refusalDue c b
    s.modCtx c b (fun x => { x with
      rsfInfo := BitVec.ofNat 32 (2 ^ 31 + b2n more * 2 ^ 30 + e.cause * 2 ^ 12 + e.cls * 2 ^ 8)
      rsfDest := BitVec.ofNat 32 (e.tcore * 2 ^ 13 + e.die * 2 ^ 10 + e.pkg)
      rsfAddr := BitVec.ofNat 32 (e.addr % 2 ^ 23)
      rsfMask := BitVec.ofNat 32 e.mask })
  match x.rsfKept with
  | e :: rest => put (s.modCtx c b (fun x => { x with rsfKept := rest })) e
  | [] =>
    match k.lfl.find? mine with
    | some e =>
      let rec1 : List LfEntry → List LfEntry := fun l => l.eraseP mine
      put (s.setDie d { k with lfl := rec1 k.lfl }) e
    | none =>
      if x.lost then
        put (s.modCtx c b (fun x => { x with lost := false })) ⟨c, b, 0, 15, 0, 0, 0, 0, 0⟩
      else s

/-! ### Lanterns (R354 to R361) -/

def Die.lantern (k : Die) (i : Nat) : Lantern := k.lanterns.get {} i
def State.setLantern (s : State) (d i : Nat) (l : Lantern) : State :=
  s.modDie d (fun k => { k with lanterns := k.lanterns.put i l })

/-- The 8 bytes of an entry (R355). -/
def entryBytes (e : LEntry) : List Byte :=
  toLe 8 (e.eop * 2 ^ 57 + e.ecore * 2 ^ 53 + e.waddr * 2 ^ 32 + e.data.toNat)

/-- Lantern `a` stands before lantern `b` in the order of a triple (R140): both go to one die in one class, `b` is
strict, and an element of some core came to `a` before one of that core to `b`. -/
def Lantern.before (a b : Lantern) : Bool :=
  !b.rlx && a.pkg == b.pkg && a.die == b.die && a.cls == b.cls
    && a.entries.any (fun e => b.entries.any (fun f => f.core == e.core && decide (e.seq < f.seq)))

/-- Emission (R358, R361): the lantern is free, and its packet leaves with those of the cycle; the open lanterns that
stand before it are emitted with it, for emission never reorders a triple (R141, log 67). -/
def State.emitAll : Nat → State → Nat → Nat → State
  | 0, s, _, _ => s
  | n + 1, s, d, i =>
    let l := (s.die d).lantern i
    if l.state != 1 then s
    else
      let s := s.setLantern d i {}
      let first := (List.range 64).filter (fun j => ((s.die d).lantern j).state == 1 && ((s.die d).lantern j).before l)
      let s := first.foldl (fun s j => emitAll n s d j) s
      s.modDie d (fun k => { k with leaving := k.leaving ++ [(i, l)] })
def State.emit (s : State) (d i : Nat) : State := s.emitAll 64 d i

/-- The packet of an emitted lantern leaves. -/
def State.leaveOne (s : State) (d : Nat) (e : Nat × Lantern) : State :=
  let l := e.2
  let p : Packet := { Packet.mk0 2 l.cls with
    rlx := l.rlx, owner := l.own, dstPkg := l.pkg, dstDie := l.die
    aux := l.entries.length, payload := l.entries.flatMap entryBytes }
  s.postFrom d p (l.entries.map (fun e => (e.core, e.bank, e.win))) none none (some e.1)

/-- The emitted lantern whose packet leaves first: the lowest-numbered of those before which no other stands (R361). -/
def firstLeaving (l : List (Nat × Lantern)) : Option (Nat × Lantern) :=
  let free := l.filter (fun e => !l.any (fun f => f.2.before e.2))
  (if free.isEmpty then l else free).foldl (fun acc e =>
    match acc with
    | some m => if e.1 < m.1 then some e else some m
    | none => some e) none

/-- The emitted lanterns in the order in which their packets leave. -/
def leaveOrder : Nat → List (Nat × Lantern) → List (Nat × Lantern)
  | 0, _ => []
  | n + 1, l =>
    match firstLeaving l with
    | none => []
    | some e => e :: leaveOrder n (l.erase e)

/-- The packets of a die's emitted lanterns leave. -/
def State.leave (s : State) (d : Nat) : State :=
  let l := (s.die d).leaving
  if l.isEmpty then s
  else (leaveOrder l.length l).foldl (fun s e => s.leaveOne d e) (s.modDie d (fun k => { k with leaving := [] }))

/-- Every open lantern of a die that a test names is emitted. -/
def State.emitWhere (s : State) (d : Nat) (f : Lantern → Bool) : State :=
  (List.range 64).foldl (fun s i =>
    let l := (s.die d).lantern i
    if l.state == 1 && f l then s.emit d i else s) s

/-- The lantern has an entry of a core. -/
def Lantern.hasCore (l : Lantern) (c : Nat) : Bool := l.entries.any (fun e => e.core == c)
def Lantern.hasCtx (l : Lantern) (c b : Nat) : Bool := l.entries.any (fun e => e.core == c && e.bank == b)

/-- The lantern of a destination die and class is emitted if it holds entries of the core (R141, R258). It leaves with those
of the cycle (R361), and what comes after it then. -/
def State.emitFor (s : State) (c pkg die cls : Nat) : State :=
  s.emitWhere (dieOf c) (fun l => l.pkg == pkg && l.die == die && l.cls == cls && l.hasCore c)

/-- A lantern of a die whose entries a test names is on its way out: emitted, or to be at the end of the cycle. -/
def Die.outgoing (k : Die) (f : Lantern → Bool) : Bool :=
  k.leaving.any (fun e => f e.2) || k.lanterns.any (fun e => e.2.state == 1 && e.2.flush && f e.2)

/-- The word of `e` with the enabled bytes of an element over it. -/
def mergeBytes (old new : Word) (en : Nat) : Word :=
  let m := (List.range 4).foldl (fun m j => if bitAt en j then m + 0xFF * 2 ^ (8 * j) else m) 0
  blend old new (BitVec.ofNat 32 m)

/-- The result of an operation of R356 on a word, 0x10 to 0x19. -/
def eopResult (eop : Nat) (old v : Word) : Word :=
  match eop with
  | 0x10 => old + v
  | 0x11 => old &&& v
  | 0x12 => old ||| v
  | 0x13 => old ^^^ v
  | 0x14 => if old.toInt ≤ v.toInt then old else v
  | 0x15 => if v.toInt ≤ old.toInt then old else v
  | 0x16 => if old.toNat ≤ v.toNat then old else v
  | 0x17 => if v.toNat ≤ old.toNat then old else v
  | _ => BitVec.ofNat 32 (addF32 false old.toNat v.toNat)

/-- An element combined with an entry (R357); none when they do not combine. -/
def combine (e : LEntry) (eop : Nat) (v : Word) : Option LEntry :=
  if e.eop < 0x10 && eop < 0x10 then
    some { e with eop := Nat.lor e.eop eop, data := mergeBytes e.data v eop }
  else if e.eop == eop && ((0x10 ≤ eop && eop ≤ 0x17) || eop == 0x19) then
    some { e with data := eopResult eop e.data v }
  else none

/-- The newest entry with the same storing core, target core and word combines, or none does. -/
def combineInto (c bank win core waddr eop : Nat) (v : Word) : List LEntry → Option (List LEntry)
  | [] => none
  | e :: es =>
    match combineInto c bank win core waddr eop v es with
    | some es' => some (e :: es')
    | none =>
      if es.any (fun f => f.core == c && f.ecore == core && f.waddr == waddr) then none
      else if e.core == c && e.ecore == core && e.waddr == waddr then
        (combine e eop v).map (· :: es)
      else none

/-- The open lantern of a key. -/
def Die.lanternOf (k : Die) (pkg die cls : Nat) (rlx : Bool) (own : Nat) : Option Nat :=
  (List.range 64).find? (fun i =>
    let l := k.lantern i
    l.state == 1 && l.pkg == pkg && l.die == die && l.cls == cls && l.rlx == rlx && l.own == own)

/-- The open lantern whose oldest entry entered earliest, the lowest-numbered on a tie (R360). -/
def Die.oldestOpen (k : Die) : Option Nat :=
  (List.range 64).foldl (fun acc i =>
    if (k.lantern i).state != 1 then acc
    else match acc with
      | none => some i
      | some j => if (k.lantern i).opened < (k.lantern j).opened then some i else acc) none

/-- A lantern for a new key: a free one, or the evicted oldest; none when all are held (R360). The
flag says that the element enters in the next cycle. -/
def State.freeLantern (s : State) (d : Nat) : Option (Nat × Bool × State) :=
  match (List.range 64).find? (fun i => ((s.die d).lantern i).state == 0) with
  | some i => some (i, false, s)
  | none =>
    match (s.die d).oldestOpen with
    | some i => some (i, true, s.emit d i)
    | none => none

/-- After an element has entered: a lantern with 32 entries is emitted; one with an entry that a fence or
flush covers is emitted at the end of the cycle (R358, R361). -/
def State.entered (s : State) (d i : Nat) (flushed : Bool) : State :=
  let l := (s.die d).lantern i
  if 32 ≤ l.entries.length then s.emit d i
  else if flushed then s.setLantern d i { l with flush := true }
  else s

/-- One element enters its lantern (R357 to R360); none when no lantern can be had. -/
def State.enterLantern (s : State) (c b cls own lburn : Nat) (rlx flushed : Bool) (e : LElem) :
    Option State :=
  let d := dieOf c
  let k := s.die d
  let waddr := e.addr / 4
  match k.lanternOf e.pkg e.die cls rlx own with
  | some i =>
    let l := k.lantern i
    match combineInto c b e.win e.core waddr e.eop e.data l.entries with
    | some es => some ((s.setLantern d i { l with entries := es }).entered d i flushed)
    | none =>
      some ((s.setLantern d i
        { l with entries := l.entries ++ [⟨e.eop, e.core, waddr, e.data, c, b, e.win, e.seq⟩] }).entered d i flushed)
  | none =>
    match s.freeLantern d with
    | none => none
    | some (i, next, s) =>
      let t := s.cue - 1 + b2n next
      let s := s.setLantern d i
        ⟨1, e.pkg, e.die, cls, rlx, own, [⟨e.eop, e.core, waddr, e.data, c, b, e.win, e.seq⟩], t, t + lburn, false⟩
      some ((s.at_ (t + lburn) .lanternBurnDeadline { die := d, n := i }).entered d i flushed)

/-- The end of a cycle: the lanterns that a fence or flush covers are emitted, and the packets of the lanterns emitted in
the cycle leave, in ascending lantern number (R361). -/
def State.leaveWork (s : State) : Option State :=
  (s.dies.find? (fun e => e.2.outgoing (fun _ => true))).map (fun e => (s.emitWhere e.1 (·.flush)).leave e.1)

/-- A full-store piece leaves as one packet (R302). -/
def State.sendPiece (s : State) (c b cls own : Nat) (rlx : Bool) (p : Piece) : State :=
    let pk : Packet := { Packet.mk0 1 cls with
      rlx := rlx, owner := own, srcCore := c % 16, dstPkg := p.pkg, dstDie := p.die, dstCore := p.core
      addr := p.addr, aux := p.mask, payload := p.bytes }
    s.post (dieOf c) pk (List.replicate 32 (c, b, p.win)) none none

end Sys2Proof.Machine
end

