-- ==== Sys2Proof/Machine/Present.lean ====
section
/-!
DEFINITION. Context images: descriptors (R107, R108), block contents, pulls and write-outs (R101 to
R106), the control-block image (R451), frames (R80, R82), and when a context's clock runs (R56, R82).
-/
namespace Sys2Proof.Machine

/-! ### Frames (R80) -/

/-- Owner of a house cue of a core and the bounds of its frame; `none` for a bound that is not set. -/
def Core.frameGo (k : Core) (n : Nat) : Nat → Nat → Nat → Nat × Nat × Nat
  | 0, _, start => (4, start, start)
  | fuel + 1, off, start =>
    let e := (k.frametab.get 0 (n - (fuel + 1))).toNat
    let len := 2 ^ (e % 32)
    if off < len then (bits e 14 12, start, start + len) else k.frameGo n fuel (off - len) (start + len)

/-- Total length of the frames in use. -/
def Core.frameTotal (k : Core) : Nat :=
  (List.range (k.framectl.toNat % 32)).foldl (fun t i => t + 2 ^ ((k.frametab.get 0 i).toNat % 32)) 0

/-- Owner, start and end of the frame that holds a house cue; the end is 0 when there is none. -/
def Core.frameAt (k : Core) (cue : Nat) : Nat × Nat × Nat :=
  let n := k.framectl.toNat % 32
  if n = 0 then (4, 0, 0)
  else if cue < k.framebase.toNat then (4, 0, k.framebase.toNat)
  else
    let t := k.frameTotal
    let off := (cue - k.framebase.toNat) % t
    k.frameGo n n off (cue - off)

/-- An entry of the frame table names a world (R384). -/
def Core.framesWorlds (k : Core) : Bool :=
  (List.range (k.framectl.toNat % 32)).any (fun i => decide (bits (k.frametab.get 0 i).toNat 14 12 < 4))

/-- The current cycle lies in a frame of an owner, its gap past (R81, R82). -/
def State.inFrame (s : State) (c own : Nat) : Bool :=
  let k := s.core c
  k.gapEnd.isNone && (k.frameAt s.cue).1 == own

/-! ### When a context's clock runs -/

/-- A context's local cue advances (R56, R57, R82, R148, R379, R384, R398). -/
def State.runs (s : State) (c b : Nat) (x : Ctx) : Bool :=
  let k := s.core c
  k.stage == b && x.life == .live && x.frozen.isNone && x.held.isNone && !x.hnd
    && (match x.waitv with | some w => w.begun == s.cue && w.read.isSome | none => true)
    && x.entry.isNone && k.exchange.isNone && !k.outOfService && s.inFrame c x.own

/-- The clocks of a core's contexts run or stand as they should from this cue on; the slip of a context at a scene
barrier does not grow (R72). -/
def State.settle (s : State) (c : Nat) : State :=
  let one := fun (s : State) (b : Nat) =>
    match s.ctx c b with
    | some x =>
      match x.clock, s.runs c b x with
      | .run _, false => s.setCtx c b (x.halt s.cue)
      | .stopped _, true => s.setCtx c b (x.go s.cue)
      | _, _ => s
    | none => s
  one (one s 0) 1

/-! ### Descriptors (R107, R108) -/

/-- Size of a block's image (R101). -/
def blockSize (n : Nat) : Nat :=
  if n = 0 then 8192 else if n ≤ 4 then 4096 else if n = 5 then 8192 else if n ≤ 9 then 4096
  else if n ≤ 27 then 16384 else 65536

/-- All bytes of a range are populated memory that can be reached, none poisoned. -/
def State.readable (s : State) (pa n : Nat) : Bool :=
  (wordsOf pa n).all (fun w => s.reaches (4 * w)) && !s.pmark pa n

/-- Offset of the first field of a descriptor that breaks R107 or R108; `needCtl` when block 0 must
have an image (R451). A descriptor that cannot be read breaks at offset 0. -/
def State.descError (s : State) (a : Nat) (needCtl : Bool) : Option Nat :=
  if !s.readable a 4096 then some 0
  else
    let b := fun (o : Nat) => s.peek (a + o) 1
    let ent := fun (n : Nat) => s.peek (a + 64 + 16 * n) 16
    let badEnt := fun (n : Nat) =>
      let e := ent n
      bits e 127 66 != 0 || bits e 63 52 != 0 || bits e 5 0 != 0 || (needCtl && n == 0 && !bitAt e 64)
    if s.peek a 4 != 0x474D4943 then some 0
    else if b 4 != 1 then some 4
    else if 3 < b 5 ∧ b 5 ≠ 0xFF then some 5
    else if 2 < b 6 then some 6
    else if b 7 != 0 then some 7
    else match (upFrom 16 48).find? (fun o => b o != 0) with
      | some o => some o
      | none =>
        match (List.range 156).find? badEnt with
        | some n => some (64 + 16 * n)
        | none => (upFrom 2560 1536).find? (fun o => b o != 0)

/-- The image that a descriptor at `a` gives block `n`. -/
def State.descImage (s : State) (a n : Nat) : Image :=
  let e := s.peek (a + 64 + 16 * n) 16
  ⟨bits e 51 6 * 64, bitAt e 64, bitAt e 65, s.peek (a + 6) 1, s.peek (a + 5) 1⟩

/-- The physical address of a context's descriptor; none when no valid page maps it. -/
def State.descAt (s : State) (x : Ctx) : Option Nat := s.lookAddr (!x.descVa) x.ptroot.toNat x.ctxdesc.toNat

/-- The descriptor of a context, when it can be read (R107). -/
def State.descRead (s : State) (x : Ctx) : Option Nat :=
  (s.descAt x).bind (fun a => if s.readable a 4096 then some a else none)

/-- The descriptor of a bank's context lies behind a CXL port that is down (R441). -/
def State.descDown (s : State) (c b : Nat) : Bool :=
  match s.ctx c b with
  | some x => (s.descRead x).isNone && (s.portsUp.descRead x).isSome
  | none => false

/-- The image that a context's descriptor gives a block; none when it cannot be read. -/
def State.ctxImage (s : State) (x : Ctx) (n : Nat) : Option Image := (s.descRead x).map (fun a => s.descImage a n)

/-- The image that a pull of block `n` of a context reads (R389): a scratchpad block has its image of
record in the core. -/
def State.imageOf (s : State) (c b n : Nat) : Option Image :=
  if 28 ≤ n then some ((s.core c).spImg.get ⟨0, false, false, 0, 0xFF⟩ (n - 28))
  else (s.ctx c b).bind (fun x => s.ctxImage x n)

/-- The key an image is sealed with (R108): none when its descriptor selects none. DESIGN CHOICE (log 64): `KEYSEL` 2 in a
context of `WORLD` 0xFF, for which R108 gives no key, finds none either. -/
def State.imageKey (s : State) (c : Nat) (im : Image) : Option Nat :=
  if im.keysel = 1 then some (Config.coreImageKey c).toNat
  else if im.keysel = 2 && decide (im.world < 4) then
    some (ofBe ((s.core c).keys.readN (0x0860 + 16 * im.world) 16))
  else none

/-- The bytes a pull brings; none is a kindle fault (R108). `ext` is what another package answered with, for
an image there. -/
def State.pullBytes (s : State) (c n : Nat) (im : Image) (ext : List Byte) : Option (List Byte) :=
  let size := blockSize n
  let all := size + b2n im.enc * 16
  let far := (s.farOpen im.addr).isSome
  if !im.img then some (List.replicate size 0)
  else if (if far then ext.length != all else !s.readable im.addr all) then none
  else
    let got := if far then ext else s.pread im.addr all
    if !im.enc then some got
    else match s.imageKey c im with
      | some key => gcmOpen key (im.addr * 2 ^ 32 + n) (got.take size) (got.drop size)
      | none => none

/-- Bytes with marks per word written to physical memory by an agent; a marked word of host memory is written as ones and
recorded (R396). -/
def State.pwriteMarks (s : State) (pa : Nat) (bs : List Byte) (marked : List Nat) (d : Nat) (r : Requester) : State :=
  let s := s.pwrite pa bs false
  marked.foldl (fun s i =>
    let a := pa + 4 * i
    let s := s.pwrite a ((bs.drop (4 * i)).take 4) true
    if s.place a == .host then s.agentRec d 0x53 r a (reqNum r) else s) s

/-- A block of a bank's context written to its image; none when it fails. -/
def State.writeImage (s : State) (c b n : Nat) (im : Image) (bs : List Byte) (marked : List Nat) :
    Option State :=
  let size := blockSize n
  let mem := (wordsOf im.addr (size + b2n im.enc * 16)).all (fun w => s.answers (4 * w))
  let put := fun (bs : List Byte) =>
    match s.farOpen im.addr with
    | some (p, d) =>
      ((List.range (bs.length / 64 + 1)).zip (chunksOf 64 (bs.length / 64 + 1) bs)).foldl (fun (s : State) (i, l) =>
        let marks := (List.range l.length).map (fun j => marked.contains ((64 * i + j) / 4))
        s.post (dieOf c) (writePacket 0 (c % 16) 5 p d (im.addr + 64 * i) (l.zip marks)) [] none none) s
    | none => s.pwriteMarks im.addr bs marked (dieOf c) (s.agent c b 1)
  if !mem && (s.farOpen im.addr).isNone then none
  else if !im.enc then some (put bs)
  else match s.imageKey c im with
    | some key =>
      let (ct, tag) := gcmSeal key (im.addr * 2 ^ 32 + n) bs
      some (put (ct ++ tag))
    | none => none

/-- A transfer of a bank's context that met an unpopulated address in a range: the record (R110). -/
def State.xferRec (s : State) (c b pa n : Nat) : State :=
  s.unpopRec (dieOf c) (s.agent c b 1) pa n

/-- Such a record for a context's descriptor. -/
def State.descRec (s : State) (c b : Nat) : State :=
  match s.ctx c b with
  | some x => s.noteRead (dieOf c) (s.agent c b 1) (!x.descVa) x.ptroot.toNat x.ctxdesc.toNat 4096
  | none => s

/-- Bytes of an image with its tag (R108). -/
def Image.span (im : Image) (n : Nat) : Nat := blockSize n + b2n im.enc * 16

/-! ### Block contents (R101): elements and words in ascending order (log 12) -/

/-- Keys `lo` to `lo + n - 1` of a table. -/
def Tab.drop {α : Type} (t : Tab α) (lo n : Nat) : Tab α :=
  t.filter (fun e => !(decide (lo ≤ e.1) && decide (e.1 < lo + n)))

/-- 32-bit words of a byte list. -/
def words32 (bs : List Byte) : List Nat := (chunksOf 4 (bs.length / 4 + 1) bs).map ofLe

/-- A table of words with a run of entries replaced; zero is not listed. -/
def putWords (t : Tab Word) (lo : Nat) (ws : List Nat) : Tab Word :=
  ((upFrom lo ws.length).zip ws).foldl (fun t e =>
    if e.2 = 0 then t else t.put e.1 (BitVec.ofNat 32 e.2)) (t.drop lo ws.length)

/-- First location code and number of words of a register block's marks, and words per code. -/
def blockCodes (n : Nat) : Nat × Nat × Nat :=
  if n = 0 then (0, 0, 1)
  else if n ≤ 4 then (codeLane (8 * (n - 1)) 0, 1024, 1)
  else if n = 5 then (codeYLane 0 0, 1024, 2)
  else if n ≤ 9 then (codeSpill (1024 * (n - 6)), 1024, 1)
  else if n ≤ 25 then (codeTile (4096 * (n - 10)), 4096, 1)
  else (codeLatch (4096 * (n - 26)), 4096, 1)

/-- Bytes of a block and the poisoned words among them. -/
def State.blockBytes (s : State) (c b n : Nat) : List Byte × List Nat :=
  let k := s.core c
  let x := (k.bank b).getD {}
  let r := x.regs
  let (base, cnt, w) := blockCodes n
  let marked := (List.range cnt).flatMap (fun i =>
    if r.mark (base + i) then upFrom (i * w) w else [])
  if n ≤ 4 then ((upFrom (8 * (n - 1)) 8).flatMap (fun i => toLe 512 (x.vAt i).toNat), marked)
  else if n = 5 then ((List.range 1024).flatMap (fun i => toLe 8 (x.y.get 0 i).toNat), marked)
  else if n ≤ 9 then (r.spill.readN (4096 * (n - 6)) 4096, marked)
  else if n ≤ 25 then
    ((upFrom (4096 * (n - 10)) 4096).flatMap (fun i => toLe 4 (x.tileAt i).toNat), marked)
  else if n ≤ 27 then (x.klatch.readN (16384 * (n - 26)) 16384, marked)
  else
    let a := 65536 * (n - 28)
    (k.sp.readN a 65536, (List.range 16384).filter (fun i => k.spMarks.get false (a / 4 + i)))

/-- A run of bytes of a memory replaced. -/
def Memory.replace (m : Memory) (a : Nat) (bs : List Byte) : Memory :=
  Memory.writeN (m.filter (fun e => !(decide (a ≤ e.1) && decide (e.1 < a + bs.length)))) a bs

/-- A block filled from bytes, unpoisoned. -/
def State.putBlock (s : State) (c b n : Nat) (bs : List Byte) : State :=
  if 28 ≤ n then
    let a := 65536 * (n - 28)
    s.modCore c (fun k => { k with
      sp := k.sp.replace a bs
      spMarks := Tab.drop k.spMarks (a / 4) 16384 })
  else
    let (base, cnt, _) := blockCodes n
    s.modCtx c b (fun x =>
      let x := { x with regs := { x.regs with marks := Tab.drop x.regs.marks base cnt } }
      if n ≤ 4 then
        (List.range 8).foldl (fun x i =>
          { x with v := x.v.put (8 * (n - 1) + i) (BitVec.ofNat 4096 (ofLe ((bs.drop (512 * i)).take 512))) }) x
      else if n = 5 then
        { x with y := ((chunksOf 8 1024 bs).foldl (fun (acc : Tab DWord × Nat) e =>
            let v := ofLe e
            (if v = 0 then acc.1 else acc.1 ++ [(acc.2, BitVec.ofNat 64 v)], acc.2 + 1)) ([], 0)).1 }
      else if n ≤ 9 then { x with regs := { x.regs with spill := x.regs.spill.replace (4096 * (n - 6)) bs } }
      else if n ≤ 25 then { x with tiles := putWords x.tiles (4096 * (n - 10)) (words32 bs) }
      else { x with klatch := x.klatch.replace (16384 * (n - 26)) bs })

/-- The control block zeroed: what R101 lists for block 0. -/
def Ctx.zeroCtl (x : Ctx) : Ctx :=
  { x with
    nval := (upFrom 1 3).map (fun n => (n, 0))
    m := (upFrom 1 7).map (fun n => (n, 0))
    looptab := [], fthdr := 0, ftab := [], wintab := [], q := [], levels := [], stack := []
    tvec := 0, estatus := 0, elcue := 0, epcs := 0, epcv := 0, epcm := 0, einfo := 0
    cause := 0, info := 0, strm := 0, lburn := 0, waitbud := 0
    rsfInfo := 0, rsfDest := 0, rsfAddr := 0, rsfMask := 0
    ptroot := 0, rpOff := 0, rp := {}, fresh := 0, armed := 0, ktr := 0
    regs := { x.regs with
      g := [], x := [], p := 0, b := [], bAt := [], tokPend := 0, tokFail := 0, xferst := 0
      frameptr := 0, framesz := 0, slim := 0, bound := [], latch := none, staging := none
      marks := x.regs.marks.filter (fun e => decide (0x1000 ≤ e.1)) } }

/-- A block filled with zeros: block 5 with its `YCTL` registers (R101, R108). -/
def State.zeroBlock (s : State) (c b n : Nat) : State :=
  if n = 0 then s.modCtx c b Ctx.zeroCtl
  else
    let s := s.putBlock c b n (List.replicate (blockSize n) 0)
    if n = 5 then s.modCtx c b (fun x => { x with yctl := [] }) else s

/-! ### Presence states -/

def State.presence (s : State) (c b n : Nat) : Presence :=
  presenceOf (s.core c) ((s.ctx c b).getD {}) n

def State.setPresence (s : State) (c b n : Nat) (p : Presence) : State :=
  if n < 28 then s.modCtx c b (fun x => { x with blocks := x.blocks.put n p })
  else s.modCore c (fun k => { k with spBlk := k.spBlk.put (n - 28) p })

/-- The order in which transfers go (R105, R390): write-outs that wait for accesses last; the stage context's first, pulls of
touched blocks, other pulls, write-outs, in ascending block number. -/
def xferRank (stage : Nat) (busy : Bool) (t : Xfer) : Nat :=
  b2n busy * 8192 + b2n (t.bank != stage) * 4096 + b2n t.out * 2048 + b2n (!t.touched) * 1024 + t.block

/-- Whether a write in flight of a context lies in a block (R102). -/
def pendInBlock (p : PWrite) (n : Nat) : Bool :=
  match p with
  | .v k _ _ _ _ => n == 1 + k / 8
  | .yadd .. => n == 5
  | .yclr .. => n == 5
  | .spill a _ _ => n == 6 + a / 4096
  | .sp _ cells _ => cells.any (fun e => blockOf e.1 == n)
  | .spn cells _ => cells.any (fun e => blockOf e.1 == n)
  | .view els _ => els.any (fun e => 10 + e.1 / 4096 == n)
  | .tileAcc t _ _ _ => n == 10 + t
  | .tileSet t _ _ => n == 10 + t
  | .tileSeen t _ => n == 10 + t
  | .latch k _ _ _ => n == 26 + k
  | _ => false

/-- A context has accesses of a block in flight: writes, and the reads that words already issued make in later cycles,
but for those that a drain has made (R378). -/
def Ctx.usesBlock (x : Ctx) (cue n : Nat) : Bool :=
  x.regs.pend.any (fun p => pendInBlock p.w n)
    || x.booked.any (fun k => !k.made && blockOf (128 * k.row) == n && decide (x.lcue cue ≤ k.cyc))

/-- Accesses of block `n` of bank `b` are in flight (R102, R390): of either context and of the stagehand where it is one of the
scratchpad's, else of that bank's context, and of a stagehand, whose views are of the stage context. -/
def State.blockBusy (s : State) (c b n : Nat) : Bool :=
  let k := s.core c
  (k.bank0.any (fun x => (b == 0 || decide (28 ≤ n)) && x.usesBlock s.cue n))
    || (k.bank1.any (fun x => (b == 1 || decide (28 ≤ n)) && x.usesBlock s.cue n))
    || ((b == k.stage || decide (28 ≤ n)) && k.sh.pend.any (fun p => pendInBlock p.w n))

/-- The number at the asynchronous port of a transfer of blocks. -/
def portXfer : Nat := 9

/-- The image that a transfer reads or writes; none when the descriptor cannot be read. -/
def State.xferImage (s : State) (c : Nat) (t : Xfer) : Option Image :=
  if t.out then (s.ctx c t.bank).bind (fun x => s.ctxImage x t.block) else s.imageOf c t.bank t.block

/-- A context's descriptor is read by its copy engine: the walker sets `A` (R112). -/
def State.descTouch (s : State) (c b : Nat) : State :=
  match s.ctx c b with
  | some x => if x.descVa then s.touchPage x.ptroot.toNat x.ctxdesc.toNat else s
  | none => s

/-- The copy engine takes up the next transfer of blocks when it has none (R105). A block without an
image is done in the next cycle (R103, R108). A write-out whose block has accesses pending is tried again in the next
cycle, behind the others (R103; `m` of its event). One whose image lies in another package ends when that package
answers, an event from outside, or has timed out (R346, log 7). -/
def State.startXfers (s : State) (c : Nat) : State :=
  let k := s.core c
  if k.xfers.any (·.started) then s
  else
    let s := { s with ports := s.ports.filter (fun q => !(q.core == c && q.who == portXfer)) }
    let rank := fun (t : Xfer) => xferRank k.stage (t.out && s.blockBusy c t.bank t.block) t
    let best := k.xfers.foldl (fun (acc : Option Xfer) t =>
      match acc with
      | some u => if rank t < rank u then some t else some u
      | none => some t) none
    match best with
    | none => s
    | some t =>
      let s := s.setCore c { k with
        xfers := k.xfers.map (fun u => if u == t then { u with started := true } else u) }
      let s := if t.out || t.block < 28 then s.descTouch c t.bank else s
      let s := s.modCore c (fun k => { k with xferRoute := s.routeWord ((s.xferImage c t).getD ⟨0, false, false, 0, 0xFF⟩).addr })
      let e : Instr := if t.out then .blockWriteOutEnd else .blockPullEnd
      let a : EvArg := { core := c, bank := t.bank, n := t.block, flag := true }
      let far := !t.out && (match s.xferImage c t with
        | some im => im.img && (s.farOpen im.addr).isSome
        | none => false)
      let img := match s.xferImage c t with
        | some im => im.img
        | none => true
      if t.out && s.blockBusy c t.bank t.block then s.at_ (s.cue + 1) e { a with m := 1 }
      else if far then s.at_ (s.cue + (s.die (dieOf c)).fabtmo.toNat) e { a with flag := false }
      else if img then s.later e a else s.at_ (s.cue + 1) e a

/-- A dark block starts to kindle; a touched one goes before those KINDLE started (R102, R103). -/
def State.kindle (s : State) (c b n : Nat) (touched : Bool) : State :=
  match s.presence c b n with
  | .dark =>
    let s := (s.setPresence c b n (.kindling false)).modCore c (fun k => { k with
      xfers := k.xfers ++ [⟨b, n, false, touched, false⟩] })
    s.startXfers c
  | .kindling _ =>
    if touched then s.modCore c (fun k => { k with
      xfers := k.xfers.map (fun t => if t.block == n && !t.out then { t with touched := true } else t) })
    else s
  | _ => s

/-! ### The asynchronous port (R92, R97, R98, R104, log 62) -/

/-- The block of a scratchpad address lets an asynchronous access proceed (R104). -/
def State.portOpen (s : State) (c addr : Nat) : Bool :=
  presenceOk ((s.core c).spBlk.get .lit (spBlock addr))

/-- A dark block starts to kindle for a request at the port (R104): its pull is one of the stage context. -/
def State.portKindle (s : State) (c addr : Nat) : State := s.kindle c (s.stageOf c) (blockOf addr) false

/-- The banks of a core serve the asynchronous port in this cycle (R92): position 7, or the program is held. -/
def State.asyncNow (s : State) (c : Nat) : Bool :=
  let b := s.stageOf c
  (s.core c).shAt == s.cue + 1 || (match s.ctx c b with
    | some x => x.arrived.isSome || !s.runs c b x || wheel (x.lcue s.cue) == 7
    | none => true)

/-- A local atomic in flight keeps the bank of an address (R97). -/
def State.bankReserved (s : State) (c addr : Nat) : Bool :=
  let k := s.core c
  [k.bank0, k.bank1].any (fun o =>
    match o with
    | some x =>
      x.booked.any (fun b => b.hold && bankOfRow b.row == bankOf addr && decide (x.lcue s.cue ≤ b.cyc))
        && x.regs.pend.any (fun p => (spCells p.w).any (fun e => bankOf e == bankOf addr))
    | none => false)

/-- Requesters at a port: the fabric interface, the core's copy engine, the pool engines from 2 on, a handler, the
stagehand, a zeroing; `portXfer` for a transfer of blocks. -/
def Engine.port : Engine → Nat
  | .copy _ => 1
  | .pool _ e => 2 + e
def portHandler : Nat := 6
def portSh : Nat := 7
def portZero : Nat := 8

/-- A request for a whole block, which takes every bank of the block's group (log 62). -/
def PortReq.whole (q : PortReq) : Bool := q.who == portZero || q.who == portXfer

/-- Two requests meet at a bank. -/
def PortReq.meets (q r : PortReq) : Bool :=
  q.core == r.core && (bankOf q.addr == bankOf r.addr || ((q.whole || r.whole) && q.addr / 2 ^ 22 == r.addr / 2 ^ 22))

/-- An address of each bank that a request takes. -/
def PortReq.banks (q : PortReq) : List Nat :=
  if q.whole then (List.range 32).map (fun i => q.addr / 2 ^ 22 * 2 ^ 22 + 128 * i) else [q.addr]

/-- A request reaches a core's port, `front` the write of a remote atomic that has read (R98); a dark block starts
to kindle (R104). -/
def State.portAsk (s : State) (c addr who : Nat) (front : Bool) (e : Instr) (a : EvArg) : State :=
  let q : PortReq := ⟨c, addr, who, some (e, { a with granted := true })⟩
  let s := s.portKindle c addr
  { s with ports := if front then q :: s.ports else s.ports ++ [q] }

/-- A transfer of a scratchpad block of a core asks for the banks of the block (R92, R98). -/
def State.xferAsk (s : State) (c n : Nat) (e : Instr) (a : EvArg) : State :=
  { s with ports := s.ports.filter (fun q => !(q.core == c && q.who == portXfer))
      ++ [⟨c, 65536 * (n - 28), portXfer, some (e, { a with granted := true })⟩] }

/-- A request that nothing but its turn holds back: its block lets it proceed (R104). -/
def State.portReady (s : State) (q : PortReq) : Bool :=
  q.act.isSome && (q.who == portXfer || s.portOpen q.core q.addr)

/-- The running context of a core has touched a block, or waits for it (R98, log 62). -/
def State.hasTouched (s : State) (c n : Nat) : Bool :=
  match s.ctx c (s.stageOf c) with
  | some x => x.touched.getLsbD n || (match x.frozen with | some (.blocks l) => l.contains n | _ => false)
  | none => false

/-- Kindling or dousing of a block that the running context has touched goes first (R98). -/
def State.portFirst (s : State) (q : PortReq) : Bool := q.who == portXfer && s.hasTouched q.core (blockOf q.addr)

/-- The write of a remote atomic that has read: nothing comes between the two (R98). -/
def PortReq.isWrite (q : PortReq) : Bool :=
  match q.act with
  | some (_, a) => q.who == 0 && a.pkt.isSome && a.n == 1
  | none => false

/-- The order in which the requests at the ports are served (R98): writes of atomics that have read, item 1, item 2. -/
def State.portOrder (s : State) : List PortReq :=
  let rest := s.ports.filter (fun q => !q.isWrite)
  s.ports.filter PortReq.isWrite ++ rest.filter s.portFirst ++ rest.filter (fun q => !s.portFirst q)

/-- A bank has served a request of another requester in this cycle. -/
def State.portUsed (s : State) (c addr who : Nat) : Bool :=
  let v := (s.core c).portAt.get 0 (bankOf addr)
  v / 16 == s.cue + 1 && v % 16 != who

/-- A bank serves a request in this cycle, with the requests that reached the port before it. -/
def State.portServes (s : State) (before : List PortReq) (q : PortReq) : Bool :=
  s.portReady q && s.asyncNow q.core
    && q.banks.all (fun a => !s.bankReserved q.core a && !s.portUsed q.core a 15)
    && !before.any (fun r => (r.who == q.who || (r.whole && s.portReady r)) && r.meets q)

/-- The first request that its bank serves in this cycle, and the requests before it. -/
def State.portPick (s : State) (before : List PortReq) : List PortReq → Option (List PortReq × PortReq × List PortReq)
  | [] => none
  | q :: l => if s.portServes before q then some (before, q, l) else s.portPick (before ++ [q]) l

/-- The banks of a request serve it in this cycle. -/
def State.portUse (s : State) (q : PortReq) : State :=
  s.modCore q.core (fun k => { k with
    portAt := q.banks.foldl (fun t a => t.put (bankOf a) (16 * (s.cue + 1) + q.who)) k.portAt })

/-- What the asynchronous ports do in a cycle: a dark block kindles for a request (R104), or a bank serves one. -/
def State.portWork (s : State) : Option (Sum State (State × Instr × EvArg)) :=
  match s.ports.find? (fun q => q.who != portXfer
      && s.presence q.core (s.stageOf q.core) (blockOf q.addr) == .dark) with
  | some q => some (.inl (s.portKindle q.core q.addr))
  | none =>
    match s.portPick [] s.portOrder with
    | some (l, q, r) =>
      match q.act with
      | some (e, a) => some (.inr (({ s with ports := l ++ r } : State).portUse q, e, a))
      | none => none
    | none => none

/-- The turn of a stagehand's or a handler's word at a bank (R97, R98): the requests that go before it have been
served, and the bank serves none in this cycle. -/
def State.portTurn (s : State) (c addr who : Nat) : Bool :=
  let q : PortReq := ⟨c, addr, who, none⟩
  let ahead := s.portOrder.takeWhile (fun r => !(r.core == c && r.who == who && r.act.isNone))
  !s.bankReserved c addr && !s.portUsed c addr who
    && !ahead.any (fun r => s.portReady r && r.meets q)

/-- The place of a waiting word is given up. -/
def State.portLeave (s : State) (c who : Nat) : State :=
  { s with ports := s.ports.filter (fun r => !(r.core == c && r.who == who && r.act.isNone)) }

/-- A word waits at a bank in its place. -/
def State.portWait (s : State) (c addr who : Nat) : State :=
  if s.ports.any (fun r => r.core == c && r.who == who && r.act.isNone && r.addr == addr) then s
  else { s.portLeave c who with ports := (s.portLeave c who).ports ++ [⟨c, addr, who, none⟩] }

/-- DOUSE of a block (R103): a lit one is dousing at once, and its write-out starts after the accesses that are pending,
where R102 and R390 could be read to leave it lit until then (DESIGN CHOICE, log 72). -/
def State.douse (s : State) (c b n : Nat) : State :=
  match s.presence c b n with
  | .lit =>
    ((s.setPresence c b n .dousing).modCore c (fun k => { k with
      xfers := k.xfers ++ [⟨b, n, true, false, false⟩] })).startXfers c
  | .kindling _ => s.setPresence c b n (.kindling true)
  | _ => s

/-! ### The control block (R451) -/

/-- Bytes 0 to 8,159 of a control-block image: the header of R451, then the number by which the model
finds the saved context (log 12). -/
def ctlBody (level cuerec serial : Nat) : List Byte :=
  toLe 4 0x424C4B43 ++ toLe 1 level ++ toLe 1 2 ++ toLe 2 0 ++ toLe 8 cuerec ++ List.replicate 48 0
    ++ toLe 8 serial ++ List.replicate 8088 0

/-- The image of a control block. -/
def ctlImage (level cuerec serial : Nat) : List Byte :=
  let b := ctlBody level cuerec serial
  b ++ sm3 b

/-- The saved context a pulled control block stands for; none when it is contrary to R451. -/
def State.ctlOpen (s : State) (bs : List Byte) : Option Ctx :=
  let at_ := fun (o n : Nat) => ofLe ((bs.drop o).take n)
  if at_ 0 4 != 0x424C4B43 || at_ 4 1 != 2 || at_ 5 1 != 2 || at_ 6 2 != 0 || at_ 16 48 != 0
      || bs.drop 8160 != sm3 (bs.take 8160) then none
  else (s.ctlImages.find? (fun e => e.1 == at_ 64 8)).map (·.2)

/-! ### Wake tables -/

/-- Every wake-table entry of a context is freed, whichever die holds it (R147, R387). -/
def State.dropWakes (s : State) (c b : Nat) : State :=
  { s with dies := s.dies.map (fun (e : Nat × Die) =>
    (e.1, { e.2 with wakeTab := e.2.wakeTab.filter (fun t => !(t.1 == c && t.2.1 == b)) })) }

/-! ### Completion of tokens -/

/-- A token of a stream completes, failed with a cause other than 0 (R135, R255, R256). A completion for
a context outside its owner's frames is held, in whichever bank it is or sealed (R82). -/
def State.tokDone (s : State) (c b : Nat) (sh : Bool) (t id cause : Nat) : State :=
  let dep := fun (k : Cmd) =>
    if k.waits.contains id then
      { k with waits := k.waits.filter (· != id), depFailed := k.depFailed || cause != 0 } else k
  let s := s.modCore c (fun q => { q with cmds := q.cmds.map dep })
  let s := s.modDie (dieOf c) (fun q => { q with pool := q.pool.map (fun e => (e.1, dep e.2)) })
  let out := !sh && (match s.ctx c b with
    | some x => !s.inFrame c x.own
    | none => false)
  if out then s.modCtx c b (fun x => { x with tokHeld := x.tokHeld ++ [(t, id, cause)] })
  else s.modRegsOf c b sh (·.complete t id cause)

/-- Tags that waited for the end of transfers take effect; their token completes (R106, R391). -/
def State.tagPump (s : State) (c : Nat) : State :=
  (s.core c).tagWaits.foldl (fun s w =>
    if w.clr then s
    else
      let busy := fun (n : Nat) => match (s.core c).spBlk.get .lit n with
        | .kindling _ => true
        | .dousing => true
        | _ => false
      let now := w.blocks.filter (fun n => !busy n)
      let rest := w.blocks.filter busy
      let s := s.modCore c (fun k => { k with
        otag := now.foldl (fun (t : Tab Nat) n => t.put n w.tag) k.otag
        tagWaits := if rest.isEmpty then k.tagWaits.filter (· != w)
          else k.tagWaits.map (fun e => if e == w then { w with blocks := rest } else e) })
      if rest.isEmpty then s.tokDone c 0 true w.tok w.tokId 0 else s) s

/-- Tokens of KINDLE and DOUSE whose blocks have settled complete (R390). -/
def State.blockTokens (s : State) (c : Nat) : State :=
  let k := s.core c
  let open_ := fun (t : BlockTok) => (upFrom t.first (t.last + 1 - t.first)).any (fun n =>
    n != 0 && (match s.presence c t.bank n with
      | .kindling _ => !t.out
      | .dousing => t.out
      | _ => false))
  let done := k.blkToks.filter (fun t => !open_ t)
  let s := s.setCore c { k with blkToks := k.blkToks.filter open_ }
  done.foldl (fun s t => s.tokDone c 0 true t.tok t.tokId 0) s

/-- A program writes a dousing block: the write-out is abandoned (R103). -/
def State.relight (s : State) (c b n : Nat) : State :=
  match s.presence c b n with
  | .dousing =>
    let mine := fun (t : Xfer) => t.out && t.block == n && (t.bank == b || decide (28 ≤ n))
    let run := (s.core c).xfers.any (fun t => mine t && t.started)
    let s := (s.setPresence c b n .lit).modCore c (fun k => { k with xfers := k.xfers.filter (fun t => !mine t) })
    ((if run then s.startXfers c else s).tagPump c).blockTokens c
  | _ => s

/-! ### Ends of transfers -/

/-- A context resumed in a bank takes part in its cast again (R389). -/
def State.rejoin (s : State) (c b : Nat) : State :=
  let k := s.core c
  let pos := ((s.ctx c b).getD {}).castpos.toNat
  if !bitAt k.castctl.toNat 0 then s
  else { s with launches := s.launches.map (fun l =>
    if l.launchid == k.castid then
      { l with members := l.members.map (fun m => if m.pos == pos then { m with core := c, bank := b } else m) }
    else l) }

/-- CTXRUN ends: the context becomes runnable once what it waits for is lit (R389). -/
def State.tryStart (s : State) (c : Nat) : State :=
  let k := s.core c
  k.starts.foldl (fun s st =>
    match s.ctx c st.bank with
    | some x =>
      let dark := (upFrom 1 155).any (fun n => match s.presence c st.bank n with
        | .lit => false
        | .dousing => false
        | _ => true)
      if x.block 0 != .lit || (st.eager && dark) || x.held.isSome then s
      else
        let s := s.setCtx c st.bank { x with life := .live }
        let s := s.modCore c (fun k => { k with starts := k.starts.filter (· != st) })
        ((s.rejoin c st.bank).tokDone c 0 true st.tok st.tokId 0).settle c
    | none => s) s

/-- A pull or write-out of a block has ended and the next is taken up. -/
def State.xferDone (s : State) (c b n : Nat) (out : Bool) : State :=
  let s := s.modCore c (fun k => { k with
    xfers := k.xfers.filter (fun t => !(t.bank == b && t.block == n && t.out == out)) })
  (((s.startXfers c).tagPump c).blockTokens c).tryStart c

/-- A pull has failed: its record, and the context held (R103, R398). -/
def State.kindleFault (s : State) (c b n addr : Nat) : State :=
  (s.ctxRec c b true 0x47 1 addr n).modCtx c b (fun x =>
    let x := { x with unlit := n :: x.unlit.filter (· != n) }
    if x.held.isSome then x else { x with held := some ⟨0x47, .pulls⟩ })

end Sys2Proof.Machine
end

