-- ==== Sys2Proof/Machine/Shape.lean ====
section
/-!
DEFINITION. Shape records (R248 to R251), the limits each command sets on them (R252, R253, R259 to R270),
the bytes a command reads and writes, and the bytes it makes of what it read (R259 to R272).
-/
namespace Sys2Proof.Machine

/-- A shape record decoded (R248, R249). -/
structure Shape where
  dst : Nat
  d0 : Nat
  d1 : Nat
  d2 : Nat
  d3 : Nat
  ss1 : Int
  ss2 : Int
  ss3 : Int
  ds1 : Int
  ds2 : Int
  ds3 : Int
  rsvd : Nat
  rlx : Bool
  cls : Nat
  dsp : Bool
  ssp : Bool
  sat : Bool
  rnd : Nat
  dty : Nat
  sty : Nat
  toks : List Nat
  /-- The 16 bytes of `PARAM`. -/
  param : Nat
deriving DecidableEq, Repr

/-- `n` bytes at an offset of a record. -/
def recField (r off n : Nat) : Nat := bits r (8 * (off + n) - 1) (8 * off)

/-- A shape record from its 64 bytes. -/
def Shape.ofNat (r : Nat) : Shape :=
  let f := recField r
  let c := f 40 4
  let t := f 44 4
  { dst := f 0 8, d0 := f 8 2, d1 := f 10 2, d2 := f 12 2, d3 := f 14 2
    ss1 := sext (f 16 4) 32, ss2 := sext (f 20 4) 32, ss3 := sext (f 24 4) 32
    ds1 := sext (f 28 4) 32, ds2 := sext (f 32 4) 32, ds3 := sext (f 36 4) 32
    rsvd := bits c 31 18 + bits t 31 18
    rlx := bitAt c 17, cls := bits c 16 13, dsp := bitAt c 12, ssp := bitAt c 11, sat := bitAt c 10
    rnd := bits c 9 8, dty := bits c 7 4, sty := bits c 3 0
    toks := [bits t 5 0, bits t 11 6, bits t 17 12]
    param := f 48 16 }

/-- `n` bytes of `PARAM` from record offset `off`. -/
def Shape.par (s : Shape) (off n : Nat) : Nat := recField s.param (off - 48) n
def Shape.st (s : Shape) : ElemTy := ElemTy.ofCode s.sty
def Shape.dt (s : Shape) : ElemTy := ElemTy.ofCode s.dty
def Shape.rm (s : Shape) : RMode := match s.rnd with | 0 => .rne | 1 => .rtz | 2 => .rdn | _ => .rup
def Shape.idx (s : Shape) : Nat := s.par 48 4
def Shape.scaddr (s : Shape) : Nat := s.par 48 8
def Shape.had (s : Shape) : Nat := s.par 56 1
def Shape.rsz (s : Shape) : Bool := bitAt (s.par 48 1) 0
def Shape.dense (s : Shape) : Bool := bitAt (s.par 49 1) 0
def Shape.scarr (s : Shape) : Bool := bitAt (s.par 49 1) 1
def Shape.scsrc (s : Shape) : Nat := s.par 52 8
def Shape.res (s : Shape) : Nat := s.par 48 4
def Shape.key (s : Shape) : Nat := s.par 60 1
/-- Slot size of CSORT. -/
def Shape.slot (s : Shape) : Nat := if s.rsz then 64 else 32
/-- Rotation size of CQNTH. -/
def Shape.hsize (s : Shape) : Nat := if s.had = 1 then 16 else if s.had = 2 then 32 else 64
/-- Message length of CDEC and its like. -/
def Shape.len (s : Shape) : Nat := s.d0 * s.d1 * s.d2 * s.d3

/-- Rows (i1, i2, i3) in the order of R251. -/
def Shape.rows (s : Shape) : List (Nat × Nat × Nat) :=
  (List.range s.d3).flatMap (fun i3 => (List.range s.d2).flatMap (fun i2 =>
    (List.range s.d1).map (fun i1 => (i1, i2, i3))))

/-- Number of a row: `i1 + D1 (i2 + D2 i3)`. -/
def Shape.rowNo (s : Shape) (r : Nat × Nat × Nat) : Nat := r.1 + s.d1 * (r.2.1 + s.d2 * r.2.2)

/-- Source and destination row addresses (R251). -/
def Shape.srcRow (s : Shape) (src : Nat) (r : Nat × Nat × Nat) : Int :=
  (src : Int) + r.1 * s.ss1 + r.2.1 * s.ss2 + r.2.2 * s.ss3
def Shape.dstRow (s : Shape) (r : Nat × Nat × Nat) : Int :=
  (s.dst : Int) + r.1 * s.ds1 + r.2.1 * s.ds2 + r.2.2 * s.ds3

/-- Bytes that `n` elements of a type take in a row (R251). -/
def rowBytes (t : ElemTy) (n : Nat) : Nat :=
  if t.isS then n / 32 * seBytes t.width else n * t.width / 8

/-! ### Bytes of a command -/

/-- A run of bytes: core-local or global, first address, length. -/
structure Run where
  sp : Bool
  start : Int
  len : Nat
deriving DecidableEq, Repr

/-- Sub-codes that compress, and that expand (R268). -/
def isCmp (op : Nat) : Bool := op == 0x06 || op == 0x08
def isExp (op : Nat) : Bool := op == 0x07 || op == 0x09
/-- Sub-codes that decrypt, and that encrypt (R270). -/
def isDec (op : Nat) : Bool := op == 0x0A || op == 0x12
def isEnc (op : Nat) : Bool := op == 0x0B || op == 0x13
def isQnt (op : Nat) : Bool := op == 0x03 || op == 0x04
def isPool (op : Nat) : Bool := 0x10 ≤ op

/-- Destination rows of CPYT (R260): (i0, i2, i3) and row address. -/
def tRows (s : Shape) : List ((Nat × Nat × Nat) × Int) :=
  (List.range s.d3).flatMap (fun i3 => (List.range s.d2).flatMap (fun i2 =>
    (List.range s.d0).map (fun i0 =>
      ((i0, i2, i3), (s.dst : Int) + i0 * s.ds1 + i2 * s.ds2 + i3 * s.ds3))))

/-- Bytes read at addresses that the record alone fixes (R252). -/
def readRuns (op : Nat) (s : Shape) (src : Nat) : List Run :=
  let rows := fun (n : Nat) => s.rows.map (fun r => (⟨s.ssp, s.srcRow src r, n⟩ : Run))
  if op = 0x0C then []
  else if isExp op then rows s.res
  else if isDec op then [⟨s.ssp, src, s.len + 16⟩]
  else if op = 0x0D then [⟨true, s.idx, 4 * s.d1⟩]
  else if op = 0x0E then ⟨true, s.idx, 4 * s.d1⟩ :: rows (rowBytes s.st s.d0)
  else if op = 0x05 && s.scarr then
    rows (rowBytes s.st s.d0) ++ [⟨s.ssp, s.scsrc, 4 * s.rows.length⟩]
  else rows (rowBytes s.st s.d0)

/-- Bytes written at addresses that the record alone fixes. -/
def writeRuns (op : Nat) (s : Shape) : List Run :=
  let rows := fun (n : Nat) => s.rows.map (fun r => (⟨s.dsp, s.dstRow r, n⟩ : Run))
  if op = 0x0E then []
  else if op = 0x01 then (tRows s).map (fun e => ⟨s.dsp, e.2, rowBytes s.dt s.d1⟩)
  else if isQnt op then rows (rowBytes s.dt s.d0) ++ [⟨s.dsp, s.scaddr, 4 * s.rows.length⟩]
  else if op = 0x05 then rows s.slot
  else if isCmp op then rows s.res
  else if isEnc op then [⟨s.dsp, s.dst, s.len + 16⟩]
  else rows (rowBytes s.dt s.d0)

/-- Limit of a space: groups A and B, or the 52-bit addresses (R87, R109). -/
def spaceEnd (sp : Bool) : Int := if sp then 0x800000 else 2 ^ 52

/-- The first byte of a run outside its space (R252). -/
def Run.outside (r : Run) : Option Int :=
  if r.len = 0 then none
  else if r.start < 0 then some r.start
  else if spaceEnd r.sp < r.start + r.len then some (max r.start (spaceEnd r.sp))
  else none

/-- Two runs share a byte (R253). -/
def Run.meets (a b : Run) : Bool :=
  a.sp == b.sp && decide (a.start < b.start + b.len) && decide (b.start < a.start + a.len)
    && a.len != 0 && b.len != 0

/-- The 64 KiB-aligned ranges that a run touches. -/
def Run.pages (r : Run) : List Nat :=
  if r.len = 0 then []
  else
    let a := r.start.toNat
    upFrom (a / 65536) ((a + r.len - 1) / 65536 + 1 - a / 65536)

/-- Every byte lies within one 64 KiB-aligned range of one space (R253). -/
def onePage (l : List Run) : Bool :=
  match l with
  | [] => true
  | r :: _ => l.all (fun q => q.sp == r.sp && q.pages.all (fun p => r.pages.head? == some p))

/-- A byte read overlaps a byte written, against R253. -/
def overlaps (op : Nat) (s : Shape) (src : Nat) : Bool :=
  let rs := readRuns op s src
  let ws := writeRuns op s
  op != 0x0D && op != 0x0E && rs.any (fun r => ws.any (Run.meets r)) && !onePage (rs ++ ws)

/-- The distinct global ranges that the destination touches (R252 item 3). -/
def dstPages (op : Nat) (s : Shape) : List Nat :=
  (((writeRuns op s).filter (fun r => !r.sp)).flatMap Run.pages).foldl
    (fun acc p => if acc.contains p then acc else acc ++ [p]) []

/-- The parts of core-local runs in each scratchpad block: first address and length. -/
def Run.blocks (r : Run) : List (Nat × Nat) :=
  if !r.sp then []
  else r.pages.map (fun p =>
    let lo := max r.start.toNat (65536 * p)
    (lo, min (r.start.toNat + r.len) (65536 * (p + 1)) - lo))

/-! ### Limits of the entries (item 1 of R252) -/

/-- Offsets of `PARAM` that R250 assigns to a command: none beyond this many bytes, and for some commands a
hole. -/
def paramOk (op : Nat) (s : Shape) : Bool :=
  let zero := fun (off n : Nat) => s.par off n == 0
  if op = 0x0C then zero 52 12
  else if op = 0x0D || op = 0x0E then s.idx % 4 == 0 && zero 52 12
  else if isQnt op then s.scaddr % 4 == 0 && zero 57 7
    && (if op = 0x03 then s.had == 0 else decide (1 ≤ s.had) && decide (s.had ≤ 3))
  else if op = 0x05 then
    decide (s.par 48 1 < 2) && decide (s.par 49 1 < 4) && s.scsrc % 4 == 0 && zero 60 4
  else if isCmp op || isExp op then
    s.res % 4 == 0 && decide (4 + s.d0 / 8 ≤ s.res) && decide (s.res ≤ 65532) && zero 52 12
  else if isDec op || isEnc op then decide (s.key < 8) && zero 61 3
  else s.param == 0

/-- Types and spaces that an entry admits. -/
def typesOk (op : Nat) (s : Shape) : Bool :=
  let st := s.st
  let dt := s.dt
  let nr := s.rnd == 0 && !s.sat
  let same := s.sty == s.dty
  let conv := same && nr || !same
  let pool := !isPool op || (!s.ssp && !s.dsp)
  pool && match op with
    | 0x00 | 0x10 => same && nr
    | 0x02 | 0x11 => true
    | 0x01 => !st.isS && !dt.isS && conv && (!dt.isI4 || s.d1 % 2 == 0)
    | 0x0C => !dt.isS && s.sty == 0 && !s.ssp && nr && s.ss1 == 0 && s.ss2 == 0 && s.ss3 == 0
    | 0x0D => !st.isS && !dt.isS && conv
    | 0x0E => !st.isS && !dt.isS && conv && s.dsp
    | 0x03 | 0x04 =>
      st.isF && (dt == .i8 || dt == .i4 || dt == .e4m3 || dt == .e5m2) && !s.sat
        && (op == 0x03 || s.d0 % s.hsize == 0)
    | 0x05 =>
      (st == .i8 || st == .i4) && s.dty == 0 && nr && s.d0 == 32 && s.dsp && s.dst % s.slot == 0
        && s.ds1 % s.slot == 0 && s.ds2 % s.slot == 0 && s.ds3 % s.slot == 0
    | 0x06 | 0x07 | 0x08 | 0x09 =>
      let wide := op == 0x08 || op == 0x09
      let ok := st == .bf16 || st == .e4m3 || st == .e5m2
        || (wide && (st == .f16 || st == .i8 || st == .n8 || st == .i16 || st == .n16))
      same && nr && ok && s.d0 % 8 == 0 && decide (8 ≤ s.d0) && decide (s.d0 ≤ 4096)
        && (op != 0x09 || (!s.ssp && s.dsp))
    | _ =>
      let cipher := if isDec op then s.ss1 == 0 && s.ss2 == 0 && s.ss3 == 0
        else s.ds1 == 0 && s.ds2 == 0 && s.ds3 == 0
      st == .n8 && dt == .n8 && nr && decide (s.len < 2 ^ 32) && cipher

/-- The multiples of `D0` of R251. A CPYT to a 4-bit type asks for an even `D1` alone (R260), whatever its source type
(DESIGN CHOICE, log 68). -/
def countsOk (op : Nat) (s : Shape) : Bool :=
  let m := fun (t : ElemTy) => if t.isS then s.d0 % 32 == 0 else if t.isI4 then s.d0 % 2 == 0 else true
  (op == 0x0C || m s.st) && (op == 0x01 || op == 0x05 || m s.dt)

/-- The rows of the compressed side start at multiples of 4 (R268): one that does not is a shape fault (DESIGN CHOICE,
log 76). -/
def headersOk (op : Nat) (s : Shape) (src : Nat) : Bool :=
  if isCmp op then s.rows.all (fun r => s.dstRow r % 4 == 0)
  else if isExp op then s.rows.all (fun r => s.srcRow src r % 4 == 0)
  else true

/-- A record breaks item 1 of R252: `prog` for a program's, `world` when its context has a world. So does a scratchpad
destination with one of bits 63:32 set, which R248 says are zero (DESIGN CHOICE, log 76). -/
def shapeBad (op : Nat) (s : Shape) (src tp : Nat) (prog world : Bool) : Bool :=
  s.rsvd != 0 || s.d0 == 0 || s.d1 == 0 || s.d2 == 0 || s.d3 == 0
    || (prog && s.cls == 15) || (tp != 0 && s.toks.contains tp)
    || (s.dsp && decide (2 ^ 32 ≤ s.dst))
    || !paramOk op s || !typesOk op s || !countsOk op s || !headersOk op s src
    || ((isDec op || isEnc op) && s.key == 1 && !world)

/-! ### Keys of bytes -/

/-- Key of a byte: core-local bytes stand above the 52-bit addresses. -/
def byteKey (sp : Bool) (a : Int) : Nat := (if sp then 2 ^ 56 else 0) + a.toNat
def lineKey (k : Nat) : Nat := k / 64 * 64
def keyIsSp (k : Nat) : Bool := decide (2 ^ 56 ≤ k)
def keyAddr (k : Nat) : Nat := k % 2 ^ 56

/-- The 64-byte lines of a run, ascending. -/
def Run.lines (r : Run) : List Nat :=
  if r.len = 0 || r.start < 0 then []
  else
    let k := byteKey r.sp r.start
    (upFrom (k / 64) ((k + r.len - 1) / 64 + 1 - k / 64)).map (64 * ·)

/-- What a command has read: lines and poisoned words. -/
structure Got where
  data : Tab (List Byte)
  poison : List Nat

/-- A line has been read. -/
def Got.has (g : Got) (line : Nat) : Bool := g.data.any (fun e => e.1 == line)
def Got.hasRun (g : Got) (r : Run) : Bool := r.lines.all g.has
/-- A byte read. -/
def Got.byte (g : Got) (k : Nat) : Byte := (g.data.get [] (lineKey k)).getD (k % 64) 0
def Got.bytes (g : Got) (sp : Bool) (a : Int) (n : Nat) : List Byte :=
  (upFrom (byteKey sp a) n).map g.byte
def Got.num (g : Got) (sp : Bool) (a : Int) (n : Nat) : Nat := ofLe (g.bytes sp a n)
/-- A poisoned word lies in `n` bytes. -/
def Got.bad (g : Got) (sp : Bool) (a : Int) (n : Nat) : Bool :=
  let k := byteKey sp a
  g.poison.any (fun w => decide (k / 4 ≤ w) && decide (w ≤ (k + n - 1) / 4) && n != 0)

/-- Index entry of CGATH and CSCAT (R262), and whether it is poisoned. -/
def Got.index (g : Got) (s : Shape) (i1 : Nat) : Int × Bool :=
  (sext (g.num true (s.idx + 4 * i1) 4) 32, g.bad true (s.idx + 4 * i1) 4)

/-- Source row of CGATH and destination row of CSCAT for an index. -/
def gatherRow (s : Shape) (src : Nat) (i : Int) (r : Nat × Nat × Nat) : Run :=
  ⟨s.ssp, (src : Int) + i * s.ss1 + r.2.1 * s.ss2 + r.2.2 * s.ss3, rowBytes s.st s.d0⟩
def scatterRow (s : Shape) (i : Int) (r : Nat × Nat × Nat) : Run :=
  ⟨true, (s.dst : Int) + i * s.ds1 + r.2.1 * s.ds2 + r.2.2 * s.ds3, rowBytes s.dt s.d0⟩

/-- The header of a compressed row: stored count, flags and reserved byte, mask (R267). -/
def Got.vecHead (g : Got) (s : Shape) (a : Int) : Nat × Nat × Nat :=
  (g.num s.ssp a 2, g.num s.ssp (a + 2) 2, g.num s.ssp (a + 4) (s.d0 / 8))
/-- `Z` of R267. -/
def vecLen (s : Shape) (len : Nat) : Nat := 4 + s.d0 / 8 + len * s.st.width / 8
/-- The set bits of a mask. -/
def popCount (n w : Nat) : Nat := ((List.range n).filter (fun i => bitAt w i)).length
/-- The bytes that CEXPB reads of a compressed row: `Z`, of a malformed row too. DESIGN CHOICE (log 68): of a row whose
`Z` passes `RES`, the `RES` bytes that the command has there. -/
def vecRead (s : Shape) (len : Nat) : Nat := min (vecLen s len) (max s.res (4 + s.d0 / 8))

/-- A compressed row is malformed (R269). -/
def vecBad (s : Shape) (h : Nat × Nat × Nat) : Bool :=
  h.2.1 != 0 || h.1 != popCount s.d0 h.2.2 || decide (s.res < vecLen s h.1)

/-- The runs a command must read, given what it has read: an index array or a header is read before the
bytes it leads to (R262, R269). -/
def needRuns (op : Nat) (s : Shape) (src : Nat) (ok : Run → Bool) (g : Got) : List Run :=
  if op = 0x0D then
    let ix : Run := ⟨true, s.idx, 4 * s.d1⟩
    ix :: (if g.hasRun ix then
      s.rows.filterMap (fun r =>
        let (i, bad) := g.index s r.1
        let q := gatherRow s src i r
        if bad || q.outside.isSome || !ok q then none else some q)
      else [])
  else if op = 0x07 then
    s.rows.flatMap (fun r =>
      let a := s.srcRow src r
      let h : Run := ⟨s.ssp, a, 4 + s.d0 / 8⟩
      h :: (if g.hasRun h then [⟨s.ssp, a, vecRead s (g.vecHead s a).1⟩] else []))
  else readRuns op s src

/-- The lines still to be read. -/
def needLines (op : Nat) (s : Shape) (src : Nat) (ok : Run → Bool) (g : Got) : List Nat :=
  ((needRuns op s src ok g).flatMap Run.lines).foldl
    (fun acc l => if acc.contains l || g.has l then acc else acc ++ [l]) []

/-! ### Elements -/

/-- The elements of a row as read, with poison: not for se types. -/
def Got.els (g : Got) (sp : Bool) (t : ElemTy) (a : Int) (n : Nat) : List (Nat × Bool) :=
  let w := t.width
  (List.range n).map (fun i =>
    if w = 4 then
      let b : Int := a + (i / 2 : Nat)
      (g.num sp b 1 / 16 ^ (i % 2) % 16, g.bad sp b 1)
    else
      let b : Int := a + (i * (w / 8) : Nat)
      (g.num sp b (w / 8), g.bad sp b (w / 8)))

/-- The elements of a row decoded, with poison (R251, R259). An se element takes the poison of its block's
header and of its own bits. -/
def Got.vals (g : Got) (sp : Bool) (t : ElemTy) (a : Int) (n : Nat) : List (Fp × Bool) :=
  if t.isS then
    let w := t.width
    (List.range n).map (fun i =>
      let b : Int := a + (i / 32 * seBytes w : Nat)
      let lo := 16 + w * (i % 32)
      (seElem w (g.num sp b (seBytes w)) (i % 32),
        g.bad sp b 2 || g.bad sp (b + (lo / 8 : Nat)) ((lo + w - 1) / 8 + 1 - lo / 8)))
  else (g.els sp t a n).map (fun (e, p) => (decodeEl t e, p))

/-- Bytes of elements of a type that is not se. -/
def packEls (t : ElemTy) (l : List (Nat × Bool)) : List (Byte × Bool) :=
  if t.width = 4 then
    (chunksOf 2 l.length l).map (fun c =>
      (BitVec.ofNat 8 (packElems 4 (c.map (·.1))), c.any (·.2)))
  else l.flatMap (fun (e, p) => (toLe (t.width / 8) e).map (fun b => (b, p)))

/-- Values converted to a destination type and packed: R30 for an se type. -/
def packVals (t : ElemTy) (rm : RMode) (sat : Bool) (l : List (Fp × Bool)) : List (Byte × Bool) :=
  if t.isS then
    (chunksOf 32 l.length l).flatMap (fun c =>
      let p := c.any (·.2)
      (toLe (seBytes t.width) (seEncode t.width rm (c.map (·.1)))).map (fun b => (b, p)))
  else packEls t (l.map (fun (v, p) => (convert false t rm sat v, p)))

/-! ### What a command makes of what it read -/

/-- Writes in order, and the causes of R257. -/
structure Made where
  out : List (Nat × Byte × Bool)
  causes : List Nat

/-- Bytes placed from an address. -/
def putAt (sp : Bool) (a : Int) (l : List (Byte × Bool)) : List (Nat × Byte × Bool) :=
  ((upFrom (byteKey sp a) l.length).zip l).map (fun (k, b, p) => (k, b, p))

def Made.join (l : List Made) : Made := ⟨l.flatMap (·.out), l.flatMap (·.causes)⟩

/-- A byte of a row of se blocks takes the poison of every word that holds a bit of an element of which the byte holds
a bit; a byte of a block's header takes that of its own word (R257). -/
def Got.seBad (g : Got) (s : Shape) (sa : Int) (i : Nat) : Bool :=
  let w := s.st.width
  let j := i % seBytes w
  if j < 2 then g.bad s.ssp (sa + i) 1
  else
    let b : Int := sa + (i - j : Nat)
    let lo := 2 + w * (8 * (j - 2) / w) / 8
    let hi := 2 + (w * ((8 * (j - 2) + 7) / w) + w - 1) / 8
    g.bad s.ssp (b + lo) (hi + 1 - lo)

/-- A row copied bit for bit, or converted when the types differ. -/
def copyRow (g : Got) (s : Shape) (conv : Bool) (sa : Int) : List (Byte × Bool) :=
  if conv then packVals s.dt s.rm s.sat (g.vals s.ssp s.st sa s.d0)
  else if s.st.isS then
    (upFrom 0 (rowBytes s.st s.d0)).map (fun (i : Nat) =>
      ((g.bytes s.ssp (sa + i) 1).headD 0, g.seBad s sa i))
  else packEls s.st (g.els s.ssp s.st sa s.d0)

/-- Exact quotient converted (R264): `x / s` with one rounding, saturating. -/
def quotConv (t : ElemTy) (rm : RMode) (x s : Fp) : Nat :=
  match x, s with
  | .fin n m e, .fin _ q f =>
    let num := m * 2 ^ (e - f).toNat
    let den := q * 2 ^ (f - e).toNat
    if t.isInt then
      let v : Int := roundQ rm n num den
      wrap (clamp (if n then -v else v) (intLo t) (intHi t)) t.width
    else roundFmtQ (fmtOf t) rm true n num den
  | .fin n _ _, .inf _ => convert false t rm true (.fin n 0 0)
  | .inf _, .inf _ => convert false t rm true .nan
  | .nan, _ => convert false t rm true .nan
  | _, .nan => convert false t rm true .nan
  | .inf n, _ => convert false t rm true (.inf n)

/-- The rotation of R264 on a row, `h` elements at a time. A sum that is exactly zero is +0, of addends that are all −0
too (DESIGN CHOICE, log 68). -/
def rotate (h : Nat) (xs : List Fp) : List Fp :=
  let e : Int := if h = 16 then -2 else -3
  (chunksOf h xs.length xs).flatMap (fun c =>
    (List.range h).map (fun k =>
      Fp.mul (.fin false 1 e) (sumFp ((List.range h).map (fun j =>
        let x := c.getD j .zero
        if (popCount 8 (Nat.land j k)) % 2 = 1 then x.negate else x)))))

/-- `qmax` of R264. -/
def qmaxOf (t : ElemTy) : Nat :=
  match t with
  | .i8 => 127
  | .i4 => 7
  | .e4m3 => 448
  | _ => 57344

/-- The scale of a row (R264): its bf16 bits. -/
def quantScale (qmax : Nat) (xs : List Fp) : Nat :=
  let f := fmtOf .bf16
  if xs.any Fp.isNan then f.nanEnc
  else
    let a := xs.foldl (fun a x => if Fp.lt a x.abs then x.abs else a) Fp.zero
    match a with
    | .inf _ => f.maxEnc
    | .fin _ m e =>
      if m = 0 then 0x3F80
      else
        let s := roundFmtQ f .rne false false (numOf m e) (qmax * denOf e)
        if s = 0 then 1 else s
    | .nan => f.nanEnc

/-- A row of CQNT (R264): its scale entry, then its elements. -/
def quantRow (g : Got) (s : Shape) (src : Nat) (r : Nat × Nat × Nat) : Made :=
  let vs := g.vals s.ssp s.st (s.srcRow src r) s.d0
  let p := vs.any (·.2)
  let xs := vs.map (·.1)
  let xs := if s.had = 0 then xs else rotate s.hsize xs
  let sc := quantScale (qmaxOf s.dt) xs
  let row := packEls s.dt (xs.map (fun x => (quotConv s.dt s.rm x (decodeF (fmtOf .bf16) sc), p)))
  let ent := (toLe 4 (sc + s.had * 2 ^ 16)).map (fun b => (b, p))
  ⟨putAt s.dsp (s.scaddr + 4 * s.rowNo r : Nat) ent ++ putAt s.dsp (s.dstRow r) row, if p then [4] else []⟩

/-- A sorted-weight record (R36, R37): code, scale bits, weights in original order, order table. -/
def recMake (code scale : Nat) (ws : List Int) (order : List Nat) : Nat :=
  let b := recBits code
  let head := code * 2 ^ 8 + scale * 2 ^ 16
  if recIsDiff code then
    let qs := order.map (fun i => ws.getD i 0)
    let ds := (qs.zip (qs.drop 1)).map (fun (a, c) => wrap (c - a) b)
    head + wrap (qs.getD 0 0) 8 + 2 ^ 32 * packElems 5 order + 2 ^ 192 * packElems b ds
  else head + 2 ^ 32 * packElems b (ws.map (fun w => wrap w b))

/-- The format code of R266 for weights and their order. -/
def sortCode (rsz dense : Bool) (ws : List Int) (order : List Nat) : Option Nat :=
  let qs := order.map (fun i => ws.getD i 0)
  let ds := (qs.zip (qs.drop 1)).map (fun (a, c) => c - a)
  let all := fun (n : Int) => ds.all (fun d => decide (d ≤ n))
  if !rsz then
    if !dense && all 3 then some 0x12
    else if ws.all (fun w => decide (-8 ≤ w) && decide (w ≤ 7)) then some 0x24
    else none
  else if dense then some 0x28
  else if all 15 then some 0x14
  else some 0x18

/-- A row of CSORT (R266). -/
def sortRow (g : Got) (s : Shape) (src : Nat) (r : Nat × Nat × Nat) : Made :=
  let es := g.els s.ssp s.st (s.srcRow src r) 32
  let ws := es.map (fun (e, _) => intOf s.st e)
  let ent : Int := (s.scsrc + 4 * s.rowNo r : Nat)
  let p := es.any (·.2) || (s.scarr && g.bad s.ssp ent 4)
  let scale := if s.scarr then g.num s.ssp ent 2 else s.par 50 2
  let order := sortBy (fun a b => decide (ws.getD a 0 < ws.getD b 0)) (List.range 32)
  let put := fun (v : Nat) => putAt s.dsp (s.dstRow r) ((toLe s.slot v).map (fun b => (b, p)))
  let four := if p then [4] else []
  match sortCode s.rsz s.dense ws order with
  | none => ⟨put 0, 7 :: four⟩
  | some code => ⟨put (recMake code scale ws order), four⟩

/-- A row of CCMPB and CCMPP (R269). All `RES` bytes of a poisoned row are poisoned (R257); the bits under the mark past
`Z` are zeros, of CCMPB too (DESIGN CHOICE, log 68). -/
def compressRow (g : Got) (s : Shape) (op src : Nat) (r : Nat × Nat × Nat) : Made :=
  let es := g.els s.ssp s.st (s.srcRow src r) s.d0
  let p := es.any (·.2)
  let kept := es.filter (fun e => e.1 != 0)
  let mask := (List.range s.d0).foldl (fun m i => if (es.getD i (0, false)).1 != 0 then m + 2 ^ i else m) 0
  let z := vecLen s kept.length
  let ovr := decide (s.res < z)
  let body := toLe 2 kept.length ++ toLe 1 (b2n ovr) ++ [0] ++ toLe (s.d0 / 8) mask
    ++ kept.flatMap (fun e => toLe (s.st.width / 8) e.1)
  let body := if ovr then body.take s.res
    else if op = 0x08 || p then body ++ List.replicate (s.res - z) 0 else body
  ⟨putAt s.dsp (s.dstRow r) (body.map (fun b => (b, p))), (if ovr then [1] else []) ++ (if p then [4] else [])⟩

/-- Elements of an expanded row: the next stored value where the mask bit is set. -/
def expandEls (mask : Nat) : List Nat → Nat → Nat → List Nat
  | _, 0, _ => []
  | vs, n + 1, i =>
    if bitAt mask i then
      match vs with
      | [] => 0 :: expandEls mask [] n (i + 1)
      | v :: vs => v :: expandEls mask vs n (i + 1)
    else 0 :: expandEls mask vs n (i + 1)

/-- A row of CEXPB and CEXPP (R269): the poison of every byte read counts, of a malformed row too; CEXPP reads all `RES`
bytes. -/
def expandRow (g : Got) (s : Shape) (op src : Nat) (r : Nat × Nat × Nat) : Made :=
  let a := s.srcRow src r
  let h := g.vecHead s a
  let bad := vecBad s h
  let n := if op = 0x09 then s.res else vecRead s h.1
  let p := g.bad s.ssp a n
  let w := s.st.width / 8
  let vals := (List.range h.1).map (fun i => g.num s.ssp (a + (4 + s.d0 / 8 + i * w : Nat)) w)
  let es := if bad then List.replicate s.d0 0 else expandEls h.2.2 vals s.d0 0
  ⟨putAt s.dsp (s.dstRow r) (packEls s.dt (es.map (fun e => (e, p)))),
    (if bad then [2] else []) ++ (if p then [4] else [])⟩

/-- CDEC and its like (R272) under a key, the IV of the record. -/
def cipher (g : Got) (s : Shape) (op src key : Nat) : Made :=
  let iv := ofBe (toLe 12 (s.par 48 12))
  let dstKeys := s.rows.flatMap (fun r => (upFrom 0 s.d0).map (fun (i : Nat) => s.dstRow r + (i : Int)))
  if isDec op then
    let ct := g.bytes s.ssp src s.len
    let p := g.bad s.ssp src (s.len + 16)
    let tag := g.bytes s.ssp (src + s.len : Nat) 16
    let clear := match gcmOpen key iv ct tag with
      | some m => m
      | none => if p then gcmText (sm4Keys key) iv ct else List.replicate s.len 0
    let ok := (gcmOpen key iv ct tag).isSome
    ⟨(dstKeys.zip clear).map (fun (a, b) => (byteKey s.dsp a, b, p)),
      (if p then [4] else []) ++ (if !p && !ok then [3] else [])⟩
  else
    let parts := s.rows.map (fun r =>
      (g.bytes s.ssp (s.srcRow src r) s.d0, g.bad s.ssp (s.srcRow src r) s.d0))
    let p := parts.any (·.2)
    let (ct, tag) := gcmSeal key iv (parts.flatMap (·.1))
    ⟨putAt s.dsp s.dst ((ct ++ tag).map (fun b => (b, p))), if p then [4] else []⟩

/-- The bytes of CPYT, converted when the types differ (R260): row by row, each with the value of the position that is
later in the order of R251, i0 fastest and then i1. Two 4-bit elements that share a byte are one position of it. -/
def transposed (g : Got) (s : Shape) (src : Nat) : Made :=
  let el := fun (i0 i1 i2 i3 : Nat) =>
    ((g.els s.ssp s.st (s.srcRow src (i1, i2, i3)) (i0 + 1)).getD i0 (0, false))
  let bytes := fun (i0 i2 i3 : Nat) (i1s : List Nat) =>
    let es := i1s.map (fun i1 => el i0 i1 i2 i3)
    if s.sty = s.dty then packEls s.dt es
    else packVals s.dt s.rm s.sat (es.map (fun (e, p) => (decodeEl s.st e, p)))
  let rows := tRows s
  let out := rows.flatMap (fun ((i0, i2, i3), da) => putAt s.dsp da (bytes i0 i2 i3 (List.range s.d1)))
  let n := if s.dt.width = 4 then 2 else 1
  let inOrder := (List.range s.d3).flatMap (fun (i3 : Nat) => (List.range s.d2).flatMap (fun (i2 : Nat) =>
    (chunksOf n s.d1 (List.range s.d1)).flatMap (fun i1s => (List.range s.d0).flatMap (fun (i0 : Nat) =>
      let da : Int := (s.dst : Int) + i0 * s.ds1 + i2 * s.ds2 + i3 * s.ds3
      putAt s.dsp (da + (i1s.headD 0 * s.dt.width / 8 : Nat)) (bytes i0 i2 i3 i1s)))))
  let keys := out.map (·.1)
  let out := if keys.eraseDups.length = keys.length then out
    else
      let back := inOrder.reverse
      out.map (fun e => (back.find? (fun b => b.1 == e.1)).getD e)
  ⟨out, if inOrder.any (·.2.2) then [4] else []⟩

/-- The writes of a command and its causes: `ok` says that rows of CGATH and CSCAT meet only blocks of the
context's owner. -/
def makeOut (op : Nat) (s : Shape) (src key : Nat) (ok : Run → Bool) (g : Got) : Made :=
  let plain := fun (conv : Bool) (sa da : Int) (sp : Bool) =>
    let l := copyRow g s conv sa
    (⟨putAt sp da l, if l.any (·.2) then [4] else []⟩ : Made)
  match op with
  | 0x00 | 0x10 => .join (s.rows.map (fun r => plain false (s.srcRow src r) (s.dstRow r) s.dsp))
  | 0x02 | 0x11 => .join (s.rows.map (fun r => plain true (s.srcRow src r) (s.dstRow r) s.dsp))
  | 0x01 => transposed g s src
  | 0x0C =>
    let e := s.par 48 4 % 2 ^ s.dt.width
    .join (s.rows.map (fun r => ⟨putAt s.dsp (s.dstRow r) (packEls s.dt (List.replicate s.d0 (e, false))), []⟩))
  | 0x0D =>
    .join (s.rows.map (fun r =>
      let (i, bad) := g.index s r.1
      let q := gatherRow s src i r
      if bad then ⟨[], [4]⟩
      else if q.outside.isSome || !ok q then ⟨[], [5]⟩
      else plain (s.sty != s.dty) q.start (s.dstRow r) s.dsp))
  | 0x0E =>
    .join (s.rows.map (fun r =>
      let (i, bad) := g.index s r.1
      let q := scatterRow s i r
      if bad then ⟨[], [4]⟩
      else if q.outside.isSome || !ok q then ⟨[], [5]⟩
      else plain (s.sty != s.dty) (s.srcRow src r) q.start true))
  | 0x03 | 0x04 => .join (s.rows.map (quantRow g s src))
  | 0x05 => .join (s.rows.map (sortRow g s src))
  | 0x06 | 0x08 => .join (s.rows.map (compressRow g s op src))
  | 0x07 | 0x09 => .join (s.rows.map (expandRow g s op src))
  | _ => cipher g s op src key

end Sys2Proof.Machine
end

