-- ==== Sys2Proof/Machine/Order.lean ====
section
/-!
DEFINITION. Where accesses go and what they must not pass (R124 to R127, R140, R343): the remote destinations, the
triples of R140, the remote writes in flight that are held, the writes in flight that are due.
-/
namespace Sys2Proof.Machine

/-! ### What is outstanding -/

/-- Commands of a core: its copy engine's, and those it gave to its die's pool engines. -/
def State.cmdsOf (s : State) (c : Nat) : List Cmd :=
  (s.core c).cmds ++ ((s.die (dieOf c)).pool.map (·.2)).filter (fun k => k.core == c)

/-- A write in flight to memory of the core (R126). -/
def isLocal : PWrite → Bool
  | .sp .. => true
  | .spn .. => true
  | .view .. => true
  | .spill .. => true
  | _ => false

/-- A write waits for a lantern, and so do later remote writes of the context (R140). -/
def isRemote : PWrite → Bool
  | .lantern .. => true
  | .full .. => true
  | _ => false

/-- Class of a remote write. -/
def remoteCls : PWrite → Nat
  | .lantern cls _ _ _ => cls
  | .full cls _ _ => cls
  | _ => 0

/-- A remote write with its relaxed bit set. -/
def remoteRlx : PWrite → Bool
  | .lantern _ rlx _ _ => rlx
  | .full _ rlx _ => rlx
  | _ => false

/-! ### Destinations (R140, R258, R343) -/

/-- Where an access goes as packets: package and die, for memory and register pages of another die or another package,
and for the pool and the host behind the die of their port (R258, R343). -/
def State.remoteOf (s : State) (c pa : Nat) : Option (Nat × Nat) :=
  let die := fun (d : Nat) => if d = dieOf c then none else some (s.pkgNum, d)
  match s.place pa with
  | .sram d => die d
  | .corePriv k _ => die (dieOf k)
  | .coreShared k _ => die (dieOf k)
  | .dieShared d _ => die d
  | .far p => some (p, farDie pa)
  | .pool port => some (s.pkgNum, portDie port)
  | .host => some (s.pkgNum, portDie 16)
  | .none => none

/-- The destination of R140 that an address lies at: a die of a package, a pool device, a host. -/
def State.destOf (s : State) (pa : Nat) : Nat :=
  match s.place pa with
  | .sram d => pairKey s.pkgNum d
  | .corePriv k _ => pairKey s.pkgNum (dieOf k)
  | .coreShared k _ => pairKey s.pkgNum (dieOf k)
  | .dieShared d _ => pairKey s.pkgNum d
  | .far p => pairKey p (farDie pa)
  | .pool _ => 2 ^ 20 + s.physKey pa / 2 ^ 72
  | .host => 2 ^ 16
  | .none => 2 ^ 17

/-- The destination of a posted packet. -/
def State.destOfPacket (s : State) (p : Packet) : Nat :=
  if p.type = 3 then s.destOf p.addr else pairKey p.dstPkg p.dstDie

/-- A physical address is that of a wake register, within its die's pages (R414). -/
def isWakeReg (pa : Nat) : Bool :=
  let o := pa % 2 ^ 41
  let q := (o - 0x100000000) % 0x1000000
  decide (0x100000000 ≤ o) && decide (o < 0x108000000) && decide (0x208000 ≤ q) && decide (q < 0x208200)

/-- The package and die whose lanterns and posted packets stand in the triple of an access (R140, R141): of another die's
or package's memory and register pages, of a wake register (R414), and of the own die's cluster SRAM, where an access is of
the triple of the window writes to that die (DEDUCED, log 67). None for the pool and the host, to which no lantern goes. -/
def State.tripleDie (s : State) (c pa : Nat) : Option (Nat × Nat) :=
  match s.place pa with
  | .sram d => some (s.pkgNum, d)
  | .dieShared d _ => if isWakeReg pa then some (s.pkgNum, d) else s.remoteOf c pa
  | .pool _ => none
  | .host => none
  | _ => s.remoteOf c pa

/-- The wake register at an address: its package and die, for one of another die (R414). -/
def State.wakeOf (s : State) (c pa : Nat) : Option (Nat × Nat) :=
  if isWakeReg pa then
    match s.place pa with
    | .dieShared .. => s.remoteOf c pa
    | .far _ => s.remoteOf c pa
    | _ => none
  else none

/-- A physical address lies in the register pages of a core or a die (R110). -/
def isRegPage (pa : Nat) : Bool :=
  let o := pa % 2 ^ 41
  !bitAt pa 51 && decide (0x100000000 ≤ o) && decide (o < 0x108000000) && decide ((o - 0x100000000) % 0x1000000 < 0x210000)

/-! ### Order within a triple (R140) -/

/-- A remote write in flight of a core that goes to a die in a class. -/
def Pend.goesTo (p : Pend) (pkg die cls : Nat) : Bool :=
  match p.w with
  | .lantern k _ _ els => k == cls && els.any (fun e => e.pkg == pkg && e.die == die)
  | .full k _ ps => k == cls && ps.any (fun e => e.pkg == pkg && e.die == die)
  | _ => false

/-- An earlier window write of the triple is still in flight (R140). -/
def State.windowBefore (s : State) (c pkg die cls id : Nat) : Bool :=
  [(s.core c).bank0, (s.core c).bank1].any (fun o =>
    match o with
    | some x => x.regs.pend.any (fun p => decide (p.seq < id) && p.goesTo pkg die cls)
    | none => false)

def Cmd.shp (k : Cmd) : Shape := Shape.ofNat k.shape

/-- Where a page of a command goes: `none` for the bounce buffer. -/
def Cmd.target (k : Cmd) (va : Nat) : Option Nat :=
  if k.phys then some va
  else match k.pages.find? (fun (e : Nat × Option Nat) => e.1 == va / 65536) with
    | some (_, some pa) => some (pa + va % 65536)
    | some (_, none) => none
    | none => some va

/-- A command has writes to a die still to send: of one whose pages are not walked yet the model takes it that it may
(log 67). -/
def State.cmdAims (s : State) (k : Cmd) (pkg die : Nat) : Bool :=
  k.phase != .finishing && (k.phase == .walk || (dstPages k.op k.shp).any (fun p =>
    match k.target (65536 * p) with
    | some pa => s.tripleDie k.core pa == some (pkg, die)
    | none => false))

/-- An earlier store or copy command of the core has a write to a die and class of a window write still to send, which a
strict one does not pass (R140, R313). -/
def State.storeBefore (s : State) (c : Nat) (p : Pend) : Bool :=
  let cls := remoteCls p.w
  s.accs.any (fun a =>
      a.core == c && !a.sh && !a.bounce && a.cls == cls && decide (a.id < p.seq)
        && (match a.op with | .store .. => true | _ => false)
        && (!a.sent || (s.remoteOf c a.pa).isNone)
        && (match s.tripleDie c a.pa with | some (pkg, die) => p.goesTo pkg die cls | none => false))
    || (s.cmdsOf c).any (fun k =>
      !k.sh && k.cls == cls && decide (k.id < p.seq)
        && (match p.w with
          | .lantern _ _ _ els => els.any (fun e => s.cmdAims k e.pkg e.die)
          | .full _ _ ps => ps.any (fun e => s.cmdAims k e.pkg e.die)
          | _ => false))

/-- Lanterns of a triple with entries of the core are emitted and have still to leave (R141, R361). -/
def State.leavingFor (s : State) (c cls dest : Nat) : Bool :=
  (s.die (dieOf c)).leaving.any (fun e => e.2.hasCore c && e.2.cls == cls && pairKey e.2.pkg e.2.die == dest)

/-- Dies that a remote write in flight goes to. -/
def remoteDests : PWrite → List (Nat × Nat)
  | .lantern _ _ _ els => els.map (fun e => (e.pkg, e.die))
  | .full _ _ ps => (ps.filter (fun e => e.mask != 0)).map (fun e => (e.pkg, e.die))
  | _ => []

/-- A remote write waits by itself: for a fence (R127), for a lantern, for a store or command that it must not pass (R140),
a full store for the lanterns of its triple to leave (R141). -/
def State.waitsAlone (s : State) (c b : Nat) (p : Pend) : Bool :=
  s.fences.any (fun f => f.core == c && !f.sh && decide (f.id < p.seq) && bitAt f.mask (remoteCls p.w))
    || (match s.ctx c b with | some x => x.frozen == some .lanterns | none => false)
    || (!remoteRlx p.w && s.storeBefore c p)
    || (match p.w with
      | .full cls _ ps => ps.any (fun e => e.mask != 0 && s.leavingFor c cls (pairKey e.pkg e.die))
      | _ => false)

/-- Of remote writes in issue order, those that wait: by themselves, or a strict one for one before it of its triple
(R140). -/
def State.heldAmong (s : State) (c : Nat) : List (Nat × Pend) → List Pend → List Pend
  | [], held => held
  | (b, p) :: l, held =>
    let behind := held.any (fun q => remoteCls q.w == remoteCls p.w && (remoteDests p.w).any (remoteDests q.w).contains)
    s.heldAmong c l (if s.waitsAlone c b p || (!remoteRlx p.w && behind) then held ++ [p] else held)

/-- The remote writes in flight of a core's contexts that wait. -/
def State.heldRemotes (s : State) (c : Nat) : List Pend :=
  let of := fun (b : Nat) => ((s.regsOf c b false).pend.filter (fun p => isRemote p.w)).map (fun p => (b, p))
  s.heldAmong c (sortBy (fun a b => decide (a.2.seq < b.2.seq)) (of 0 ++ of 1)) []

/-- A remote write in flight waits (R127, R140). -/
def State.pendHeld (s : State) (c : Nat) (p : Pend) : Bool :=
  isRemote p.w && (s.heldRemotes c).any (fun q => q.seq == p.seq)

/-- A posted write that a core issued before an access, of its class and destination, has still to leave, or to be made at the
own die (R140): of whichever of its contexts, by a store or by a command, which may aim anywhere until its pages are walked
(log 67). -/
def State.storesAhead (s : State) (c cls id dest : Nat) : Bool :=
  s.accs.any (fun a =>
      a.core == c && !a.bounce && a.cls == cls && decide (a.id < id) && s.destOf a.pa == dest
        && (match a.op with | .store .. => true | _ => false) && (!a.sent || (s.remoteOf c a.pa).isNone))
    || (s.cmdsOf c).any (fun k =>
      k.cls == cls && decide (k.id < id) && k.phase != .finishing && (k.phase == .walk || (dstPages k.op k.shp).any (fun p =>
        match k.target (65536 * p) with
        | some pa => s.destOf pa == dest
        | none => false)))

/-! ### Writes in flight that are due (R94) -/

/-- Time line of a context's writes in flight. -/
def Ctx.line (x : Ctx) (cue : Nat) : Nat := if x.hnd then cue else x.lcue cue

/-- The writes due, in the order of R94, those held left out. -/
def State.dueList (s : State) (c b : Nat) (sh : Bool) : List Pend :=
  let t := if sh then s.cue else ((s.ctx c b).getD {}).line s.cue
  sortBy pendBefore ((s.regsOf c b sh).pend.filter (fun p => decide (p.due ≤ t) && (sh || !s.pendHeld c p)))

end Sys2Proof.Machine
end

