-- ==== Sys2Proof/Machine/Pends.lean ====
section
/-!
DEFINITION. Writes in flight made in their cycles (R94, R175, R200, R283, R320, R321, R357) and all at
once by the drain of R378.
-/
namespace Sys2Proof.Machine

/-- Elements of an accumulator set, their marks as given. -/
def Ctx.setTiles (x : Ctx) (els : List (Nat × Word)) (marks : List (Nat × Bool)) : Ctx :=
  let x := { x with tiles := els.foldl (fun (t : Tab Word) (e : Nat × Word) => t.put e.1 e.2) x.tiles }
  { x with regs := (els.foldl (fun (r : Regs) (e : Nat × Word) => r.setMark (codeTile e.1) false) x.regs).setMarks (codeTile 0) marks }

/-- A number of the registers a stagehand holds itself (R424). -/
def Regs.putCreg (r : Regs) (n : Nat) (v : DWord) : Regs :=
  if n = 0x18 then { r with slim := v.setWidth 32 } else r

/-- A context's register takes a value. -/
def Ctx.putCreg (x : Ctx) (n : Nat) (v : DWord) : Ctx :=
  let w : Word := v.setWidth 32
  if 0x29 ≤ n && n ≤ 0x2B then { x with
      nval := x.nval.put (n - 0x28) (v.setWidth 16)
      regs := x.regs.setMark (codeN (n - 0x28)) false }
  else if 0x200 ≤ n && n ≤ 0x247 then { x with looptab := x.looptab.put (n - 0x200) w }
  else if 0x300 ≤ n && n ≤ 0x37F then { x with wintab := x.wintab.put (n - 0x300) w }
  else match n with
    | 0x11 => { x with tvec := w }
    | 0x12 => { x with estatus := w }
    | 0x15 => { x with epcs := w }
    | 0x16 => { x with epcv := w }
    | 0x17 => { x with epcm := w }
    | 0x18 => { x with regs := x.regs.putCreg n v }
    | 0x1B => { x with einfo := w }
    | 0x1C => { x with elcue := v }
    | 0x28 => { x with lburn := w }
    | 0x48 => { x with fthdr := w }
    | 0xA0 => { x with ptroot := v }
    | 0xC0 => { x with waitbud := w }
    | _ => x

/-- A b register takes its value from a CWR, which counts as a PBR of cycle `t` (R170, R240). -/
def Regs.putBtgt (r : Regs) (n : Nat) (v : DWord) (t : Nat) : Regs :=
  (r.setB (n - 0x50) (v.setWidth 32) t).setMark (codeB (n - 0x50)) false

/-- `YCTL` is written: `POINT` takes its value, bits 9:8 are cleared by ones (R46, R240). -/
def Ctx.putYctl (x : Ctx) (n : Nat) (v : DWord) : Ctx :=
  let i := n - 0x40
  let old := (x.yctl.get 0 i).toNat
  let keep := fun (j : Nat) => b2n (bitAt old j && !bitAt v.toNat j) * 2 ^ j
  { x with yctl := x.yctl.put i (BitVec.ofNat 32 (v.toNat % 64 + keep 8 + keep 9)) }

/-- A control register of a program takes its value at once; `t` is the issue cycle of the CWR. -/
def Ctx.putProgCreg (x : Ctx) (n : Nat) (v : DWord) (t : Nat) : Ctx :=
  if 0x50 ≤ n && n ≤ 0x57 then { x with regs := x.regs.putBtgt n v t }
  else if 0x40 ≤ n && n ≤ 0x47 then x.putYctl n v
  else x.putCreg n v

/-- The number of the register that a control-register write enters into the operand log (R404), if it is one. -/
def cregCode (n : Nat) : Option Nat :=
  if 0x50 ≤ n && n ≤ 0x57 then some (codeB (n - 0x50))
  else if 0x29 ≤ n && n ≤ 0x2B then some (codeN (n - 0x28)) else none

/-- The low half of `ELCUE`, the one 64-bit register a program writes, stays when its high half is written alone. -/
def Ctx.cregFull (x : Ctx) (n : Nat) (v : DWord) (hi : Bool) : DWord :=
  if hi && n == 0x1C then BitVec.ofNat 64 (v.toNat / 2 ^ 32 * 2 ^ 32 + x.elcue.toNat % 2 ^ 32) else v

/-- A control-register write takes effect: the event of the table that makes it (R238). -/
def cregEvent (c b : Nat) (sh hi : Bool) (num : Nat) (v : DWord) : Instr × EvArg :=
  let n := num % 0x1000
  let a : EvArg := { core := c, bank := if sh then num / 0x1000 else b, n := n, value := v, flag := sh, m := b2n hi }
  if 0x050 ≤ n && n ≤ 0x057 then (.btgtWrite, a)
  else if 0x040 ≤ n && n ≤ 0x047 then (.yctlWrite, a)
  else (.registerWrite, { a with width := b2n sh, flag := true })

/-- A running-sum addition into one lane (R47): the lane and the sticky bits of `YCTL`. -/
def Ctx.yAddLane (x : Ctx) (n l : Nat) (v : Fp) (mark : Bool) : Ctx :=
  let a := yAdd (x.yAt n l) (x.yPoint n) v
  let ctl := (x.yctl.get 0 n).toNat
  let ctl := Nat.lor ctl (b2n a.inexact * 256 + b2n a.ovf * 512)
  { x with
    y := x.y.put (128 * n + l) a.y
    yctl := x.yctl.put n (BitVec.ofNat 32 ctl)
    regs := x.regs.setMark (codeYLane n l) (mark || x.regs.mark (codeYLane n l)) }

/-- The format table and its header from an image of 516 bytes (R42). -/
def Ctx.setFtab (x : Ctx) (bs : List Byte) : Ctx :=
  let slots := chunksOf 2 256 (bs.drop 4)
  { x with
    fthdr := BitVec.ofNat 32 (ofLe (bs.take 4))
    ftab := ((List.range 256).zip slots).foldl (fun (t : Tab (BitVec 16)) e =>
      let v := ofLe e.2
      if v = 0 then t.del e.1 else t.put e.1 (BitVec.ofNat 16 v)) x.ftab }

/-- Tags set on scratchpad blocks; one in a transfer takes its tag at the end of it (R106). -/
def Core.setTags (k : Core) (first last tag : Nat) : Core :=
  { k with otag := (upFrom first (last + 1 - first)).foldl (fun (t : Tab Nat) n => t.put n tag) k.otag }

/-- Elements enter lanterns in order; what finds no lantern is given back (R357, R360). -/
def State.enterAll (s : State) (c b cls own lburn : Nat) (rlx flushed : Bool) :
    List LElem → State × List LElem
  | [] => (s, [])
  | e :: es =>
    match s.enterLantern c b cls own lburn rlx flushed e with
    | some s => s.enterAll c b cls own lburn rlx flushed es
    | none => (s, e :: es)

/-- A view write stands for views at once: the values before the update that they had not seen are gone (R321). -/
def PWrite.unsee (keys : List Nat) : PWrite → PWrite
  | .tileSeen t old => .tileSeen t (old.filter (fun e => !keys.contains e.1))
  | w => w

/-- One write in flight made for a context's registers or a stagehand's. What is given back waits for
a lantern, or for lanterns to leave before it (R141). -/
def State.applyWrite (s : State) (c b : Nat) (sh : Bool) (due : Nat) (w : PWrite) :
    State × Option PWrite :=
  let own := ((s.ctx c b).getD {}).own
  let lburn := ((s.ctx c b).getD {}).lburn.toNat
  let regs := fun (f : Regs → Regs) => (s.modRegsOf c b sh f, (none : Option PWrite))
  let logged := fun (code : Nat) (f : Regs → Regs) =>
    ((s.modRegsOf c b sh f).modCore c (·.logReg b sh code), (none : Option PWrite))
  let ctx := fun (f : Ctx → Ctx) => (s.modCtx c b f, (none : Option PWrite))
  match w with
  | .g n v m => logged (codeG n) (fun r => (r.setG n v).setMark (codeG n) m)
  | .x n v m => logged (codeX n) (fun r => (r.setX n v).setMark (codeX n) m)
  | .p n v => logged (codeP n) (fun r => (r.setP n v).setMark (codeP n) false)
  | .preds v =>
    ((s.modRegsOf c b sh (fun r =>
      (upFrom 1 7).foldl (fun r n => (r.setP n (v.getLsbD n)).setMark (codeP n) false) r)).modCore c (fun k =>
      (upFrom 1 7).foldl (fun k n => k.logReg b sh (codeP n)) k), none)
  | .b n v => logged (codeB n) (fun r => (r.setB n v due).setMark (codeB n) false)
  | .v n _ val sel marks =>
    ((s.modCtx c b (fun x => { x with
        v := x.v.put n (blend (x.vAt n) val sel)
        regs := x.regs.setMarks (codeLane n 0) marks })).modCore c (·.logReg b sh (codeV n)), none)
  | .m n val sel =>
    ((s.modCtx c b (fun x =>
      let x := x.setM n (blend (x.mAt n) val sel)
      { x with regs := x.regs.setMark (codeM n) false })).modCore c (·.logReg b sh (codeM n)), none)
  | .sp _ cells marks =>
    (s.modCore c (fun k => if sh then k.spWrite cells marks else k.spPut cells marks), none)
  | .spn cells marks =>
    let k := s.core c
    let full := cells.map (fun (a, b, m) => (a, (k.sp.read a &&& ~~~ m) ||| (b &&& m)))
    (s.modCore c (fun k => if sh then k.spWrite full marks else k.spPut full marks), none)
  | .spill a v m => regs (fun r =>
      { r with spill := r.spill.writeN a (toLe 4 v.toNat) }.setMark (codeSpill (a / 4)) m)
  | .view els marks => ctx (fun x =>
      let x := x.setTiles els marks
      { x with regs := { x.regs with pend := x.regs.pend.map (fun p => { p with w := p.w.unsee (els.map (·.1)) }) } })
  | .yadd n l nan inf neg m e mark => ctx (·.yAddLane n l (yVal nan inf neg m e) mark)
  | .yclr n lanes => ctx (fun x => lanes.foldl (fun x l => { x with
      y := x.y.put (128 * n + l) 0
      regs := x.regs.setMark (codeYLane n l) false }) x)
  | .tileAcc t ovw flush els =>
    let (i, s) := s.fresh
    (s.modCtx c b (fun x =>
      let old := els.map (fun e => (e.1, x.tileAt e.1))
      let new := els.map (fun e =>
        (e.1, BitVec.ofNat 32 (accUpdate flush ovw (x.tileAt e.1).toNat (e.2.map BitVec.toNat))))
      let x := x.setTiles new []
      { x with regs := { x.regs with pend := x.regs.pend ++ [⟨due + 4, i, 2, false, .tileSeen t old⟩] } }),
     none)
  | .tileSet t els marks =>
    let (i, s) := s.fresh
    (s.modCtx c b (fun x =>
      let old := els.map (fun e => (e.1, x.tileAt e.1))
      let x := x.setTiles els marks
      { x with regs := { x.regs with pend := x.regs.pend ++ [⟨due + 4, i, 2, false, .tileSeen t old⟩] } }),
     none)
  | .tileSeen _ _ => (s, none)
  | .latch k bs ktr marks => ctx (fun x => { x with
      klatch := x.klatch.replace (16384 * k) bs
      ktr := if ktr then x.ktr ||| BitVec.ofNat 2 (2 ^ k) else x.ktr &&& ~~~ BitVec.ofNat 2 (2 ^ k)
      regs := x.regs.setMarks (codeLatch (4096 * k)) marks })
  | .fresh t => ctx (fun x => { x with
      fresh := x.fresh ||| BitVec.ofNat 16 (2 ^ t)
      armed := x.armed ||| BitVec.ofNat 16 (2 ^ t) })
  | .freshClr t => ctx (fun x =>
      let again := x.armed.getLsbD t || x.regs.pend.any (fun p => p.w == .freshClr t)
      if again then x else { x with fresh := x.fresh &&& ~~~ BitVec.ofNat 16 (2 ^ t) })
  | .ftab image => ctx (fun x => { x.setFtab image with ftabAt := s.cue + 1 })
  | .tok t id => (s.tokDone c b sh t id 0, none)
  | .creg num v hi now =>
    if now then
      let s := s.modCtx c b (fun x => x.putProgCreg num (x.cregFull num v hi) (due - 1))
      (match cregCode num with | some n => s.modCore c (·.logReg b sh n) | none => s, none)
    else
      let e := cregEvent c b sh hi num v
      (s.at_ s.cue e.1 e.2, none)
  | .qbind n o => ctx (fun x => { x with q := match o with | some q => x.q.put n q | none => x.q.del n })
  | .otag first last tag => (s.modCore c (·.setTags first last tag), none)
  | .lantern cls rlx flushed els =>
    match s.enterAll c b cls own lburn rlx flushed els with
    | (s, []) => (s, none)
    | (s, rest) => (s.modCtx c b (fun x => { x.stop s.cue with frozen := some .lanterns }), some (.lantern cls rlx flushed rest))
  | .full cls rlx pieces =>
    let out := pieces.filter (fun p => p.mask != 0)
    let s := out.foldl (fun s p => s.emitFor c p.pkg p.die cls) s
    if out.any (fun p => s.leavingFor c cls (pairKey p.pkg p.die)) then (s, some (.full cls rlx pieces))
    else (out.foldl (fun s p => s.sendPiece c b cls own rlx p) s, none)
  | .refused cause cls pkg die core addr count => (s.logRefusal ⟨c, b, cls, cause, pkg, die, core, addr, count⟩, none)

/-- A view write loses the elements that an update of the same cycle writes (R89, R321). -/
def trimView (keys : List Nat) : PWrite → PWrite
  | .view els marks =>
    .view (els.filter (fun e => !keys.contains e.1)) (marks.filter (fun e => !keys.contains e.1))
  | w => w

/-- MFTLD's value stands against a CWR to `FTHDR` of its cycle (R335). -/
def beats : PWrite → PWrite → Bool
  | .ftab _, .creg n _ _ _ => n == 0x48
  | _, _ => false

/-- The elements of a remote write with the issue number of their instruction (R140). -/
def PWrite.stamp (n : Nat) : PWrite → PWrite
  | .lantern cls rlx flushed els => .lantern cls rlx flushed (els.map (fun e => { e with seq := n }))
  | w => w

/-- The record of the elements before a tile update bears the number of the update (R122). -/
def seenAs (i n : Nat) (p : Pend) : Pend :=
  match p.w with
  | .tileSeen .. => if p.seq = i then { p with seq := n } else p
  | _ => p

/-- A list of writes made in order. A remote write waits for the fences before it (R127), and for what it must not pass
(R140). -/
def State.applyList (s : State) (c b : Nat) (sh : Bool) (all : List Pend) : List Pend → Bool → State
  | [], _ => s
  | p :: ps, stuck =>
    let keep := fun (s : State) (w : PWrite) =>
      s.modRegsOf c b sh (fun r => { r with pend := r.pend ++ [{ p with w := w }] })
    if (!sh && s.pendHeld c p) || (stuck && isRemote p.w) then (keep s p.w).applyList c b sh all ps true
    else if all.any (fun q => q.due == p.due && beats q.w p.w) then s.applyList c b sh all ps stuck
    else
      let keys := all.flatMap (fun q => if q.due = p.due then updateKeys q.w else [])
      let i := s.nextId
      match s.applyWrite c b sh p.due ((trimView keys p.w).stamp p.seq) with
      | (s, none) =>
        (if updateKeys p.w = [] then s else s.modRegsOf c b sh (fun r =>
          { r with pend := r.pend.map (seenAs i p.seq) })).applyList c b sh all ps stuck
      | (s, some w) => (keep s w).applyList c b sh all ps true

/-- A scratchpad write delayed beyond its exposed latency may be made in a cycle in which its banks serve no
program access and are not at position 7 (R99): the cycle before it is due. -/
def Ctx.bankFree (x : Ctx) (t : Nat) (w : PWrite) : Bool :=
  (spCells w).isEmpty || (wheel t != 7 && !x.booked.any (fun b => b.cyc == t && !b.late
    && (spCells w).any (fun e => bankOf e == bankOfRow b.row)))

/-- A delayed write is made in a cycle, which its banks serve (R99). -/
def Ctx.serveLate (x : Ctx) (t : Nat) (w : PWrite) : Ctx :=
  { x with booked := x.booked ++ (distinct ((spCells w).map bankRow)).map (fun r => ⟨t, r, false, false, false⟩) }

/-- The nominal accesses of a write that is delayed beyond them are not made then (R99). -/
def Ctx.missNominal (x : Ctx) (t : Nat) (w : PWrite) : Ctx :=
  { x with booked := x.booked.map (fun b =>
      if b.cyc == t && (spCells w).any (fun e => bankRow e == b.row) then { b with late := true } else b) }

/-- Every write of a context or stagehand due by a cycle is made, in the order of R94. -/
def State.applyDue (s : State) (c b : Nat) (sh : Bool) (t : Nat) : State :=
  let r := s.regsOf c b sh
  let due := sortBy pendBefore (r.pend.filter (fun p => decide (p.due ≤ t)))
  if due.isEmpty then s
  else
    (s.modRegsOf c b sh (fun r => { r with pend := r.pend.filter (fun p => decide (t < p.due)) })).applyList
      c b sh due due false

/-- A record of the elements before a tile update. -/
def isSeen : PWrite → Bool
  | .tileSeen .. => true
  | _ => false

/-- The writes in flight of a context due by a cycle, but for its remote ones, or those of them that are held, are made
in the order of R94, and are seen when they would be by then: an interlocked wait lasts until that cycle, and the
writes behind it go on as they would have, in their order (R69, R321, log 60). -/
def State.applyUntil (s : State) (c b t : Nat) (remote : Bool) : State :=
  let go := fun (p : Pend) => decide (p.due ≤ t) && (!isRemote p.w || (remote && !s.pendHeld c p))
  let now := sortBy pendBefore ((s.regsOf c b false).pend.filter go)
  let s := (s.modRegsOf c b false (fun r => { r with pend := r.pend.filter (fun p => !now.contains p) })).applyList
    c b false now now false
  s.modRegsOf c b false (fun r => { r with pend := r.pend.filter (fun p => !(isSeen p.w && decide (p.due ≤ t))) })

/-- The cycle by which the writes of given issue numbers are made and seen. -/
def Regs.seenBy (r : Regs) (l : List Nat) : Nat :=
  (r.pend.filter (fun p => l.contains p.seq)).foldl (fun t p => max t p.seen) 0

/-- A write in flight as a drain makes it. -/
def drained (p : Pend) : Pend :=
  match p.w with
  | .creg n v hi _ => { p with w := .creg n v hi true }
  | _ => p

/-- Step 2 of R378: every write in flight of a context is made at once, and is seen at once; its accesses are made. A remote
write that waits is due from now on. -/
def State.drain (s : State) (c b : Nat) : State :=
  let s := (s.modRegsOf c b false (fun r => { r with pend := r.pend.map drained })).modCtx c b (fun x =>
    { x with booked := x.booked.map (fun k => { k with made := true }) })
  let r := s.regsOf c b false
  let t := r.pend.foldl (fun t p => max t p.due) 0
  let s := s.applyDue c b false t
  let now := ((s.ctx c b).getD {}).line s.cue
  s.modRegsOf c b false (fun r => { r with
    pend := (r.pend.filter (fun p => isRemote p.w)).map (fun p => { p with due := min p.due now }) })

/-- The first due cycle of the writes in flight. -/
def Regs.nextDue (r : Regs) : Option Nat :=
  r.pend.foldl (fun acc p => match acc with
    | some t => some (min t p.due)
    | none => some p.due) none

end Sys2Proof.Machine
end

