-- ==== Sys2Proof/Machine/Traps.lean ====
section
/-!
DEFINITION. Taking a program trap (R375 to R379) and returning from one (R381), restart from the last
restart point (R383), holds and their end (R393, R398, R399), the exchange of banks (R384, R385).
-/
namespace Sys2Proof.Machine

/-! ### Stream positions -/

/-- A target word of R170 from line and slot. -/
def targetWord (line slot : Nat) : Word := BitVec.ofNat 32 (line * 32 + slot % 32)

/-- Target of the next word of a stream, all ones for an absent one (R378). -/
def Stream.target32 (t : Stream) : Word := if t.present then targetWord t.line t.slot else 0xFFFFFFFF

/-- A stream resumed at a target; one that is not the saved target is checked when it issues (R381), and comes to its
line as by a transfer. -/
def Ctx.resumeAt (x : Ctx) (strm : Nat) (saved : Stream) (w : Word) : Stream :=
  if !saved.present || w == saved.target32 then saved
  else x.land strm { saved with line := w.toNat / 32, slot := w.toNat % 32, check := true, wait := none, oref := none }

/-- The scalar bundle in progress is over: the stream stands after it, or at the target of its transfer (R170). The count of
an idle word behind a transfer in its bundle delays the target too (R169; DESIGN CHOICE, log 74). -/
def Stream.advance (t : Stream) (now : Nat) : Stream :=
  match t.redir with
  | some w => { t with
      line := w.toNat / 32, slot := w.toNat % 32, prev := now + t.skip, issued := some now, atRef := false, target := true
      check := false, redir := none, skip := 0 }
  | none => { t with
      line := t.seqLine, slot := t.seqSlot, prev := now + t.skip, issued := some now, atRef := false, target := false
      check := false, skip := 0 }

/-! ### Trap entry -/

/-- A record of a core's context, with the freeze of R57 when the buffer is full (R400). -/
def State.raise (s : State) (c b : Nat) (held : Bool) (cause kind addr detail : Nat) : State :=
  s.ctxRec c b held cause kind addr detail

/-- Trap entry (R378): drain, save, `HND`; 24 cycles of house cue to the handler's first word. A trap
that enters no handler, as `TVEC` and `HND` stand when it is raised, is recorded and holds its context (R377), in a handler
with cause 0x4D though `TVEC` be 0 too (DESIGN CHOICE, log 78). The
accesses booked from cycle `τ` on, those of drained writes and of the words of `τ` that took effect, stay booked: R94 goes
on checking the words that issue from `τ` on after the return. -/
def State.enterTrap (s : State) (c b : Nat) (cause info einfo strm : Nat) : State :=
  let none_ := match s.ctx c b with | some x => x.tvec == 0 || x.hnd | none => false
  let s := s.drain c b
  match s.ctx c b with
  | none => s
  | some x =>
    let st := x.trapStatus b cause info strm
    let fin := s.cue + 24
    let x := x.stop s.cue
    if none_ then
      let rc := if x.hnd then 0x4D else 0x4C
      let s := s.setCtx c b { x with entry := some (fin, some ⟨rc, .restart⟩) }
      (s.raise c b true rc 0 0 st.toNat).at_ fin .handlerStart { core := c, bank := b }
    else
      let x := { x with
        estatus := st
        cause := cause
        info := info
        strm := strm
        einfo := BitVec.ofNat 32 einfo
        elcue := BitVec.ofNat 64 (x.lcue s.cue)
        epcs := x.regs.str.target32
        epcv := x.vs.target32
        epcm := x.ms.target32
        tau := x.lcue s.cue
        booked := x.booked.filter (fun k => decide (x.lcue s.cue ≤ k.cyc))
        saved := ⟨x.regs.str, x.vs, x.ms, x.levels, x.stack⟩
        hnd := true
        entry := some (fin, none) }
      (s.setCtx c b x).at_ fin .handlerStart { core := c, bank := b }

/-! ### Exchange of banks (R385) -/

/-- R385. -/
def Ctx.runnable (x : Ctx) : Bool :=
  x.life == .live && x.held.isNone && (match x.waitv with | some w => w.woken | none => true)

/-- Trap entry or a handler is in progress. -/
def Ctx.trapped (x : Ctx) : Bool := x.hnd || x.entry.isSome

/-- An exchange must wait (R385, R407). -/
def Ctx.busy (x : Ctx) : Bool :=
  x.trapped || (match x.frozen with | some (.blocks _) => true | _ => false)

/-- An exchange starts: the outgoing context is drained, and for 16 cycles no context issues. -/
def State.startExchange (s : State) (c : Nat) : State :=
  let b := s.stageOf c
  let s := (s.drain c b).modCore c (fun k => { k with exchange := some (s.cue + 16) })
  (s.settle c).at_ (s.cue + 16) .bankExchange { core := c }

/-- The banks exchange when the stage context is not runnable and the other is (R385). Banks that
world frames reserve never exchange (R384). -/
def State.tryExchange (s : State) (c : Nat) : State :=
  let k := s.core c
  let want := match k.bank k.stage, k.bank (1 - k.stage) with
    | some x, some y => !x.runnable && !x.busy && y.runnable
        && (match x.waitv with | some w => decide (w.begun < s.cue) && w.read.isNone | none => true)
    | none, some y => y.runnable
    | _, _ => false
  if want && k.exchange.isNone && !k.framesWorlds && !k.outOfService then s.startExchange c else s

/-! ### Holds -/

/-- Frame starvation parks the context as under `HOW` 2 (R395). -/
def State.parkStarved (s : State) (c b : Nat) : State :=
  (s.modCore c (fun k => { k with parks := k.parks ++ [(⟨b, 2, 0, 0, 0, false, none⟩ : Park)] })).at_ s.cue .parkPoint
    { core := c, bank := b }

/-- The drain of a read fault (R393), which in a trap's entry or handler waits for TRET. -/
def State.readDrain (s : State) (c b cause : Nat) : State :=
  if cause != 0x40 then s
  else if ((s.ctx c b).getD {}).trapped then s.modCtx c b (fun x => { x with after := true })
  else s.drain c b

/-- A context meets a system fault that holds it (R393, R398): its record, the hold, and for a read
fault the drain and the exchange; in a trap's entry or handler these two wait for TRET. -/
def State.hold (s : State) (c b : Nat) (h : Hold) (r : FaultRec) : State :=
  let s := s.pushRec (dieOf c) (some c) r
  let s := s.readDrain c b h.cause
  let s := if h.cause == 0x46 then s.parkStarved c b else s
  ((s.modCtx c b (fun x => { x with held := some h })).settle c).tryExchange c

/-! ### Return and restart -/

/-- Local cue `l` in the next cycle. -/
def Ctx.nextCue (x : Ctx) (cue l : Nat) : Ctx := { x with clock := .run (cue + 1 - l) }

/-- Writes in flight of a handler on the program's time line from the next cycle on. -/
def retimePend (cue l : Nat) (p : Pend) : Pend := { p with due := l + (p.due - (cue + 1)) }

/-- b registers written in a handler count as written long ago for R170. -/
def retimeB (tau : Nat) (t : Tab Nat) : Tab Nat := t.filter (fun e => decide (e.2 ≤ tau + 1))

/-- R381: the streams resume, with local cue `ELCUE` in the next cycle. -/
def Ctx.resume (x : Ctx) (cue : Nat) : Ctx :=
  let l := x.elcue.toNat
  let x := { x with hnd := false, levels := x.saved.levels, stack := x.saved.stack }
  let x := { x with
    vs := x.resumeAt 1 x.saved.vs x.epcv
    ms := x.resumeAt 2 x.saved.ms x.epcm
    regs := { x.regs with
      str := x.resumeAt 0 x.saved.ss x.epcs
      bAt := retimeB x.tau x.regs.bAt
      pend := x.regs.pend.map (retimePend cue l) } }
  x.nextCue cue l

/-- Levels as at the restart point: those active then take their record, the others are not active. -/
def restartLevels (old now : Tab Level) : Tab Level :=
  (List.range 6).foldl (fun t j =>
    let o := old.get {} j
    if o.active then t.put j o
    else t.put j { (now.get {} j) with active := false, began := false, starts := o.starts }) now

/-- R383: restart from the record of R74; its SCENEs are issued again (log 25). -/
def Ctx.restart (x : Ctx) (cue : Nat) : Ctx :=
  let x := { x with
    hnd := false
    arrived := none
    booked := []
    vs := x.rp.vs
    ms := x.rp.ms
    levels := restartLevels x.rp.levels x.levels
    stack := x.rp.stack
    regs := { x.regs with
      str := x.rp.ss
      bAt := retimeB x.tau x.regs.bAt
      pend := x.regs.pend.map (retimePend cue x.rpCue) } }
  x.nextCue cue x.rpCue

/-- A context that goes back to its restart point takes its arrival at a barrier that has not completed back (log 25). -/
def State.withdraw (s : State) (c b : Nat) : State :=
  match s.ctx c b with
  | none => s
  | some x =>
    if x.arrived.isNone then s
    else { s with launches := s.launches.map (fun (l : Launch) =>
      if some l.id == x.launch && l.sceneAt.isNone then { l with members := l.members.map (fun m =>
        if m.core == c && m.pos == x.castpos.toNat then { m with arrived := none } else m) }
      else l) }

/-- A context restarts at its last restart point (R383). -/
def State.goBack (s : State) (c b : Nat) : State := (s.withdraw c b).modCtx c b (·.restart s.cue)

/-- What waited for the end of a handler happens: the drain of a read fault, an exchange (R393, R385). -/
def State.afterHandler (s : State) (c b : Nat) : State :=
  let s := if ((s.ctx c b).getD {}).after then (s.drain c b).modCtx c b (fun x => { x with after := false }) else s
  s.tryExchange c

/-- TRET (R381): restart or return. -/
def State.tret (s : State) (c b : Nat) : State :=
  let s := if bitAt ((s.ctx c b).getD {}).estatus.toNat 20 then s.goBack c b else s.modCtx c b (·.resume s.cue)
  s.afterHandler c b

/-- The checks of TRET (R381): all hold. -/
def Ctx.tretOk (x : Ctx) : Bool :=
  x.hnd && bits x.estatus.toNat 31 28 == 0 && bits x.estatus.toNat 17 16 == 0
    && decide (x.elcue.toNat ≤ x.tau)

/-- SCENE in a handler (R379): the handler ends, the scalar stream has issued that form, and the other
streams resume with local cue `τ` in the next cycle. -/
def Ctx.sceneInHandler (x : Ctx) (cue : Nat) (last : Bool) : Ctx :=
  let x := { x with hnd := false, levels := x.saved.levels, stack := x.saved.stack }
  let x := { x with
    vs := x.resumeAt 1 x.saved.vs x.epcv
    ms := x.resumeAt 2 x.saved.ms x.epcm
    regs := { x.regs with
      str := { x.regs.str with done := some last, issued := none }
      bAt := retimeB x.tau x.regs.bAt
      pend := x.regs.pend.map (retimePend cue x.tau) } }
  x.nextCue cue x.tau

/-- The end of trap entry (R378): the handler starts at `TVEC`, or the context is held. -/
def State.entryEnd (s : State) (c b : Nat) : State :=
  match s.ctx c b with
  | none => s
  | some x =>
    match x.entry with
    | some (t, h) =>
      if s.cue < t then s
      else match h with
        | some h => ((s.setCtx c b { x with entry := none, held := some h, hnd := false }).settle c).tryExchange c
        | none =>
          let st : Stream := {
            present := true, line := x.tvec.toNat / 32, slot := x.tvec.toNat % 32
            prev := s.cue, atRef := true, check := true }
          s.setCtx c b { x with entry := none, regs := { x.regs with str := st } }
    | none => s

/-- RESUME of a held context for causes whose access is not made again by an engine (R399). -/
def State.unhold (s : State) (c b : Nat) : State :=
  match s.ctx c b with
  | none => s
  | some x =>
    match x.held with
    | none => s
    | some h =>
      let s := s.setCtx c b { x with held := none }
      match h.redo with
      | .restart => (s.goBack c b).settle c
      | _ => (s.settle c).tryExchange c

end Sys2Proof.Machine
end

