-- ==== Sys2Proof/Machine/Creg.lean ====
section
/-!
DEFINITION. Control registers (R238 to R241, R256, R348, R364, R371, R386, R417, R424) as CRD reads them and
CWR checks them, loop-table and window words (R63, R351), feature words (R439), register pages (R119).
-/
namespace Sys2Proof.Machine

/-! ### Loop levels (R63 to R65) -/

/-- The entry of a level keeps the limits of R63 (the first operand gives its words); the product rule of
spatial levels is a rule of the table as a whole. -/
def loopEntryOk (w : Nat → Nat) : Bool :=
  let body := fun (i : Nat) => w i == 0xFFFFFFFF || decide (w i ≤ w (i + 1))
  w 10 == 0 && w 11 == 0 && w 3 == 0 && bits (w 0) 31 3 == 0
    && (bits (w 0) 1 0 != 1
      || (decide (1 ≤ w 2) && decide (w 2 ≤ 2 ^ 20) && body 4 && body 6 && body 8))

/-- The product of the `COUNT`s of a spatial kind, none when no level uses it (R63). -/
def spatialProduct (w : Nat → Nat → Nat) (kind : Nat) : Option Nat :=
  (List.range 6).foldl (fun acc j =>
    if bits (w j 0) 1 0 = kind then some (acc.getD 1 * w j 1) else acc) none

/-- The loop table keeps the limits of R63 for a cast's extents. -/
def loopTableOk (w : Nat → Nat → Nat) (dext cext : Nat) : Bool :=
  (List.range 6).all (fun j => loopEntryOk (w j))
    && (match spatialProduct w 2 with | some p => p == cext | none => true)
    && (match spatialProduct w 3 with | some p => p == dext | none => true)

/-- The digit of a spatial level (R65): levels of one kind in ascending number, the lowest least
significant. -/
def spatialDigit (w : Nat → Nat → Nat) (j pos : Nat) : Nat :=
  let kind := bits (w j 0) 1 0
  let below := (List.range j).foldl (fun p i => if bits (w i 0) 1 0 = kind then p * w i 1 else p) 1
  if w j 1 = 0 then 0 else pos / below % w j 1

/-! ### Feature words (R439) -/

/-- FEATQ of a feature-word number. -/
def State.feature (s : State) (n : Nat) : Word :=
  let ex := fun (lo : Nat) => BitVec.ofNat 32 (packElems 8 ((upFrom lo 4).map (fun d => s.exposed.get 16 d)))
  match n with
  | 0 => 0x0202
  | 1 => 0x4
  | 2 => 0x001FFFFF
  | 3 => 0x1008
  | 4 => ex 0
  | 5 => ex 4
  | 6 => 0x402040
  | 7 => 8192
  | 8 => 320
  | 9 => BitVec.ofNat 32 (256 * 65536 + 16)
  | 10 => 0x181004
  | 11 => BitVec.ofNat 32 (s.pkgNum % 1024)
  | 12 => 850
  | _ => 0

/-! ### Numbers -/

/-- 64-bit registers by their even number (R240, R241, R386, R417). -/
def cregWide (n : Nat) : Bool :=
  let e := n / 2 * 2
  e == 0 || e == 2 || e == 4 || e == 0x1C || e == 0x82 || e == 0xA0 || e == 0xAC || e == 0xAE || e == 0xD0
    || e == 0xD4 || e == 0xD8 || e == 0xDC || (0xE0 ≤ e && e ≤ 0xEE)

/-- Stagehand registers, the reserved numbers among them included (R241, R386, R417). -/
def cregSh (n : Nat) : Bool :=
  (0x80 ≤ n && n ≤ 0x83) || (0x90 ≤ n && n ≤ 0xA1) || (0xA8 ≤ n && n ≤ 0xBF) || (0xD0 ≤ n && n ≤ 0xFF)

/-- Reserved stagehand numbers (R386, R417). -/
def cregReserved (n : Nat) : Bool :=
  (0xBB ≤ n && n ≤ 0xBF) || n == 0xD7 || n == 0xDF || (0xF0 ≤ n && n ≤ 0xFF)

/-- Numbers that a register map lists. -/
def cregListed (n : Nat) : Bool :=
  n ≤ 0x08 || (0x10 ≤ n && n ≤ 0x12) || (0x15 ≤ n && n ≤ 0x1D) || (0x20 ≤ n && n ≤ 0x2E)
    || (0x30 ≤ n && n ≤ 0x49) || (0x50 ≤ n && n ≤ 0x57) || (0x60 ≤ n && n ≤ 0x63) || n == 0xC0
    || (0x200 ≤ n && n ≤ 0x247) || (0x300 ≤ n && n ≤ 0x37F) || cregSh n

/-- Registers that CWR does not write. -/
def cregRO (n : Nat) : Bool :=
  n ≤ 0x08 || n == 0x10 || (0x19 ≤ n && n ≤ 0x1A) || (0x20 ≤ n && n ≤ 0x27) || (0x2C ≤ n && n ≤ 0x2E)
    || (0x30 ≤ n && n ≤ 0x3F) || n == 0x49 || (0x60 ≤ n && n ≤ 0x63) || n == 0xA9 || (0xAC ≤ n && n ≤ 0xB9)
    || cregReserved n || (0xD3 ≤ n && n ≤ 0xD5) || n == 0xDA || n == 0xDE

/-- The stagehand's own state (R424). -/
def cregOwn (n : Nat) : Bool :=
  (0x26 ≤ n && n ≤ 0x27) || (0x2C ≤ n && n ≤ 0x2E) || (0x18 ≤ n && n ≤ 0x1A) || (0x50 ≤ n && n ≤ 0x57)

/-! ### Values -/

/-- Registers of `Regs` by number. -/
def Regs.creg (r : Regs) (n : Nat) : Nat :=
  match n with
  | 0x18 => r.slim.toNat
  | 0x19 => r.frameptr
  | 0x1A => r.framesz
  | 0x26 => (r.tokst 0).toNat
  | 0x27 => (r.tokst 1).toNat
  | 0x2C => r.tokFail.toNat % 2 ^ 32 / 2 * 2
  | 0x2D => r.tokFail.toNat / 2 ^ 32
  | 0x2E => r.xferst.toNat
  | _ => if 0x50 ≤ n && n ≤ 0x57 then (r.bAt' (n - 0x50)).toNat else 0

/-- A register of a context, 64-bit ones whole under their even number. -/
def State.ctxCreg (s : State) (c b : Nat) (x : Ctx) (n : Nat) : Nat :=
  if cregOwn n then x.regs.creg n
  else if 0x20 ≤ n && n ≤ 0x25 then x.index (n - 0x20) % 2 ^ 32
  else if 0x29 ≤ n && n ≤ 0x2B then x.nAt (n - 0x28)
  else if 0x30 ≤ n && n ≤ 0x3F then s.wallow c b (n - 0x30)
  else if 0x40 ≤ n && n ≤ 0x47 then (x.yctl.get 0 (n - 0x40)).toNat
  else if 0x200 ≤ n && n ≤ 0x247 then (x.looptab.get 0 (n - 0x200)).toNat
  else if 0x300 ≤ n && n ≤ 0x37F then (x.wintab.get 0 (n - 0x300)).toNat
  else match n with
    | 0x02 => x.lcue s.cue % 2 ^ 64
    | 0x04 => x.slip s.cue % 2 ^ 64
    | 0x06 => x.sceneno % 2 ^ 32
    | 0x07 => x.castpos.toNat
    | 0x08 => x.castst.toNat
    | 0x10 => (x.status b).toNat
    | 0x11 => x.tvec.toNat
    | 0x12 => x.estatus.toNat
    | 0x15 => x.epcs.toNat
    | 0x16 => x.epcv.toNat
    | 0x17 => x.epcm.toNat
    | 0x1B => x.einfo.toNat
    | 0x1C => x.elcue.toNat
    | 0x28 => x.lburn.toNat
    | 0x48 => x.fthdr.toNat
    | 0x49 => x.fresh.toNat + 2 ^ 16 * x.ktr.toNat
    | 0x60 => x.rsfInfo.toNat
    | 0x61 => x.rsfDest.toNat
    | 0x62 => x.rsfAddr.toNat
    | 0x63 => x.rsfMask.toNat
    | 0xA0 => x.ptroot.toNat
    | 0xC0 => x.waitbud.toNat
    | _ => 0

/-- The stagehand of a core is its die's command processor (R419). -/
def State.isCp (s : State) (c : Nat) : Bool := (s.die (dieOf c)).fbowner == c % 16

/-- `QCUR` without its effect on `inPacket`. -/
def Die.qcur (k : Die) : Nat :=
  match k.curQ with
  | some q => 2 ^ 31 + q
  | none => 0

/-- `QPKT` (R417). -/
def Die.qpkt (k : Die) : Nat :=
  match k.curQ with
  | some q =>
    let u := k.queues.get {} q
    u.base.toNat + 64 * (u.rd.toNat % 2 ^ bits u.ctl.toNat 8 4)
  | none => 0

/-- A stagehand register (R241, R386, R417). -/
def State.shCreg (s : State) (c n : Nat) : Nat :=
  let k := s.core c
  let d := s.die (dieOf c)
  if 0x90 ≤ n && n ≤ 0x9F then (k.frametab.get 0 (n - 0x90)).toNat
  else if 0xB0 ≤ n && n ≤ 0xB7 then (k.fbrec.get 0 (n - 0xB0)).toNat
  else if 0xE0 ≤ n && n ≤ 0xE7 then (k.wsave.get 0 ((n - 0xE0) / 2)).toNat
  else if 0xE8 ≤ n && n ≤ 0xEF then (k.wepoch.get 0 ((n - 0xE8) / 2)).toNat
  else match n with
    | 0x80 => k.share.toNat
    | 0x81 => k.framectl.toNat
    | 0x82 => k.framebase.toNat
    | 0xA8 => d.fbuf.length + b2n d.fbovf * 2 ^ 31
    | 0xA9 => d.fbheld.length
    | 0xAA => d.fbowner
    | 0xAC => (match k.bank0 with | some x => x.ctxdesc.toNat | none => 0)
    | 0xAE => (match k.bank1 with | some x => x.ctxdesc.toNat | none => 0)
    | 0xB8 => k.stres.toNat
    | 0xB9 => k.bankst.toNat
    | 0xBA => k.errcnt.toNat
    | 0xD0 => k.shroot.toNat
    | 0xD2 => k.shbank.toNat
    | 0xD3 => if s.isCp c then d.qcur else 0
    | 0xD4 => if s.isCp c then d.qpkt else 0
    | 0xD8 => if s.isCp c then d.qlaunch.toNat else 0
    | 0xDA => if s.isCp c then d.qlstat.toNat else 0
    | 0xDB => if s.isCp c then d.armlead.toNat else 0
    | 0xDC => k.shcode.toNat
    | 0xDE => k.wlive.toNat
    | _ => 0

/-- The value of register `n` for a reader: 64-bit registers whole, by either number. -/
def State.cregValue (s : State) (c : Nat) (sh : Bool) (n : Nat) : Nat :=
  let n := if cregWide n then n / 2 * 2 else n
  if n = 0 then s.cue % 2 ^ 64
  else if sh then
    if n != 0xA0 && cregSh n then s.shCreg c n
    else if cregOwn n then (s.core c).sh.creg n
    else
      let b := (s.core c).shbank.toNat % 2
      match s.ctx c b with
      | some x => s.ctxCreg c b x n
      | none => 0
  else if cregSh n then 2 ^ 64 - 1
  else
    let b := s.stageOf c
    match s.ctx c b with
    | some x => s.ctxCreg c b x n
    | none => 0

/-- What CRD returns, and the read latch it leaves (R238). -/
def State.crdValue (s : State) (c : Nat) (sh : Bool) (r : Regs) (n : Nat) : Word × Option (Nat × Word) :=
  let v := s.cregValue c sh n
  if !cregWide n then (BitVec.ofNat 32 v, r.latch)
  else
    let e := n / 2 * 2
    let hi := BitVec.ofNat 32 (v / 2 ^ 32)
    if n = e then (BitVec.ofNat 32 v, some (e, hi))
    else match r.latch with
      | some (m, h) => (if m = e then h else hi, r.latch)
      | none => (hi, r.latch)

/-- The value a CWR of a number would leave, and the staging word it leaves (R238); none when only the
staging word is loaded. -/
def State.cwrValue (s : State) (c : Nat) (sh : Bool) (r : Regs) (n : Nat) (v : Word) :
    Option Nat × Option (Nat × Word) :=
  if !cregWide n then (some v.toNat, r.staging)
  else
    let e := n / 2 * 2
    if n = e then (none, some (e, v))
    else
      let old := s.cregValue c sh n % 2 ^ 32
      let lo := match r.staging with
        | some (m, l) => if m = e then l.toNat else old
        | none => old
      (some (v.toNat * 2 ^ 32 + lo), none)

/-- A CWR of number `n` writes the high half of its register alone (R238). -/
def Regs.cwrHalf (r : Regs) (n : Nat) : Bool :=
  cregWide n && n % 2 == 1 && (match r.staging with | some (m, _) => m != n / 2 * 2 | none => true)

/-! ### Forbidden values (R239) -/

/-- Frame-table words that keep R80 below `FCOUNT`, and give one world one length (R432). -/
def frameOk (cnt : Nat) (e : Nat → Nat) : Bool :=
  let used := List.range cnt
  used.all (fun i =>
      bitAt (e i) 15 && decide (bits (e i) 14 12 ≤ 4) && bits (e i) 11 5 == 0
        && decide (16 ≤ e i % 32) && decide (e i % 32 ≤ 24))
    && used.all (fun i => used.all (fun j =>
      !(bits (e i) 14 12 == bits (e j) 14 12 && decide (bits (e i) 14 12 < 4)) || e i % 32 == e j % 32))

/-- Whether a context register forbids a value. -/
def Ctx.cregBad (x : Ctx) (n v : Nat) : Bool :=
  if n = 0x28 then decide (v < 16) || decide (65535 < v)
  else if 0x29 ≤ n && n ≤ 0x2B then decide (65535 < v)
  else if 0x40 ≤ n && n ≤ 0x47 then bits v 31 10 != 0 || bits v 7 6 != 0
  else if n = 0x48 then bits v 31 11 != 0 || bits v 7 6 != 0 || bits v 10 8 == 7
  else if 0x200 ≤ n && n ≤ 0x247 then (x.levels.get {} ((n - 0x200) / 12)).active
  else if 0x300 ≤ n && n ≤ 0x37F then
    let i := (n - 0x300) / 8
    !winValid (fun w => if 8 * i + w = n - 0x300 then v else winWord x i w)
  else false

/-- Whether a stagehand register forbids a value (R241, R386, R417, R432, R433). -/
def Core.cregBad (k : Core) (n v : Nat) : Bool :=
  let cnt := k.framectl.toNat % 32
  let tab := fun (i : Nat) => (k.frametab.get 0 i).toNat
  if n = 0x80 then decide (255 < v)
  else if n = 0x81 then
    k.wlive != 0 || bits v 31 5 != 0 || decide (16 < v) || !frameOk v tab
  else if n = 0x83 then k.wlive != 0
  else if 0x90 ≤ n && n ≤ 0x9F then
    k.wlive != 0 || decide (65535 < v) || !frameOk cnt (fun i => if i = n - 0x90 then v else tab i)
  else if n = 0xA1 then v % 4096 != 0
  else if n = 0xAA then decide (15 < v)
  else if n = 0xAB || n = 0xD2 then decide (1 < v)
  else if n = 0xDD then v % 128 != 0
  else if 0xE0 ≤ n && n ≤ 0xE7 then v % 4096 != 0 || bitAt k.wlive.toNat ((n - 0xE0) / 2)
  else if 0xE8 ≤ n && n ≤ 0xEF then bitAt k.wlive.toNat ((n - 0xE8) / 2)
  else false

/-- The control-write fault of R239 for a CWR whose register is listed. -/
def State.cwrBad (s : State) (c : Nat) (sh : Bool) (r : Regs) (n : Nat) (v : Word) : Bool :=
  cregRO n || (!sh && cregSh n)
    || match (s.cwrValue c sh r n v).1 with
      | none => false
      | some w =>
        if n = 0x18 then w % 16 != 0 || decide (16384 < w)
        else if sh && cregSh n then (s.core c).cregBad n w
        else
          let b := if sh then (s.core c).shbank.toNat % 2 else s.stageOf c
          match s.ctx c b with
          | some x => x.cregBad n w
          | none => false

/-! ### Register pages (R119) -/

/-- Width and alignment of a register-page access. -/
def regWidthOk (off width : Nat) : Bool := (width == 4 || width == 8) && off % width == 0

end Sys2Proof.Machine
end

