-- ==== Sys2Proof/Machine/Fetch.lean ====
section
/-!
DEFINITION. Lines, line headers and the words of a stream (R48, R49, R152 to R156, R424), the checks of a
fetch (R154) and of a transfer's target (R170).
-/
namespace Sys2Proof.Machine

/-- Slots of a line of a stream: 30 scalar, 10 vector, 5 matrix (R152). -/
def slotCount (strm : Nat) : Nat := if strm = 0 then 30 else if strm = 1 then 10 else 5
/-- Bytes of a word of a stream. -/
def wordBytes (strm : Nat) : Nat := if strm = 0 then 4 else if strm = 1 then 12 else 24

/-- A line header (R153). -/
structure LineHdr where
  stream : Nat
  restart : Bool
  first : Nat
  tmask : Nat
  frame : Nat
  rsvd : Nat
  stop : Nat
deriving DecidableEq, Repr

def LineHdr.ofNat (h : Nat) : LineHdr :=
  { stream := bits h 7 6, restart := bitAt h 5, first := bits h 4 0, tmask := bits h 39 8
    frame := bits h 55 40, rsvd := bits h 63 61, stop := bits h 60 56 }

/-- Where the lines of an agent's code stand (R48, R424): address, physical, translation root, and the
length of the image. The stagehand's code ends with the image at `SHCODE` when there is one (log 36). -/
structure Code where
  base : Nat
  phys : Bool
  root : Nat
  length : Nat
deriving DecidableEq, Repr

def State.codeOf (s : State) (c b : Nat) (sh : Bool) : Code :=
  if sh then
    let a := (s.core c).shcode.toNat
    let len := if s.preadNum a 4 = 0x324B4852 then s.preadNum (a + 32) 4 else 2 ^ 34
    ⟨a, true, 0, len⟩
  else
    let x := (s.ctx c b).getD {}
    ⟨x.script.base, x.script.phys, x.ptroot.toNat, x.script.length⟩

/-- A little-endian number of an agent's code; none where it cannot be read (log 46). -/
def State.codeNum (s : State) (k : Code) (off n : Nat) : Option Nat :=
  if k.length < off + n then none
  else match s.lookAddr k.phys k.root (k.base + off) with
    | some pa => if s.answers pa && !s.pmark pa n then some (s.preadNum pa n) else none
    | none => none

/-- The header of a line; none when the line cannot be read or lies beyond the image (R54). -/
def State.lineHdr (s : State) (k : Code) (line : Nat) : Option LineHdr :=
  (s.codeNum k (128 * line) 8).map LineHdr.ofNat

/-- R154 for a stream. -/
def LineHdr.ok (h : LineHdr) (strm : Nat) : Bool :=
  let n := slotCount strm
  h.stream == strm && decide (h.first < n) && h.tmask % 2 ^ h.first == 0 && h.tmask / 2 ^ n == 0
    && h.rsvd == 0
    && (h.stop == 0 || (decide (h.first < h.stop) && decide (h.stop ≤ n) && h.tmask / 2 ^ h.stop == 0))

/-- One past the last slot of a line (R156). -/
def LineHdr.last (h : LineHdr) (strm : Nat) : Nat := if h.stop = 0 then slotCount strm else h.stop

/-- The word at a line and slot. -/
def State.wordAt (s : State) (k : Code) (strm line slot : Nat) : Option Nat :=
  s.codeNum k (128 * line + 8 + wordBytes strm * slot) (wordBytes strm)

/-- The position after a word (R156): line and slot; the next line's slot `FIRST`. -/
def State.nextPos (s : State) (k : Code) (strm line slot : Nat) : Nat × Nat :=
  match s.lineHdr k line with
  | some h =>
    if slot + 1 < h.last strm then (line, slot + 1)
    else match s.lineHdr k (line + 1) with
      | some g => (line + 1, g.first)
      | none => (line + 1, 0)
  | none => (line + 1, 0)

/-- R170: the target's slot lies below the slot count and is marked. Of a line that cannot be read no mark is known: it
raises the fetch fault when the stream issues there (R154). -/
def State.targetOk (s : State) (k : Code) (strm : Nat) (t : Nat) : Bool :=
  decide (t % 32 < slotCount strm) && match s.lineHdr k (t / 32) with
    | some h => bitAt h.tmask (t % 32)
    | none => true

/-- A part of a line lies behind a CXL port that is down (R441). -/
def State.lineDown (s : State) (k : Code) (line : Nat) : Bool :=
  !s.cxlDown.isEmpty && (List.range 16).any (fun i =>
    (s.codeNum k (128 * line + 8 * i) 8).isNone && (s.portsUp.codeNum k (128 * line + 8 * i) 8).isSome)

/-- The code of the current agent. -/
def State.code (s : State) : Code := s.codeOf s.cur.core (s.stageOf s.cur.core) s.cur.sh

end Sys2Proof.Machine
end

