-- ==== Sys2Proof/Machine/Loops.lean ====
section
/-!
DEFINITION. Loop levels (R61, R64): how a stream reaches the first line of a body, finishes its last
line, and what an iteration start and a level's end do.
-/
namespace Sys2Proof.Machine

/-- A stream has moved past words whose last stands on line `frm`. -/
def Ctx.moveOn (x : Ctx) (strm frm now : Nat) (t : Stream) : Stream :=
  let jump := t.redir.isSome
  let t := t.advance now
  if jump then (if t.line = frm then t else x.land strm t) else x.fall strm frm t

/-- The stream's next word lies in a body whose time has passed (R64). -/
def Ctx.overran (x : Ctx) (strm : Nat) (t : Stream) : Bool := t.late.any (x.inBody strm t.line)

/-- A stream of a context (0 scalar, 1 vector, 2 matrix). -/
def Ctx.stream (x : Ctx) (strm : Nat) : Stream := if strm = 0 then x.regs.str else if strm = 1 then x.vs else x.ms
def Ctx.setStream (x : Ctx) (strm : Nat) (t : Stream) : Ctx :=
  if strm = 0 then { x with regs := { x.regs with str := t } }
  else if strm = 1 then { x with vs := t } else { x with ms := t }

/-- Local cue of the current scene's start. -/
def Ctx.sceneCue (x : Ctx) : Nat := x.rpCue - x.rpOff

/-- The reference of a matrix word (R61): the current iteration of the innermost active level whose
matrix body holds its line, else the scene start; with the level's period. -/
def Ctx.matrixRef (x : Ctx) (line : Nat) : Nat × Option Nat :=
  match x.stack.find? (fun j =>
    (x.levels.get {} j).began && x.inBody 2 line j) with
  | some j => ((x.levels.get {} j).start, some (x.levels.get {} j).period)
  | none => (x.sceneCue, none)

/-- The reference of the matrix stream's next word: the one it had when its time passed, if it has. -/
def Ctx.msRef (x : Ctx) : Nat × Option Nat := x.ms.oref.getD (x.matrixRef x.ms.line)

/-- The matrix stream after a boundary keeps the reference that its word had before it (R61, R64). -/
def Ctx.keepRef (x y : Ctx) : Ctx :=
  if x.ms.late.isEmpty && !y.ms.late.isEmpty then { y with ms := { y.ms with oref := some (x.matrixRef x.ms.line) } } else y

/-- The next boundary of a level: when it is due, and whether it is its end. -/
def Level.next (v : Level) : Option (Nat × Bool) :=
  if !v.active then none
  else if !v.began then some (v.first, v.count == 0)
  else some (v.start + v.period, decide (v.count ≤ v.idx + 1))

/-- The line at which a stream stands (R64): the last line of a level's body while it waits there. -/
def Ctx.standing (x : Ctx) (strm : Nat) (t : Stream) : Nat :=
  match t.wait with
  | some i => match x.loopBody i strm with
    | some (_, l) => if i < 6 then l else t.line
    | none => t.line
  | none => t.line

/-- A boundary of level `j` passes a stream that does not wait for it: in the body, its next word there comes too late. -/
def Ctx.missed (x : Ctx) (strm j : Nat) (t : Stream) : Stream :=
  if t.present && t.done.isNone && x.inBody strm (x.standing strm t) j then { t with late := j :: t.late } else t

/-- A stream at an iteration start of level `j` at cycle `t` (R64), `first` for iteration 0: one that waits at the last
line of the body resumes at its first line, one that waits there for iteration 0 begins. -/
def State.iterStream (s : State) (k : Code) (x : Ctx) (j t : Nat) (first : Bool) (strm : Nat) : Stream :=
  let st := x.stream strm
  match x.loopBody j strm with
  | none => st
  | some (f, _) =>
    if st.wait == some j || (first && st.wait == some 8 && st.line == f && !st.inside.contains j) then
      let slot := match s.lineHdr k f with | some h => h.first | none => 0
      x.reach strm (x.join j { st with
        line := f, slot := slot, prev := t, atRef := true, target := false, wait := none })
    else x.missed strm j st

/-- A stream at the end of level `j` at cycle `t` (R64): it goes on after the last line. -/
def State.endStream (s : State) (k : Code) (x : Ctx) (j t : Nat) (strm : Nat) : Stream :=
  let st := x.stream strm
  match x.loopBody j strm with
  | none => st
  | some (f, l) =>
    let skip := st.wait == some 8 && st.line == f && (x.levels.get {} j).count == 0 && !st.inside.contains j
    let out := fun (u : Stream) => { u with inside := u.inside.filter (· != j) }
    if st.wait == some j || skip then
      let slot := match s.lineHdr k (l + 1) with | some h => h.first | none => 0
      let y := { x with stack := x.stack.filter (· != j) }
      y.fall strm l (out { x.join j st with
        line := l + 1, slot := slot, prev := t, atRef := true, target := false, wait := none })
    else out (x.missed strm j st)

/-- An inner level is active at an iteration start of the level within whose body it started (R64). -/
def Ctx.innerActive (x : Ctx) (j : Nat) : Bool :=
  (List.range 6).any (fun i => (x.levels.get {} i).active && (x.levels.get {} i).within.contains j)

end Sys2Proof.Machine
end

