-- ==== Sys2Proof/Machine/Issue.lean ====
section
/-!
DEFINITION. The issue of one word (R157, R164): what a word asks of the machine as one record, the first
condition of R164 that applies, and the ways a word ends: it takes effect, traps, freezes or is held.
-/
namespace Sys2Proof.Machine

/-- What a word asks for, read from the registers in its issue cycle. The fields follow the order of
R164. -/
structure Form where
  /-- Item 2, beyond what decoding refuses (R161, R163, R239). -/
  illegal : Bool := false
  /-- Item 3. -/
  sched : Bool := false
  /-- Items 4 to 6: cause, `INFO`, `EINFO`. -/
  xfer : Option (Nat × Nat × Nat) := none
  /-- Item 7: blocks read and blocks written (R102). -/
  touch : List Nat := []
  wtouch : List Nat := []
  /-- Windows it sends through, with the packets each needs (R353). -/
  windows : List (Nat × Nat) := []
  /-- The engine whose limit it meets (R252): a pool engine or the core's copy engine. -/
  engine : Option Bool := none
  /-- Item 8: consumed tokens, the produced token (R137), registers read and written (R69, R201),
  scratchpad bytes read (R133), a wait until a local cycle, that of a b register (R170), a scratchpad
  write (R133). -/
  toks : List Nat := []
  prod : Nat := 0
  reads : List Nat := []
  writes : List Nat := []
  bytes : List (Nat × Nat) := []
  wait : Option Nat := none
  waitReg : Option Nat := none
  spWrite : Bool := false
  /-- Item 9: bank rows, the address of a scalar access, a matrix operand out of its group (R95). -/
  rows : List Access := []
  addr : Option Nat := none
  outside : Option Nat := none
  /-- Item 10. -/
  decode : Option Nat := none
  /-- Item 11: cause, `INFO`, `EINFO`. -/
  fault : Option (Nat × Nat × Nat) := none
  /-- Scratchpad blocks accessed (R106), registers and words consumed (R397), another hold. -/
  blocks : List (Nat × Nat) := []
  consumed : List Nat := []
  poisoned : Option (Nat × Nat) := none
  hold : Option (Hold × FaultRec) := none
  /-- A fault that the word's entry adds after those of every vector word (R288, R329). -/
  last : Option (Nat × Nat × Nat) := none
  /-- Address registers, which a failed guard still waits for (R157). -/
  addrRegs : List Nat := []
  /-- Occupancy of a matrix word (R320). -/
  occ : Nat := 1

/-- A record of the current context (kind 0: a stream). -/
def State.recOf (s : State) (cause addr detail : Nat) : FaultRec :=
  let c := s.cur.core
  ⟨cause, whoByte c (s.stageOf c) true, s.reqOf c 0, addr, detail, s.cue⟩

/-! ### Item 8 -/

/-- What a register bound to an access is treated as consuming (R201): token 0 is the hidden one. -/
def Regs.boundBy (r : Regs) (codes : List Nat) : List (Nat × Nat) :=
  (r.bound.filter (fun b => codes.contains b.reg)).map (fun b => (b.tok, b.id))

/-- The first failed token among those consumed. -/
def Regs.failedAmong (r : Regs) (ts : List Nat) : Option Nat :=
  ts.find? (fun t => !r.pending t && r.failed t)

/-- The writes in flight of words of earlier cycles. -/
def State.olderPend (s : State) : List Pend :=
  match s.cur.base with
  | some n => s.regs.pend.filter (fun p => decide (p.seq < n))
  | none => s.regs.pend

/-- A pending token whose completion is a write in flight of the agent itself (R320, R366), of a word of an
earlier cycle. -/
def State.tokWrite (s : State) (t : Nat) : Option Pend :=
  s.olderPend.find? (fun p => match p.w with
    | .tok u i => u == t && s.regs.tokId.get 0 t == i
    | _ => false)

/-- Item 8 for the tokens consumed (R68, R69, R137, R256): of one word's tokens a failed one is met before a
pending one (DESIGN CHOICE, log 59). An interlocked wait for a token in flight is one of `pendFate`. -/
def State.tokenFate (s : State) (strm : Nat) (toks : List Nat) (bound : List (Nat × Nat)) : Option Verdict :=
  let r := s.regs
  match r.failedAmong toks with
  | some t => some (.trap 0x0C t 0 strm)
  | none =>
    match toks.find? (fun t => r.pending t && !(s.interlocked && (s.tokWrite t).isSome)) with
    | some t => some (if s.interlocked then .freeze (.token t) else .trap 1 t 0 strm)
    | none =>
      match bound with
      | [] => none
      | (t, i) :: _ => some (if s.interlocked then .freeze (.access i) else .trap 1 t 0 strm)

/-- The delayed writes of a stream in its forwarding table (R133). -/
def Regs.delayedOf (r : Regs) (strm : Nat) : List Pend :=
  r.pend.filter (fun p => p.delayed && p.strm == strm)

/-- The first of a list of outcomes. -/
def firstOf : List (Option Verdict) → Verdict
  | [] => .went
  | some v :: _ => v
  | none :: l => firstOf l

/-- A ninth entry is needed in the forwarding table of a stream (R133): the writes whose entries free first. -/
def State.tableWait (s : State) (strm : Nat) (f : Form) : List Pend :=
  let held := Regs.delayedOf { s.regs with pend := s.olderPend } strm
  if f.spWrite && decide (8 ≤ held.length) && !s.delays.isEmpty then
    held.filter (fun p => held.all (fun q => decide (p.due ≤ q.due)))
  else []

/-- The writes in flight that a word waits for in interlocked mode (R69, R133, R321, R322). -/
def State.awaited (s : State) (strm : Nat) (f : Form) : List Pend :=
  let l := s.olderPend
  writesTo l f.reads ++ writesOf l strm f.bytes ++ s.tableWait strm f
    ++ (f.prod :: f.toks).filterMap (fun t => if s.regs.pending t then s.tokWrite t else none)

/-- The interlocked waits of item 8 for writes in flight and for a b register (R69, R133, R170): one freeze until
the last is made (log 13). -/
def State.pendFate (s : State) (strm : Nat) (f : Form) : Option Verdict :=
  if !s.interlocked then none
  else
    let l := s.awaited strm f
    let d := l.foldl (fun d p => max d p.seen) (f.wait.getD 0)
    let branch := f.waitReg.filter (fun _ => match f.wait with | some d => decide (s.now < d) | none => false)
    if l.isEmpty && decide (d ≤ s.now) then none
    else some (.freeze (.until (s.cue + (d - s.now)) (l.map (·.seq)) branch))

/-! ### Items 9 to 11 -/

/-- Whether program bank rules apply (R78, R94, R379). -/
def State.timed (s : State) : Bool := !s.cur.sh && !s.me.hnd

/-- Item 9. -/
def State.bankFate (s : State) (strm : Nat) (f : Form) : Option Verdict :=
  match f.outside with
  | some a => some (.trap 9 0 a strm)
  | none =>
    if !s.timed then none
    else match refusedRows s.me s.now f.rows with
      | [] => none
      | r :: _ => some (.trap 9 0 (f.addr.getD (128 * r)) strm)

/-- Who a word of a stagehand or of a handler is at the asynchronous port. -/
def State.portSelf (s : State) : Nat := if s.cur.sh then portSh else portHandler

/-- A stagehand's or a handler's access waits for its turn at its bank (R97, R98). -/
def State.portFate (s : State) (f : Form) : Option Verdict :=
  if s.timed then none
  else (f.rows.find? (fun r => !s.portTurn s.cur.core (128 * r.row) s.portSelf)).map (fun r => .freeze (.port (128 * r.row)))

/-- The owner fault (R106): the first block whose tag is not the context's owner. The stagehand's
accesses pass every tag. -/
def State.ownerFate (s : State) (f : Form) : Option Verdict :=
  if s.cur.sh then none
  else
    let k := s.core s.cur.core
    match f.blocks.find? (fun e => k.tag (spBlock e.1) != s.me.own) with
    | some (a, _) => some (.hold ⟨0x45, .issue⟩ (s.recOf 0x45 a (k.tag (spBlock a))))
    | none => none

/-- Poison consumed (R397): a register by its code, or a word. The number of a register or lane in DETAIL of 0x4E is its
location code (R398; DESIGN CHOICE, log 70). -/
def State.poisonFate (s : State) (f : Form) : Option Verdict :=
  let r := s.regs
  match f.consumed.find? r.mark with
  | some n => some (.hold ⟨0x4E, .restart⟩ (s.recOf 0x4E 0 n))
  | none =>
    match f.poisoned with
    | some (a, n) => some (.hold ⟨0x4E, .restart⟩ (s.recOf 0x4E a n))
    | none => none

/-- The blocks a word waits for (R102). -/
def State.blocksFate (s : State) (f : Form) : Option Verdict :=
  match s.missing s.cur.core (s.stageOf s.cur.core) (distinct (f.touch ++ f.wtouch)) with
  | [] => none
  | l => some (.freeze (.blocks l))

/-- The window allowances a word waits for (R353). -/
def State.windowFate (s : State) (f : Form) : Option Verdict :=
  let c := s.cur.core
  (f.windows.find? (fun (n, need) => decide (s.wallow c (s.stageOf c) n < need))).map
    (fun (n, need) => .freeze (.window n need))

/-- The engine holds its limit: a late token (R252, R68, R69). The cue miss names the token the command
produces. -/
def State.engineFate (s : State) (strm : Nat) (f : Form) : Option Verdict :=
  match f.engine with
  | none => none
  | some pool =>
    let c := s.cur.core
    let n := if pool then ((s.die (dieOf c)).pool.filter (fun e => e.1 == c % 4)).length else (s.core c).cmds.length
    if (if pool then 64 else 32) ≤ n then
      some (if s.interlocked then .freeze (.engine pool) else .trap 1 f.prod 0 strm)
    else none

/-- What a read through a CXL port that is down leads to, once it has timed out (R346, R441): until then the core stands
frozen (DESIGN CHOICE, log 69). -/
def State.onceTimedOut (s : State) (v : Verdict) : Verdict :=
  match s.regs.timeout with
  | some t => if t ≤ s.cue then v else .freeze (.read t)
  | none => .freeze (.read (s.cue + (s.die (dieOf s.cur.core)).fabtmo.toNat))

/-- The hold of a word (R398): for a table entry behind a port that is down, once the walk has timed out. -/
def State.holdFate (s : State) (h : Hold) (r : FaultRec) : Verdict :=
  if h.cause = 0x42 && s.portDown (r.detail / 8 * 8) then s.onceTimedOut (.hold h r) else .hold h r

/-- The fetch of a line waits for its read to time out (R346, R441). -/
def State.fetchWait (s : State) (k : Code) (line : Nat) : Option Freeze :=
  if s.lineDown k line then match s.onceTimedOut .went with
    | .freeze f => some f
    | _ => none
  else none

/-- The first condition of R164 that applies to a word, with `pass` its guard (R157). What the contents of a shape record
raise, decode, overlap and shape faults, comes before the owner fault and the poison of the record's own block (R252; DESIGN
CHOICE, log 76). -/
def State.fate (s : State) (strm : Nat) (pass : Bool) (f : Form) : Verdict :=
  let r := s.regs
  let trap := fun (o : Option (Nat × Nat × Nat)) => o.map (fun (c, i, e) => Verdict.trap c i e strm)
  if f.illegal then .trap 4 0 0 strm
  else if f.sched || s.cur.sched then .trap 2 0 0 strm
  else if !pass then
    firstOf [s.tokenFate strm [] (r.boundBy f.addrRegs), s.pendFate strm { reads := f.reads.take 1 },
      s.bankFate strm f]
  else
    firstOf [trap f.xfer, s.blocksFate f, s.windowFate f,
      s.tokenFate strm (f.toks ++ (if r.pending f.prod then [f.prod] else [])) (r.boundBy (f.reads ++ f.writes)),
      s.engineFate strm f,
      s.pendFate strm f, s.bankFate strm f, s.portFate f,
      f.decode.map (fun a => Verdict.trap 0xA 0 a strm),
      trap f.fault, s.ownerFate f, s.poisonFate f,
      f.hold.map (fun (h, r) => s.holdFate h r), trap f.last]

/-! ### How a word ends -/

/-- Whether what a word waits for is under way: a word of its own bundle that would begin it takes no effect (R164). -/
def State.begun (s : State) (c b : Nat) : Freeze → Bool
  | .token t => (s.regsOf c b false).pending t
  | .access i => s.accs.any (fun a => a.id == i)
  | _ => true

/-- A core freezes (R57), a handler's too; kindling starts for the dark blocks a word touches (R102). The
stagehand waits alone. A word that waits for what its own bundle would begin is decided again in each cycle. -/
def State.freezeBy (s : State) (f : Freeze) : State :=
  let c := s.cur.core
  let b := s.stageOf c
  let f := if s.begun c b f then f else .until (s.cue + 1) [] none
  let s := match f with
    | .blocks l => l.foldl (fun s n => s.kindle c b n true) s
    | .port a => s.portWait c a s.portSelf
    | .read t => s.modRegs (fun r => { r with timeout := some t })
    | _ => s
  if s.cur.sh then s
  else (s.modMe (fun x => { x with frozen := some f })).settle c

/-- A stagehand fault (R375): the record; the word has no effect (log 18). -/
def State.shFault (s : State) (cause : Nat) : State :=
  let c := s.cur.core
  let detail := cause % 2 ^ 32 + s.cur.word % 2 ^ 32 * 2 ^ 32
  let s := s.modRegs (fun r => { r with timeout := none })
  s.pushRec (dieOf c) (some c) ⟨0x4F, whoByte c 0 false % 16, s.reqOf c 3, 0, detail, s.cue⟩

/-- The scalar stream of the current agent moves past its bundle; a TRET of the bundle returns. -/
def State.bundleEnd (s : State) : State :=
  if s.cur.ret then
    ({ s with cur := { s.cur with ret := false } } : State).tret s.cur.core (s.stageOf s.cur.core)
  else
    let t := s.now
    if s.timed then
      s.modMe (fun x => x.setStream 0 (x.moveOn 0 s.cur.line t x.regs.str))
    else s.modRegs (fun r => { r with str := r.str.advance t })

/-- A cause raised after its word took effect is taken when the bundle is over (R376). -/
def State.takeLate (s : State) : State :=
  match s.cur.late with
  | none => s
  | some (cause, info) =>
    let c := s.cur.core
    let s := { s with cur := { s.cur with late := none, verdict := .trap cause info 0 0 } }
    let s := if cause = 0x0E then s.takeRefusal c (s.stageOf c) else s
    s.enterTrap c (s.stageOf c) cause info 0 0

/-- Retirement of a scalar word: after the last word of the bundle the stream moves on (R60, R376). -/
def State.retire (s : State) : State :=
  if s.cur.more then s else s.bundleEnd.takeLate

/-- The record of R110 for a walk that met a table at an unpopulated address: before the hold for it. -/
def State.holdWalk (s : State) (h : Hold) (r : FaultRec) : State :=
  let c := s.cur.core
  if h.cause = 0x42 then
    let kind := if s.cur.sh then 3 else 0
    s.walkRec (dieOf c) { kind := kind, pkg := s.pkgNum, die := dieOf c, core := c % 16, who := r.who % 32 } (r.detail / 8 * 8)
  else s

/-- What becomes of a word whose fate is not to take effect. -/
def State.ends (s : State) (v : Verdict) : State :=
  let c := s.cur.core
  let b := s.stageOf c
  let s := { s with cur := { s.cur with verdict := v } }
  match v with
  | .went => s
  | .trap cause info einfo strm => (s.modRegs (fun r => { r with timeout := none })).enterTrap c b cause info einfo strm
  | .freeze f => s.freezeBy f
  | .hold h r => ((s.modRegs (fun r => { r with timeout := none })).holdWalk h r).hold c b h r

/-- Blocks that a word has touched (R98, R102). -/
def Ctx.touch (x : Ctx) (l : List Nat) : Ctx :=
  { x with touched := l.foldl (fun t n => t ||| BitVec.ofNat 156 (2 ^ n)) x.touched }

/-- A word's accesses booked, the blocks it touches noted, and dousing blocks it writes lit again (R94, R98, R103). -/
def State.commit (s : State) (f : Form) (pass : Bool) : State :=
  let c := s.cur.core
  let s := if s.timed then s.modMe (fun x => book x s.now f.rows)
    else if f.rows.isEmpty then s
    else f.rows.foldl (fun s r => s.portUse ⟨c, 128 * r.row, s.portSelf, none⟩) (s.portLeave c s.portSelf)
  let l := f.touch ++ f.wtouch
  let s := if pass && !s.cur.sh && !l.isEmpty then s.modMe (·.touch l) else s
  if pass then (distinct f.wtouch).foldl (fun s n => s.relight c (s.stageOf c) n) s else s

/-- What a scalar word asks for with its guard, whose predicate it reads first. -/
def Form.guarded (f : Form) (h : SHdr) : Form := { f with reads := codeP h.gp.toNat :: f.reads }

/-- One scalar word: its fate, then its effect when its guard passes. A faulting stagehand word only
leaves its record (R375). -/
def State.scalar (s : State) (h : SHdr) (f : Form) (eff : State → State) : Out :=
  if !s.hasAgent then .fault .noContext
  else
    let pass := s.guard h
    let f := f.guarded h
    match s.fate 0 pass f with
    | .went =>
      let s := { s with cur := { s.cur with verdict := .went } }
      let s := s.commit f pass
      .next ((if pass then eff s else s).retire)
    | .freeze z => .next (s.ends (.freeze z))
    | v =>
      if s.cur.sh then
        let cause := match v with
          | .trap cause _ _ _ => cause
          | .hold h _ => h.cause
          | _ => 0
        let s := match v with
          | .hold h r => s.holdWalk h r
          | _ => s
        .next (({ s with cur := { s.cur with verdict := .went } }).shFault cause).retire
      else .next (s.ends v)

/-- A vector or matrix stream moves past its word; a matrix word occupies its unit (R61). -/
def Ctx.pass (x : Ctx) (strm line now occ : Nat) : Ctx :=
  let t := x.moveOn strm line now (x.stream strm)
  x.setStream strm (if strm = 2 then { t with ref := x.msRef.1, occ := now + occ, oref := none } else t)

/-- One word of the vector or matrix stream. -/
def State.engine (s : State) (strm : Nat) (f : Form) (eff : State → State) : Out :=
  if s.cur.sh || !s.hasAgent then .fault .noContext
  else
    match s.fate strm true f with
    | .went =>
      let t := s.now
      let s := eff (({ s with cur := { s.cur with verdict := .went } } : State).commit f true)
      .next (s.modMe (·.pass strm s.cur.line t f.occ))
    | v => .next (s.ends v)

/-! ### Destination writes of scalar words -/

/-- A latency, longer by a free number of cycles in interlocked mode (R69, log 14). -/
def State.latency (s : State) (k : Nat) : Nat × State :=
  if s.interlocked then
    match s.delays with
    | [] => (k, s)
    | d :: ds => (k + d, { s with delays := ds })
  else (k, s)

/-- `gwrite(n, v, k)` of R177 with a poison mark. -/
def State.gwriteM (s : State) (n : Nat) (v : Word) (k : Nat) (mark : Bool) : State :=
  if n = 0 then s
  else
    let (k, s) := s.latency k
    s.addPend 0 k (.g n v mark)
def State.gwrite (s : State) (n : Nat) (v : Word) (k : Nat) : State := s.gwriteM n v k false
def State.xwriteM (s : State) (n : Nat) (v : DWord) (k : Nat) (mark : Bool) : State :=
  let (k, s) := s.latency k
  s.addPend 0 k (.x n v mark)
def State.xwrite (s : State) (n : Nat) (v : DWord) (k : Nat) : State := s.xwriteM n v k false
def State.pwriteP (s : State) (n : Nat) (v : Bool) (k : Nat) : State :=
  if n = 0 then s
  else
    let (k, s) := s.latency k
    s.addPend 0 k (.p n v)

end Sys2Proof.Machine
end

