-- ==== Sys2Proof/Machine/Access.lean ====
section
/-!
DEFINITION. Global accesses of the streams and the memory path: order within a class (R124), fences
(R126 to R130), requests with tags (R346), completion of tokens (R82, R135, R255).
-/
namespace Sys2Proof.Machine

/-! ### What is outstanding -/

/-- A local write of the scalar stream before number `id` is still to be made. A write in flight carries no class: an
access waits for those of other classes too (log 60). -/
def State.localBefore (s : State) (c b : Nat) (sh : Bool) (id : Nat) : Bool :=
  (s.regsOf c b sh).pend.any (fun p => p.strm == 0 && isLocal p.w && decide (p.seq < id))

/-- An earlier access or command of one stream and class is outstanding (R124), or a fence of the core before it that
names its class (R126, R127). -/
def State.earlier (s : State) (c b : Nat) (sh : Bool) (cls id : Nat) : Bool :=
  s.accs.any (fun a => a.core == c && a.bank == b && a.sh == sh && a.cls == cls && decide (a.id < id))
    || (s.cmdsOf c).any (fun k => k.bank == b && k.sh == sh && k.cls == cls && decide (k.id < id))
    || s.fences.any (fun f => f.core == c && f.sh == sh && bitAt f.mask cls && decide (f.id < id))
    || s.localBefore c b sh id

/-- A posted packet carries something that a core sent (R353). -/
def Posted.ofCore (p : Posted) (c : Nat) : Bool :=
  p.users.any (fun u => u.1 == c) || (p.users.isEmpty && p.pkt.srcCore == c % 16)

/-- Writes in flight of a core's contexts that precede a fence: local ones, and remote ones of its classes for a wide
scope (R126, R128). -/
def FenceRec.before (f : FenceRec) (p : Pend) : Bool :=
  decide (p.seq < f.id) && ((f.mask != 0 && isLocal p.w) || (f.remote && isRemote p.w && bitAt f.mask (remoteCls p.w)))

/-- The predecessors of a fence have performed: those of the issuing core's programs, or of its stagehand (R126, R128,
R129). -/
def State.fenceDone (s : State) (f : FenceRec) : Bool :=
  let mine := fun (cls id : Nat) => bitAt f.mask cls && decide (id < f.id)
  !(s.accs.any (fun a => a.core == f.core && a.sh == f.sh && mine a.cls a.id))
    && !((s.cmdsOf f.core).any (fun k => k.sh == f.sh && mine k.cls k.id))
    && (if f.sh then !(s.core f.core).sh.pend.any f.before
      else !([(s.core f.core).bank0, (s.core f.core).bank1].any (fun o =>
          match o with
          | some x => x.regs.pend.any f.before
          | none => false))
        && (!f.remote || !((s.die (dieOf f.core)).posted.any (fun p => p.ofCore f.core && bitAt f.mask p.pkt.cls)
          || (s.die (dieOf f.core)).outgoing (fun l => l.hasCore f.core && bitAt f.mask l.cls))))

/-! ### Requests (R343, R346) -/

/-- The lowest free tag of a die. -/
def Die.freeTag (k : Die) : Option Nat :=
  if 8192 ≤ k.tagUse.length then none
  else (List.range (k.tagUse.length + 1)).find? (fun t => !k.tagUse.any (fun e => e.1 == t))

/-- A request takes a free tag and leaves; none is free, and it waits (R346). -/
def State.takeTag (s : State) (d : Nat) (p : Packet) (u : TagUser) : State :=
  let k := s.die d
  match k.freeTag with
  | none => s.setDie d { k with tagWait := k.tagWait ++ [(p, u)] }
  | some t =>
    let age := k.tagAge.get 0 t
    let p := { p with srcPkg := s.pkgNum, srcDie := d, tag := t, age := age, route := s.routeWord p.addr }
    let s := s.setDie d { k with tagUse := k.tagUse.put t u, tagDue := k.tagDue.put t (s.cue + k.fabtmo.toNat) }
    let s := s.at_ (s.cue + k.fabtmo.toNat) .requestTimeout { die := d, n := t, m := age }
    s.sendPacket p

/-- A request leaves with a tag, behind those that wait for one (R346). -/
def State.request (s : State) (d : Nat) (p : Packet) (u : TagUser) : State :=
  if (s.die d).tagWait.isEmpty then s.takeTag d p u
  else s.modDie d (fun k => { k with tagWait := k.tagWait ++ [(p, u)] })

/-! ### Sending an access -/

/-- Posted packets of the triple of a core's access, or lanterns that have still to leave (R140). -/
def State.postedBefore (s : State) (c cls pa : Nat) : Bool :=
  let k := s.die (dieOf c)
  k.posted.any (fun p => p.ofCore c && p.pkt.cls == cls && s.destOfPacket p.pkt == s.destOf pa)
    || s.leavingFor c cls (s.destOf pa)

/-- Open lanterns of a die and class with an entry of the core that came before an access (R140). -/
def State.lanternBefore (s : State) (c pkg die cls id : Nat) : Bool :=
  (s.die (dieOf c)).lanterns.any (fun e => e.2.state == 1 && e.2.pkg == pkg && e.2.die == die && e.2.cls == cls
    && e.2.entries.any (fun t => t.core == c && decide (t.seq < id)))

/-- An access must wait (R140): for window writes and stores of its triple that have not left, for lanterns of its triple that
have been emitted and not left (R141, R361), and a read or atomic for the posted packets of its triple. A store to the own
die's cluster SRAM goes there without a packet: it waits for them too, and for the lantern entries before it, which it does
not emit (R124, R141, log 67). -/
def State.pushes (s : State) (a : Acc) : Bool :=
  let read := match a.op with | .store .. => false | _ => true
  let own := (s.remoteOf a.core a.pa).isNone
  let window := match s.tripleDie a.core a.pa with
    | some (pkg, die) => !a.sh && (s.windowBefore a.core pkg die a.cls a.id
        || (own && !read && s.lanternBefore a.core pkg die a.cls a.id))
    | none => false
  !a.bounce && (window || (!a.sh && s.leavingFor a.core a.cls (s.destOf a.pa))
    || s.storesAhead a.core a.cls a.id (s.destOf a.pa)
    || ((read || (own && (s.tripleDie a.core a.pa).isSome)) && s.postedBefore a.core a.cls a.pa))

/-- A wake of another die as a packet (R343, R414). -/
def wakePacket (cls srcCore own pkg die pa : Nat) (data : List Byte) : Packet :=
  { Packet.mk0 11 cls with
    srcCore := srcCore, owner := own, dstPkg := pkg, dstDie := die, addr := pa, payload := data }

/-- A request packet for an access of `n` bytes (R342): a read request has the count in `AUX` (DESIGN CHOICE, log 48). -/
def readRequest (cls n pa : Nat) : Packet := { Packet.mk0 4 cls with addr := pa, aux := n }

/-- The packet of an access from a core (R343). -/
def Acc.packet (a : Acc) (wake : Bool) (own pkg die : Nat) : Packet :=
  let sent := fun (p : Packet) => { p with srcCore := a.core % 16, owner := own, dstPkg := pkg, dstDie := die }
  match a.op with
  | .store n data mark =>
    if wake && n = 8 then wakePacket a.cls (a.core % 16) own pkg die a.pa (toLe 8 data)
    else writePacket a.cls (a.core % 16) own pkg die a.pa ((toLe n data).map (fun b => (b, mark)))
  | .load _ n => sent (readRequest a.cls n a.pa)
  | .watch _ => sent (readRequest a.cls 4 a.pa)
  | .atomic _ op v w =>
    sent { Packet.mk0 6 a.cls with addr := a.pa, aux := op, payload := toLe 4 v.toNat ++ toLe 4 w.toNat }

/-- The emission that an access meets before it leaves (R141): a read or an atomic, and a store to another die. -/
def State.emitsFor (s : State) (a : Acc) : Option (Nat × Nat) :=
  let read := match a.op with | .store .. => false | _ => true
  if a.sh || a.bounce || (!read && (s.remoteOf a.core a.pa).isNone) then none else s.tripleDie a.core a.pa

/-- An access leaves the core (R220, R223): after the emission of R141, as a packet to another die, another package, the
pool or the host, as a wake to another die's wake register (R414), else along a path whose length the manual leaves
open. -/
def State.sendAcc (s : State) (a : Acc) : State :=
  let own := if a.sh then 5 else ((s.ctx a.core a.bank).getD {}).own
  let d := dieOf a.core
  let s := match s.emitsFor a with
    | some (pkg, die) => s.emitFor a.core pkg die a.cls
    | none => s
  if s.pushes a then s
  else
    let s := { s with accs := s.accs.map (fun (e : Acc) => if e.id == a.id then { e with sent := true } else e) }
    match if a.bounce then none else s.remoteOf a.core a.pa with
    | none => s.later .globalAccessComplete { core := a.core, n := a.id }
    | some (pkg, die) =>
      let p := a.packet (s.wakeOf a.core a.pa).isSome own pkg die
      match a.op with
      | .store .. => s.post d p [] none (some a.id)
      | _ => s.request d p (.acc a.core a.id)

/-! ### The memory path of a core moves on -/

/-- Fences that are complete go. -/
def State.endFences (s : State) : State := { s with fences := s.fences.filter (fun f => !s.fenceDone f) }

/-- An access's turn has come. -/
def State.accReady (s : State) (c : Nat) (a : Acc) : Bool :=
  a.core == c && !a.sent && !s.earlier c a.bank a.sh a.cls a.id && !s.pushes a

/-- Accesses whose turn has come leave. -/
def State.sendReady (s : State) (c : Nat) : State :=
  s.accs.foldl (fun s a => if s.accReady c a then s.sendAcc a else s) s

/-- A command's turn has come (R124, R127, R255); one that is not relaxed passes no window write in flight of its class
(R140). -/
def State.cmdReady (s : State) (c : Nat) (k : Cmd) : Bool :=
  k.core == c && k.phase == .waiting && k.waits.isEmpty && !s.earlier c k.bank k.sh k.cls k.id
    && (k.sh || k.shp.rlx || !(s.regsOf c k.bank false).pend.any (fun p =>
      isRemote p.w && remoteCls p.w == k.cls && decide (p.seq < k.id)))

/-- Commands whose turn has come start. -/
def State.startCmds (s : State) (c : Nat) : State :=
  let ready := s.cmdReady c
  let go := fun (k : Cmd) => if ready k then { k with phase := Phase.reading } else k
  let d := dieOf c
  let mine := (s.core c).cmds.filter ready
  let pool := (s.die d).pool.filter (fun e => ready e.2)
  let s := s.modCore c (fun q => { q with cmds := q.cmds.map go })
  let s := s.modDie d (fun q => { q with pool := q.pool.map (fun e => (e.1, go e.2)) })
  let s := mine.foldl (fun s k => s.later .copyTransferStart { core := c, engine := .copy c, n := k.id }) s
  pool.foldl (fun s e => s.later .copyTransferStart { core := c, engine := .pool d e.1, n := e.2.id }) s

/-! ### Completion -/

/-- A numbered command or packet of a die is still under way. -/
def State.underWay (s : State) (d i : Nat) : Bool :=
  (upFrom (16 * d) 16).any (fun c => (s.core c).cmds.any (fun k => k.id == i))
    || (s.die d).pool.any (fun e => e.2.id == i) || (s.die d).posted.any (fun p => p.id == i)

/-- An LFLUSH whose remote writes have all left waits for their packets, and for those of the lanterns that it emitted, which
left in its cycle, whichever context made their entries (R135, R366). -/
def State.flushStage (s : State) (w : TokWait) : TokWait :=
  let left := !(s.regsOf w.core w.bank w.sh).pend.any (fun p =>
      isRemote p.w && decide (p.seq < w.tokId) && bitAt w.flush (remoteCls p.w))
    && !(s.die (dieOf w.core)).outgoing (fun l => l.hasCore w.core && bitAt w.flush l.cls)
  if w.flush != 0 && left then
    { w with
      flush := 0
      waits := ((s.die (dieOf w.core)).posted.filter (fun p =>
        p.users.any (fun u => u.1 == w.core && (u.2.1 == w.bank || (p.lantern.isSome && p.since == w.since)))
          && bitAt w.flush p.pkt.cls)).map (·.id) }
  else w

/-- What a core's waiting token waits for now. -/
def State.tokStage (s : State) (w : TokWait) : TokWait :=
  let w := s.flushStage w
  { w with waits := w.waits.filter (s.underWay (dieOf w.core)) }

/-- Tokens whose operations are done complete (R244, R366). -/
def State.tokPump (s : State) (c : Nat) : State :=
  let l := s.tokWaits.map (fun w => if w.core == c then s.tokStage w else w)
  let open_ := fun (w : TokWait) => w.core != c || w.flush != 0 || !w.waits.isEmpty
  (l.filter (fun w => !open_ w)).foldl (fun s w => s.tokDone w.core w.bank w.sh w.tok w.tokId 0)
    { s with tokWaits := l.filter open_ }

/-- What waited in a core's memory path goes on. -/
def State.pump (s : State) (c : Nat) : State := (((s.tagPump c).tokPump c).endFences.sendReady c).startCmds c

/-- Something that waits in a core's memory path can go on. -/
def State.pumpDue (s : State) (c : Nat) : Bool :=
  s.fences.any (fun f => f.core == c && s.fenceDone f) || s.accs.any (s.accReady c) || (s.cmdsOf c).any (s.cmdReady c)
    || s.tokWaits.any (fun w => w.core == c && s.tokStage w != w)

/-! ### Waits (R146, R147) -/

/-- The stagehand's number beside the banks of a core, where a wait names who waits (log 47). -/
def shBank : Nat := 8

/-- Who waits for an access. -/
def Acc.waiter (a : Acc) : Nat := if a.sh then shBank else a.bank

/-- The wait of a context, or of a stagehand. -/
def State.waitOf (s : State) (c b : Nat) : Option Wait :=
  if b = shBank then (s.core c).shWatch.map (·.1) else (s.ctx c b).bind (·.waitv)

/-- The wait of a context or of a stagehand changes. -/
def State.setWait (s : State) (c b : Nat) (w : Option Wait) : State :=
  if b = shBank then s.modCore c (fun k => { k with shWatch := w.map (fun w => (w, (k.shWatch.map (·.2)).getD 0)) })
  else s.modCtx c b (fun x => { x with waitv := w })

/-- A wake-table entry for a word of cluster SRAM when its die has one free (R147). -/
def State.wakeEntry (s : State) (pa c b : Nat) : Option State :=
  match s.place pa with
  | .sram d =>
    let k := s.die d
    if k.wakeTab.length < 256 then some (s.setDie d { k with wakeTab := (c, b, pa) :: k.wakeTab }) else none
  | _ => none

/-- A waiting context or stagehand is woken (R147, R148). -/
def State.wakeCtx (s : State) (c b : Nat) : State :=
  match s.waitOf c b with
  | none => s
  | some w =>
    if w.woken then s
    else if b = shBank then (s.setWait c b none).dropWakes c b
    else
      let here := s.stageOf c == b && (s.core c).exchange.isNone
      let s := s.setWait c b (if here then none else some { w with woken := true, entry := false, read := none })
      ((s.dropWakes c b).settle c).tryExchange c

/-- WAITV's own read, the first, of a wait. -/
def Wait.first (w : Wait) (id : Nat) : Bool := w.read == some id && w.interval == 16 && !w.entry

/-- The word of a WAITV is read at another die, which holds the value compared: the wake table of that die takes its entry
with the read, so that no write falls between the two (R146, R147). -/
def State.watchAt (s : State) (p : Packet) (v : Nat) (mark : Bool) : State :=
  if p.srcPkg != s.pkgNum || (s.die p.srcDie).tagAge.get 0 p.tag != p.age then s
  else match (s.die p.srcDie).tagUse.find? (fun e => e.1 == p.tag) with
  | some (_, .acc _ id) =>
    match s.accs.find? (fun a => a.id == id) with
    | some a =>
      match a.op, s.waitOf a.core a.waiter with
      | .watch e, some w =>
        if w.first id && !mark && e == BitVec.ofNat 32 v then (s.wakeEntry p.addr a.core a.waiter).getD s else s
      | _, _ => s
    | none => s
  | _ => s

/-- The entry of a wait that begins: made with the read where the word lies at another die, now at the own die; none
leaves the word to be polled (R147). -/
def State.waitEntry (s : State) (pa c b : Nat) : Option State :=
  match s.place pa with
  | .sram d =>
    if d = dieOf c then s.wakeEntry pa c b
    else if (s.die d).wakeTab.contains (c, b, pa) then some s else none
  | _ => none

/-- The wait begins (R146, R147, R149): the word holds the value compared. It is watched by a wake table, or polled. -/
def State.waitBegins (s : State) (c b : Nat) (w : Wait) : State :=
  let w := { w with read := none, begun := s.cue }
  let (w, s) := match s.waitEntry w.pa c b with
    | some s => ({ w with entry := true }, s)
    | none => ({ w with pollAt := s.cue + 16 }, s.at_ (s.cue + 16) .waitvPoll { core := c, bank := b })
  let s := s.setWait c b (some w)
  let bud := ((s.ctx c b).getD {}).waitbud.toNat
  let s := if bud = 0 then s else s.at_ (s.cue + bud) .waitBudgetSpent { core := c, bank := b, n := s.cue }
  s.tryExchange c

/-- The comparison of a WAITV consumes poison (R397): the context is held, or the stagehand's word has no effect but its
record (R375). -/
def State.watchPoison (s : State) (a : Acc) : State :=
  let c := a.core
  let word := (((s.core c).shWatch).map (·.2)).getD 0
  let s := (s.setWait c a.waiter none).dropWakes c a.waiter
  if a.sh then
    s.pushRec (dieOf c) (some c) ⟨0x4F, c % 16, s.reqOf c 3, 0, 0x4E + word % 2 ^ 32 * 2 ^ 32, s.cue⟩
  else s.hold c a.bank ⟨0x4E, .restart⟩ ⟨0x4E, whoByte c a.bank true, s.reqOf c 0, a.pa, 0, s.cue⟩

/-- The word that a context or a stagehand watches has been read (R146, R147): by WAITV itself or by a poll. -/
def State.watched (s : State) (a : Acc) (expect : Word) (v : Nat) (mark : Bool) : State :=
  match s.waitOf a.core a.waiter with
  | none => s
  | some w =>
    if w.read != some a.id then s
    else
      let s := s.setWait a.core a.waiter (some { w with read := none })
      if mark then s.watchPoison a
      else if expect != BitVec.ofNat 32 v then s.wakeCtx a.core a.waiter
      else if !w.first a.id then s else s.waitBegins a.core a.waiter w

/-- The value of an access reaches its register (R201): a landing. -/
def Regs.land (r : Regs) (reg : Nat) (v : Nat) (mark : Bool) : Regs :=
  if reg < 32 then (r.setG reg (BitVec.ofNat 32 v)).setMark (codeG reg) mark
  else (r.setX (reg - 32) (BitVec.ofNat 64 v)).setMark (codeX (reg - 32)) mark

/-- A register's writes of words before an access that are due are made before the access lands there: of two writes of
one cycle the one of the later word stands (R200). -/
def State.settleReg (s : State) (a : Acc) (n : Nat) : State :=
  let all := s.dueList a.core a.bank a.sh
  let now := all.filter (fun p => decide (p.seq < a.id) && (pwriteCodes p.w).contains n)
  if now.isEmpty then s
  else (s.modRegsOf a.core a.bank a.sh (fun r => { r with pend := r.pend.filter (fun p => !now.contains p) })).applyList
    a.core a.bank a.sh all now false

/-- An access has performed: its value lands, its binding ends, its token completes (R135, R201). -/
def State.accDone (s : State) (id v : Nat) (mark : Bool) : State :=
  match s.accs.find? (fun a => a.id == id) with
  | none => s
  | some a =>
    let s := { s with accs := s.accs.filter (fun e => e.id != id) }
    let s := s.modRegsOf a.core a.bank a.sh (fun r => { r with bound := r.bound.filter (fun e => e.id != id) })
    let reg := match a.op with
      | .load reg _ => some reg
      | .atomic reg _ _ _ => some reg
      | .store .. => none
      | .watch _ => none
    let s := match reg with
      | some n =>
        ((s.settleReg a n).modRegsOf a.core a.bank a.sh (·.land n v mark)).modCore a.core (·.logReg a.bank a.sh n)
      | none => s
    let s := match a.op with
      | .watch e => s.watched a e v mark
      | _ => s
    (s.tokDone a.core a.bank a.sh a.tok id 0).pump a.core

/-! ### Fences (R126 to R130) -/

/-- A deferred remote-store fault that is due follows the word (R144); behind a software trap of the bundle it is owed
until the context runs again (DESIGN CHOICE, log 61). -/
def State.deferred (s : State) : State :=
  let c := s.cur.core
  if s.cur.sh || !s.refusalDue c (s.stageOf c) then s
  else if s.cur.late.isNone then { s with cur := { s.cur with late := some (0x0E, 0) } }
  else s.modMe (fun x => { x with owed := true })

/-- Remote writes in flight of a class set leave their lanterns at once (R128). -/
def flushPend (mask : Nat) (p : Pend) : Pend :=
  match p.w with
  | .lantern cls rlx _ els => if bitAt mask cls then { p with w := .lantern cls rlx true els } else p
  | _ => p

/-- The remote writes in flight of both contexts of a core do (R126, R128). -/
def Core.flushPends (k : Core) (mask : Nat) : Core :=
  let f := fun (x : Ctx) => { x with regs := { x.regs with pend := x.regs.pend.map (flushPend mask) } }
  { k with bank0 := k.bank0.map f, bank1 := k.bank1.map f }

/-- A fence of the current agent with a class mask; `remote` for package and system scope. -/
def State.fence (s : State) (mask : Nat) (remote : Bool) : State :=
  let c := s.cur.core
  let b := s.stageOf c
  let sh := s.cur.sh
  let s :=
    if remote && !sh then
      (s.emitWhere (dieOf c) (fun l => l.hasCore c && bitAt mask l.cls)).modCore c (·.flushPends mask)
    else s
  let (i, s) := s.fresh
  ({ s with fences := s.fences ++ [FenceRec.mk i c b sh mask remote] } : State).endFences.deferred

/-- The fence mask that release and acquire imply (R130). -/
def State.impliedMask (s : State) : Nat := if s.cur.sh then 0xFFFF else 0x7FFF

/-- A physical address needs package scope or wider (R130). -/
def State.wideScope (s : State) (c pa : Nat) : Bool :=
  match s.place pa with
  | .sram d => d != dieOf c
  | _ => true

end Sys2Proof.Machine
end

