-- ==== Sys2Proof/Machine/Park.lean ====
section
/-!
DEFINITION. Parking and starting contexts (R387 to R389, R395, R405), as the words of the stagehand begin
it and the events of the table go on with it.
-/
namespace Sys2Proof.Machine

/-- A token of a stagehand operation completes (R135, R256). -/
def State.shDone (s : State) (c tok id cause : Nat) : State := s.tokDone c 0 true tok id cause

/-! ### Spares (R405) -/

/-- Units found lasting are spared at a context boundary: it takes effect in the cycle after it, before any word of that
cycle issues (R439). -/
def State.spare (s : State) (c : Nat) : State :=
  if (s.core c).sparing.isEmpty then s else s.at_ (s.cue + 1) .selfTestEnd { core := c, flag := true }

/-- The sparing takes effect; without a spare the exposed count of the die falls. -/
def State.spareNow (s : State) (c : Nat) : State :=
  let l := (s.core c).sparing
  l.foldl (fun s _ =>
    let s' := { s with freeIx := s.freeIx + 1 }
    if Config.spareRemains s.freeIx then s'
    else { s' with exposed := s'.exposed.put (dieOf c) (s'.exposed.get 16 (dieOf c) - 1) })
    (s.modCore c (fun k => { k with sparing := [] }))

/-! ### Parking (R387) -/

/-- A record held outside the buffer concerns a context of a core (R400). -/
def heldFor (c b : Nat) (e : Option Nat × FaultRec × Option Packet) : Bool := e.1 == some c && e.2.1.who / 16 % 2 == b

/-- A parking context takes the records that its core holds for it (R387, R400). -/
def State.keepRecs (s : State) (c b : Nat) : State :=
  let l := ((s.die (dieOf c)).fbheld.filter (heldFor c b)).map (·.2.1)
  (s.modCtx c b (fun x => { x with recsKept := x.recsKept ++ l })).modDie (dieOf c) (fun k => { k with
    fbheld := k.fbheld.filter (fun e => !heldFor c b e) })

/-- A context whose park has failed gives its records back to its core, which holds them again in the order in which they were
raised (R400). -/
def State.giveRecs (s : State) (c b : Nat) : State :=
  let l := ((s.ctx c b).getD {}).recsKept
  if l.isEmpty then s
  else
    let s := (s.modCtx c b (fun x => { x with recsKept := [] })).modDie (dieOf c) (fun k => { k with
      fbheld := sortBy (fun a b => decide (a.2.1.stamp < b.2.1.stamp)) (k.fbheld ++ l.map (fun r => (some c, r, none))) })
    (s.modCtx c (s.stageOf c) (fun x => if x.frozen.isSome then x else { x.halt s.cue with frozen := some .record })).at_
      s.cue .faultRecordEnter { die := dieOf c }

/-- The commands and accesses of a context that are not complete, and its remote writes that have not left. -/
def State.traffic (s : State) (c b : Nat) : Bool :=
  (s.regsOf c b false).pend.any (fun p => isRemote p.w) || (s.cmdsOf c).any (fun k => k.bank == b && !k.sh)
    || s.accs.any (fun a => a.core == c && a.bank == b && !a.sh)

/-- Step 5 of a park has come: the commands, accesses and write-outs of its context have ended. -/
def State.parkReady (s : State) (c : Nat) (p : Park) : Bool :=
  p.phase == 1 && p.unread.all (fun t => decide (t ≤ s.cue)) && !s.traffic c p.bank && !(s.core c).xfers.any (fun t => t.bank == p.bank && t.out)

/-- The descriptor of a parking context cannot be read: recorded (R387, R398). -/
def State.descFails (s : State) (c b : Nat) : State :=
  (s.descRec c b).ctxRec c b true 0x48 1 ((s.ctx c b).getD {}).ctxdesc.toNat (2 ^ 64 - 1)

/-- Step 5 of a park: once its commands and write-outs have ended, the control block is written out; a
park with a failed write-out ends with cause 13. -/
def State.parkPump (s : State) (c : Nat) : State :=
  (s.core c).parks.foldl (fun s p =>
    if !s.parkReady c p then s
    else if p.failed then
      let s := s.modCore c (fun k => { k with parks := k.parks.filter (· != p) })
      let s := if p.unread.isSome then s.descFails c p.bank else s
      let s := (s.modCtx c p.bank (fun x => { x with life := .live, held := some ⟨0x48, .restart⟩ })).giveRecs c p.bank
      s.shDone c p.tok p.tokId 13
    else
      let s := s.modCore c (fun k => { k with
        parks := k.parks.map (fun q => if q == p then { q with phase := 2 } else q) })
      s.later .controlBlockWriteOut { core := c, bank := p.bank, flag := true }) s

/-- The context as stopped at its last restart point, its handler discarded (R387). -/
def Ctx.stopAtPoint (x : Ctx) (cue : Nat) : Ctx :=
  { x.restart cue with
    clock := .stopped x.rpCue, arrived := none, entry := none, frozen := none, held := none, waitv := none, after := false }

/-- A lit register block without an image is discarded (R387): dark, its contents zero. -/
def State.discard (s : State) (c b n : Nat) : State :=
  if presenceOk (s.presence c b n) then (s.zeroBlock c b n).setPresence c b n .dark else s

/-- The commands of a context that wait for the stagehand make their accesses again: at RESUME (R399), or when it is
parked (R392, log 55). -/
def State.unstick (s : State) (c b : Nat) : State :=
  let mine := fun (k : Cmd) => k.core == c && k.bank == b && !k.sh && k.stuck
  let go := fun (k : Cmd) => if mine k then { k with stuck := false } else k
  let again := fun (s : State) (e : Engine) (k : Cmd) =>
    if mine k then
      s.at_ s.cue (if k.phase == .walk then .copyDestinationWalk else .copyRequest) { core := c, engine := e, n := k.id }
    else s
  let d := dieOf c
  let s := (s.core c).cmds.foldl (fun s k => again s (.copy c) k) s
  let s := (s.die d).pool.foldl (fun s x => again s (.pool d x.1) x.2) s
  (s.modCore c (fun q => { q with cmds := q.cmds.map go })).modDie d (fun q => { q with
    pool := q.pool.map (fun (x : Nat × Cmd) => (x.1, go x.2)) })

/-- A parking context's entries of the lantern fault log are taken into its control block, as many as the log holds for
one context (R364, R387): those before its park begins, and those until the block is written out (R144). -/
def State.keepRefusals (s : State) (c b : Nat) : State :=
  let mine := fun (e : LfEntry) => e.core == c && e.bank == b
  let l := (s.die (dieOf c)).lfl.filter mine
  (s.modCtx c b (fun x => { x with
    rsfKept := (x.rsfKept ++ l).take 4, lost := x.lost || decide (4 < (x.rsfKept ++ l).length) })).modDie (dieOf c)
      (fun k => { k with lfl := k.lfl.filter (fun e => !mine e) })

/-- Steps 1 to 4 of a park: `back` when the context counts as stopped at its last restart point. -/
def State.parkStart (s : State) (c : Nat) (p : Park) (back : Bool) : State :=
  let b := p.bank
  let d := dieOf c
  let s := s.drain c b
  let s := if back then s.withdraw c b else s
  match s.ctx c b with
  | none => s
  | some x =>
    let x := if back then x.stopAtPoint s.cue else { x.stop s.cue with held := none, frozen := none, waitv := none }
    let x := { x with
      life := .parking, booked := []
      keptCtl := (s.core c).castctl
      keptId := (s.core c).castid
      keptRoot := (s.core c).castroot }
    let x := { x with regs := { x.regs with pend := x.regs.pend.map (flushPend 0xFFFF) } }
    let s := (s.setCtx c b x).emitWhere d (fun l => l.hasCtx c b)
    let s := ((s.keepRefusals c b).keepRecs c b).dropWakes c b
    let s := if s.stageOf c == b then s.portLeave c portHandler else s
    -- pulls of the context that have not ended leave their blocks dark (R407)
    let pulls := ((s.core c).xfers.filter (fun t => t.bank == b && !t.out)).map (·.block)
    let s := (pulls.foldl (fun s n => s.setPresence c b n .dark) s)
    let s := s.modCore c (fun k => { k with
      xfers := k.xfers.filter (fun t => !(t.bank == b && !t.out))
      starts := k.starts.filter (fun t => t.bank != b)
      parks := k.parks.map (fun q => if q == p then { q with phase := 1 } else q) })
    let s := s.blockTokens c
    let s := s.unstick c b
    let s := s.descTouch c b
    let desc := s.descAt x
    match desc.bind (fun a => if s.descError a false == none then some a else none) with
    | none =>
      let late := if s.descDown c b then some (s.cue + (s.die d).fabtmo.toNat) else none
      let s := if late.isSome then s else s.descFails c b
      s.modCore c (fun k => { k with
        parks := k.parks.map (fun q => if q.bank == b && q.phase == 1 then { q with failed := true, unread := late } else q) })
    | some a =>
      ((upFrom 1 155).foldl (fun s n =>
        if (s.descImage a n).img then s.douse c b n
        else if n < 28 then s.discard c b n
        else s) s).blockTokens c

/-- The point of a park or of an exchange (R387): `how` 0 exchanges the banks. -/
def State.parkAt (s : State) (c : Nat) (p : Park) : State :=
  let k := s.core c
  if p.how = 0 then
    let other := k.bank (1 - p.bank)
    let ok := k.stage == p.bank && (match other with | some y => y.runnable | none => false)
      && k.exchange.isNone && !k.framesWorlds
    let s := s.modCore c (fun k => { k with
      parks := if ok then k.parks.map (fun q => if q == p then { q with phase := 3 } else q)
        else k.parks.filter (· != p) })
    if ok then s.startExchange c else s.shDone c p.tok p.tokId 10
  else
    let back := p.how == 2 || k.stage != p.bank
    -- a CTXRUN that has not ended does not end (log 55)
    let open_ := k.starts.filter (fun t => t.bank == p.bank)
    let s := open_.foldl (fun s t => s.shDone c t.tok t.tokId 10) s
    (((s.parkStart c p back).spare c).settle c).parkPump c |>.tryExchange c

/-- A context in a bank stands where a park takes effect at once (R387). -/
def Core.parkNow (k : Core) (p : Park) : Bool := p.how == 2 || k.stage != p.bank

/-! ### Starting (R389) -/

/-- CTXRUN fails: the bank stays, or is empty again, and its world is not live. -/
def State.startFails (s : State) (c b tok id cause : Nat) : State :=
  let own := ((s.ctx c b).getD {}).own
  let s := s.modCore c (fun k => { k with
    wlive := if own < 4 then k.wlive &&& ~~~ BitVec.ofNat 4 (2 ^ own) else k.wlive
    starts := k.starts.filter (fun t => t.bank != b)
    xfers := k.xfers.filter (fun t => !(t.bank == b && t.block == 0)) })
  ((s.modCore c (·.setBank b none)).shDone c tok id cause).startXfers c

/-- The control block has been pulled (R389): the context as saved, its blocks dark, the core's cast
registers; every block is pulled when the context must not start dark. -/
def State.startPulled (s : State) (c : Nat) (st : Start) (bs : List Byte) : State :=
  let b := st.bank
  let desc := ((s.ctx c b).getD {}).ctxdesc
  let im := s.descImage desc.toNat 0
  match s.ctlOpen bs with
  | none =>
    (s.ctxRec c b false 0x4A 3 desc.toNat 64).startFails c b st.tok st.tokId 11
  | some x =>
    let own := if im.world < 4 then im.world else 4
    let kept := x.recsKept
    let x := { x with
      life := .starting, own := own, ctxdesc := desc, descVa := false, recsKept := []
      blocks := (upFrom 1 27).foldl (fun (t : Tab Presence) n => t.put n .dark) ([(0, .lit)] : Tab Presence) }
    let s := s.setCtx c b x
    let s := (upFrom 28 128).foldl (fun s n =>
      let e := s.descImage desc.toNat n
      if e.img then s.modCore c (fun k => { k with
        spImg := k.spImg.put (n - 28) e, spBlk := k.spBlk.put (n - 28) .dark }) else s) s
    let s := s.modCore c (fun k => { k with
      castctl := x.keptCtl &&& 1, castid := x.keptId, castroot := x.keptRoot })
    let s := kept.foldl (fun s r => s.pushRec (dieOf c) (some c) r) s
    if st.eager || im.world < 4 then
      let s := s.modCore c (fun k => { k with
        starts := k.starts.map (fun t => if t == st then { t with eager := true } else t) })
      (upFrom 1 155).foldl (fun s n => s.kindle c b n false) s
    else s

end Sys2Proof.Machine
end

