-- ==== Sys2Proof/Machine/System.lean ====
section
/-!
DEFINITION. System words: TRET and TRAP (R381, R382), parking and starting (R387 to R391), fault service
(R402), self-test (R406), LFLUSH, SCENE and ALIGNC (R366 to R370).
-/
namespace Sys2Proof.Machine

/-! ### TRET and TRAP -/

/-- What TRET asks for (R381). -/
def tretForm (s : State) : Form := { fault := if !s.cur.sh && s.me.tretOk then none else some (5, 0, 0) }

/-- TRET (R381): the return is made when the bundle is over. A stagehand's is illegal use (R375). -/
def execTret (h : SHdr) (s : State) : Out :=
  s.scalar h (tretForm s)
    (fun s => { s with cur := { s.cur with ret := true } })

/-- TRAP (R382): taken after its bundle. A stagehand's is recorded (R375). -/
def execTrap (h : SHdr) (code : BitVec 6) (s : State) : Out :=
  s.scalar h { fault := if s.cur.sh then some (0x12, code.toNat, 0) else none }
    (fun s =>
      let trap := { s with cur := { s.cur with late := some (0x12, code.toNat) } }
      match s.cur.late with
      | none => trap
      | some (cause, _) => if cause = 0x0E then trap.modMe (fun x => { x with owed := true }) else s)

/-! ### The stagehand's words -/

/-- A form reserved to the stagehand (R161); `bad` when its operands break its limits (log 18). -/
def State.shForm (s : State) (h : SHdr) (a : BitVec 5) (tp : BitVec 6) (bad : Bool) : Form :=
  { illegal := !s.cur.sh || (s.guard h && bad), prod := tp.toNat
    reads := [codeG a.toNat], consumed := [codeG a.toNat] }

/-- A token is produced; the number of its producer. -/
def State.producing (s : State) (tp : BitVec 6) : Nat × State :=
  let (i, s) := s.fresh
  (i, s.modRegs (·.produce tp.toNat i))

/-- What CTXPARK asks for. -/
def ctxparkForm (h : SHdr) (tp : BitVec 6) (a : BitVec 5) (s : State) : Form :=
  let v := (s.g a.toNat).toNat
  s.shForm h a tp (v % 4 == 3 || bits v 31 3 != 0)

/-- CTXPARK (R387). -/
def execCtxpark (h : SHdr) (tp : BitVec 6) (a : BitVec 5) (s : State) : Out :=
  let v := (s.g a.toNat).toNat
  let how := v % 4
  let b := bits v 2 2
  s.scalar h (ctxparkForm h tp a s)
    (fun s =>
      let c := s.cur.core
      let (i, s) := s.producing tp
      let k := s.core c
      match k.bank b with
      | none => s.shDone c tp.toNat i 10
      | some x =>
        let ok := match k.bank (1 - b) with | some y => y.runnable | none => false
        if how = 0 && (k.stage != b || !ok) then s.shDone c tp.toNat i 10
        else
          let p : Park := ⟨b, how, tp.toNat, i, 0, false, none⟩
          let s := s.modCore c (fun k => { k with parks := k.parks ++ [p] })
          if !k.parkNow p then s
          else
            let t := match x.entry with | some (t, _) => t | none => s.cue
            s.at_ t .parkPoint { core := c, bank := b })

/-- What CTXRUN asks for. -/
def ctxrunForm (h : SHdr) (tp : BitVec 6) (xa : BitVec 3) (a : BitVec 5) (s : State) : Form :=
  let v := (s.g a.toNat).toNat
  let desc := (s.x xa.toNat).toNat
  let f := s.shForm h a tp (bits v 31 2 != 0 || desc % 4096 != 0 || bits desc 63 52 != 0)
  { f with reads := codeX xa.toNat :: f.reads, consumed := codeX xa.toNat :: f.consumed }

/-- CTXRUN (R388, R389): the checks that need no pull; then the control block is pulled. -/
def execCtxrun (h : SHdr) (tp : BitVec 6) (xa : BitVec 3) (a : BitVec 5) (s : State) : Out :=
  let v := (s.g a.toNat).toNat
  let desc := (s.x xa.toNat).toNat
  let b := v % 2
  s.scalar h (ctxrunForm h tp xa a s)
    (fun s =>
      let c := s.cur.core
      let d := dieOf c
      let (i, s) := s.producing tp
      let k := s.core c
      let fails := fun (s : State) (cause : Nat) => s.shDone c tp.toNat i cause
      let world := s.peek (desc + 5) 1
      let place := fun (d : Nat) => s.peek (desc + 8 + d) 1
      if (k.bank b).isSome then fails s 10
      else match s.descError desc true with
        | some off =>
          if !s.readable desc 4096 && s.portsUp.readable desc 4096 then
            -- the read of the descriptor times out (R346, R441)
            ((s.modCore c (·.setBank b (some {
              life := .starting, ctxdesc := BitVec.ofNat 64 desc, blocks := [(0, .kindling false)] }))).modCore c (fun k => { k with
              starts := k.starts ++ [⟨b, tp.toNat, i, false, true⟩]
              xfers := k.xfers ++ [⟨b, 0, false, false, true⟩] })).afterFabtmo c .blockPullEnd { core := c, bank := b }
          else fails ((s.unpopRec d (s.agent c 0 3) desc 4096).ctxRec c b false 0x4A 3 desc off) 11
        | none =>
          if (decide (world < 4) && b == 1) || (world == 0xFF && b == 0 && k.framesWorlds) then
            fails (s.ctxRec c b false 0x4A 3 desc 5) 11
          else if (List.range 8).any (fun d => place d != 0 && place d != s.exposed.get 16 d) then
            fails (s.ctxRec c b false 0x49 3 desc
              (packElems 8 ((List.range 8).map (fun d => s.exposed.get 16 d)))) 12
          else
            let x : Ctx := {
              life := .starting, ctxdesc := BitVec.ofNat 64 desc, own := if world < 4 then world else 4
              blocks := [(0, .kindling false)] }
            let s := (s.modCore c (·.setBank b (some x))).modCore c (fun k => { k with
              wlive := if world < 4 then k.wlive ||| BitVec.ofNat 4 (2 ^ world) else k.wlive
              starts := k.starts ++ [⟨b, tp.toNat, i, bitAt v 1, false⟩]
              xfers := k.xfers ++ [⟨b, 0, false, false, false⟩] })
            s.startXfers c)

/-- Bounds and bank of KINDLE and DOUSE (R390). -/
def blockRange (v : Nat) : Nat × Nat × Nat := (bits v 7 0, bits v 15 8, bits v 16 16)
def blockRangeBad (v : Nat) : Bool :=
  decide (bits v 15 8 < bits v 7 0) || decide (155 < bits v 15 8) || bits v 31 17 != 0

/-- KINDLE and DOUSE: `out` for DOUSE (R390). -/
def blockWord (out : Bool) (h : SHdr) (tp : BitVec 6) (a : BitVec 5) (s : State) : Out :=
  let v := (s.g a.toNat).toNat
  s.scalar h (s.shForm h a tp (blockRangeBad v))
    (fun s =>
      let c := s.cur.core
      let (i, s) := s.producing tp
      let (first, last, b) := blockRange v
      match s.ctx c b with
      | none => s.shDone c tp.toNat i 10
      | some _ =>
        let s := (upFrom first (last + 1 - first)).foldl (fun s n =>
          if n = 0 then s else if out then s.douse c b n else s.kindle c b n false) s
        (s.modCore c (fun k => { k with
          blkToks := k.blkToks ++ [⟨b, first, last, out, tp.toNat, i⟩] })).blockTokens c)

/-- KINDLE (R390). -/
def execKindle (h : SHdr) (tp : BitVec 6) (a : BitVec 5) (s : State) : Out := blockWord false h tp a s
/-- DOUSE (R390). -/
def execDouse (h : SHdr) (tp : BitVec 6) (a : BitVec 5) (s : State) : Out := blockWord true h tp a s

/-- What TAGSET asks for. -/
def tagsetForm (h : SHdr) (tp : BitVec 6) (a : BitVec 5) (s : State) : Form :=
  let v := (s.g a.toNat).toNat
  s.shForm h a tp (bits v 18 16 == 7 || decide (bits v 14 8 < bits v 6 0) || bitAt v 7 || bitAt v 15
    || bits v 31 20 != 0)

/-- TAGSET (R391, R106). -/
def execTagset (h : SHdr) (tp : BitVec 6) (a : BitVec 5) (s : State) : Out :=
  let v := (s.g a.toNat).toNat
  let first := bits v 6 0
  let last := bits v 14 8
  let tag := bits v 18 16
  s.scalar h (tagsetForm h tp a s)
    (fun s =>
      let c := s.cur.core
      let (i, s) := s.producing tp
      let blocks := upFrom first (last + 1 - first)
      if bitAt v 19 then
        (s.modCore c (fun k => { k with tagWaits := k.tagWaits ++ [⟨blocks, tag, tp.toNat, i, true⟩] })).later
          .tagsetClearComplete { core := c, n := i }
      else
        let busy := fun (n : Nat) => match (s.core c).spBlk.get .lit n with
          | .kindling _ => true
          | .dousing => true
          | _ => false
        let rest := blocks.filter busy
        let s := (blocks.filter (fun n => !busy n)).foldl (fun s n => s.addPend 0 1 (.otag n n tag)) s
        if rest.isEmpty then s.addPend 0 1 (.tok tp.toNat i)
        else s.modCore c (fun k => { k with tagWaits := k.tagWaits ++ [⟨rest, tag, tp.toNat, i, false⟩] }))

/-- The 32 bytes of a record as a number (R401). -/
def FaultRec.num (r : FaultRec) : Nat :=
  r.cause % 256 + r.who % 256 * 2 ^ 8 + r.req % 2 ^ 32 * 2 ^ 32 + r.addr % 2 ^ 64 * 2 ^ 64
    + r.detail % 2 ^ 64 * 2 ^ 128 + r.stamp % 2 ^ 64 * 2 ^ 192

/-- FBPOP (R402). -/
def execFbpop (h : SHdr) (a : BitVec 5) (s : State) : Out :=
  s.scalar h { illegal := !s.cur.sh, writes := [codeG a.toNat] }
    (fun s =>
      let c := s.cur.core
      let d := dieOf c
      match (s.die d).fbuf with
      | [] => s.gwrite a.toNat 0 1
      | r :: rest =>
        let s := s.modDie d (fun k => { k with fbuf := rest })
        let s := if (s.die d).fbheld.isEmpty then s else s.at_ s.cue .faultRecordEnter { die := d }
        let s := s.modCore c (fun k => { k with
          fbrec := (List.range 8).map (fun w => (w, BitVec.ofNat 32 (elemAt r.num 32 w))) })
        s.gwrite a.toNat (BitVec.ofNat 32 r.num) 1)

/-- SHSLEEP (R402): the words of its bundle still issue. -/
def execShsleep (h : SHdr) (a : BitVec 5) (s : State) : Out :=
  s.scalar h { illegal := !s.cur.sh, reads := [codeG a.toNat], consumed := [codeG a.toNat] }
    (fun s =>
      let c := s.cur.core
      let v := (s.g a.toNat).toNat
      let s := s.modCore c (fun k => { k with
        shAwake := false, shLimit := if v = 0 then none else some (s.cue + v) })
      if v = 0 then s else s.at_ (s.cue + v) .shsleepLimit { core := c })

/-- What SELFTEST asks for. -/
def selftestForm (h : SHdr) (tp : BitVec 6) (a : BitVec 5) (s : State) : Form :=
  let v := (s.g a.toNat).toNat
  s.shForm h a tp (bits v 31 4 != 0 || decide (8 ≤ v % 16))

/-- A self-test starts: it needs a number of stagehand cycles that the manual leaves open (log 2). -/
def State.startTest (s : State) (c unit start tok id : Nat) (r : Option FaultRec) : State :=
  let (d, s) := s.popDelay
  s.modCore c (fun k => { k with selftests := k.selftests ++ [(⟨unit, start, d, tok, id, r⟩ : SelfTest)] })

/-- SELFTEST (R406). -/
def execSelftest (h : SHdr) (tp : BitVec 6) (a : BitVec 5) (s : State) : Out :=
  let v := (s.g a.toNat).toNat
  s.scalar h (selftestForm h tp a s)
    (fun s =>
      let c := s.cur.core
      let (i, s) := s.producing tp
      s.startTest c (v % 16) s.cue tp.toNat i none)

/-! ### LFLUSH (R366) -/

/-- What LFLUSH asks for. -/
def lflushForm (tp : BitVec 6) (a : BitVec 5) : Form :=
  { prod := tp.toNat, reads := [codeG a.toNat], consumed := [codeG a.toNat] }

/-- LFLUSH. -/
def execLflush (h : SHdr) (tp : BitVec 6) (a : BitVec 5) (s : State) : Out :=
  s.scalar h (lflushForm tp a)
    (fun s =>
      let c := s.cur.core
      let b := s.stageOf c
      let mask := (s.g a.toNat).toNat % 2 ^ 15
      let s := s.emitWhere (dieOf c) (fun l => l.hasCore c && bitAt mask l.cls)
      let (i, s) := s.producing tp
      let s :=
        if mask = 0 then s.addPend 0 1 (.tok tp.toNat i)
        else
          let s := if s.cur.sh then s else s.modMe (fun x =>
            { x with regs := { x.regs with pend := x.regs.pend.map (flushPend mask) } })
          ({ s with tokWaits := s.tokWaits ++ [TokWait.mk c b s.cur.sh tp.toNat i [] mask s.cue] } : State).pump c
      s.deferred)

/-! ### SCENE (R368) -/

/-- SCENE of a form is refused (R368): a temporal level is active, or another stream has issued the other
form. -/
def Ctx.sceneBad (x : Ctx) (strm : Nat) (last : Bool) : Bool :=
  x.stack.any (fun j => (x.levels.get {} j).active)
    || (List.range 3).any (fun i => i != strm && (x.stream i).done == some (!last))

/-- What SCENE of the scalar stream asks for. -/
def sceneForm (last : Bool) (s : State) : Form :=
  { illegal := s.cur.sh, sched := !s.cur.sh && s.me.sceneBad 0 last }

/-- SCENE in the scalar stream: in a handler it ends the handler (R379). -/
def scalarScene (last : Bool) (n : BitVec 3) (s : State) : Out :=
  let hnd := !s.cur.sh && s.me.hnd
  match s.scalar ⟨n, 0, false⟩ (sceneForm last s)
      (fun s => s.modRegs (fun r => { r with str := { r.str with done := some last } })) with
  | .next t =>
    if hnd && t.cur.verdict == .went then
      let c := t.cur.core
      let b := t.stageOf c
      .next ((t.modCtx c b (·.sceneInHandler t.cue last)).afterHandler c b)
    else .next t
  | o => o

/-- SCENE (R368). -/
def execScene (n : BitVec 3) (s : State) : Out := scalarScene false n s
/-- SCENE.LAST (R368). -/
def execSceneLast (n : BitVec 3) (s : State) : Out := scalarScene true n s

/-- SCENE in the vector (1) or matrix (2) stream. -/
def engineScene (strm : Nat) (last : Bool) (s : State) : Out :=
  s.engine strm { sched := s.me.sceneBad strm last }
    (fun s => s.modMe (fun x => x.setStream strm { x.stream strm with done := some last }))

/-- SCENE in the vector stream (R367, R368). -/
def execVscene (_n : BitVec 4) (s : State) : Out := engineScene 1 false s
/-- SCENE.LAST in the vector stream. -/
def execVsceneLast (_n : BitVec 4) (s : State) : Out := engineScene 1 true s
/-- SCENE in the matrix stream. -/
def execMscene (_stamp : BitVec 20) (s : State) : Out := engineScene 2 false s
/-- SCENE.LAST in the matrix stream. -/
def execMsceneLast (_stamp : BitVec 20) (s : State) : Out := engineScene 2 true s

/-! ### ALIGNC (R370) -/

/-- A launch is armed or running. -/
def Launch.going (l : Launch) : Bool := l.state == .armed || l.state == .running

/-- A launch has cores in the scope of an ALIGNC: the package `pkg`, its rack ring, the hall ring (R339, R369). -/
def Launch.inScope (l : Launch) (pkg scope : Nat) : Bool :=
  l.packages.any (fun p => scope == 2 || p == pkg || (scope == 1 && p / 64 == pkg / 64))

/-- The links of a scope are up on every die: rack links 2 and 3, hall links 4 and 5 (R340). -/
def State.scopeUp (s : State) (scope : Nat) : Bool :=
  (List.range 8).all (fun d =>
    let l := (s.die d).linkdn.toNat
    if scope = 0 then bits l 1 0 == 0 else if scope = 1 then bits l 3 2 == 0 else bits l 5 2 == 0)

/-- What ALIGNC asks for. -/
def aligncForm (h : SHdr) (tp : BitVec 6) (a : BitVec 5) (s : State) : Form :=
  let v := (s.g a.toNat).toNat
  s.shForm h a tp (v % 4 == 3 || bits v 31 2 != 0)

/-- ALIGNC (R370): whether another package of a wider scope has a launch armed or running is a free value (log 44). -/
def execAlignc (h : SHdr) (tp : BitVec 6) (a : BitVec 5) (s : State) : Out :=
  let v := (s.g a.toNat).toNat
  s.scalar h (aligncForm h tp a s)
    (fun s =>
      let c := s.cur.core
      let (i, s) := s.producing tp
      let other := v % 4 != 0 && Config.otherGoing s.freeIx
      let s := { s with freeIx := s.freeIx + b2n (v % 4 != 0) }
      if s.launches.any (fun l => l.going && l.inScope s.pkgNum (v % 4)) || other then s.shDone c tp.toNat i 9
      else s.later .aligncComplete { core := c, n := tp.toNat, m := i, width := v % 4, flag := s.scopeUp (v % 4) })

end Sys2Proof.Machine
end

