-- ==== Sys2Proof/Machine/Deliver.lean ====
section
/-!
DEFINITION. What agents do at physical addresses (R110, R118, R119, R396): memory, unpopulated addresses,
register pages (R116, R271, R348, R372, R409 to R414, R433, R442), and landings at a core's asynchronous port
(R104, R362).
-/
namespace Sys2Proof.Machine

/-! ### Requesters -/

/-- R118, copy commands of a stagehand apart. -/
def State.trusts (s : State) (r : Requester) : Bool :=
  r.pkg == s.pkgNum && (r.kind == 3 || r.kind == 5 || r.kind == 6 || r.kind == 7)

/-! ### Register pages: values -/

/-- `QSTAT` (R411). -/
def Die.qstat (k : Die) (q : Nat) : Nat :=
  let u := k.queues.get {} q
  u.state + (if u.state = 3 then u.ecause * 256 else 0) + b2n (k.curQ == some q) * 65536

/-- A 32-bit half of a 64-bit register at an offset. -/
def half (v : DWord) (hi : Bool) : Nat := if hi then v.toNat / 2 ^ 32 else v.toNat % 2 ^ 32

/-- The 32-bit word of a core's private page; none where nothing is assigned. -/
def State.privWord (s : State) (c off : Nat) : Option Nat :=
  let k := s.core c
  let d := s.die (dieOf c)
  if 0x0800 ≤ off && off < 0x08A0 then some (ofLe (k.keys.readN off 4))
  else if off = 0x0900 then some (k.castctl.toNat % 2)
  else if off = 0x0904 then some k.castid.toNat
  else if off = 0x0908 then some k.castroot.toNat
  else if off = 0x090C then some k.castcnt.toNat
  else if c % 16 = 0 && 0x4000 ≤ off && off < 0x5000 then
    let q := (off - 0x4000) / 64
    let u := d.queues.get {} q
    match off % 64 with
    | 0x00 => some (half u.base false)
    | 0x04 => some (half u.base true)
    | 0x08 => some (half u.root false)
    | 0x0C => some (half u.root true)
    | 0x10 => some u.ctl.toNat
    | 0x14 => some u.rd.toNat
    | 0x18 => some u.wr.toNat
    | 0x1C => some (d.qstat q)
    | _ => none
  else if c = 0 && 0x6000 ≤ off && off < 0x6800 then
    some (half (s.poolRoute.get 0 ((off - 0x6000) / 8)) (off % 8 == 4))
  else none

/-- The 32-bit word of a die's shared page. -/
def State.sharedWord (s : State) (d off : Nat) : Option Nat :=
  let k := s.die d
  let hi := off % 8 == 4
  let station := d % 2 == 0
  if off < 0x040 then
    some (half (match off / 8 with
      | 0 => k.ffqbase
      | 1 => k.ffqsize
      | 2 => k.ffqhead
      | 3 => k.ffqtail
      | 4 => k.bouncebase
      | 5 => BitVec.ofNat 64 k.bounceUsed
      | 6 => k.bouncehead
      | _ => k.bouncetail) hi)
  else if off = 0x100 then some k.fabtmo.toNat
  else if off = 0x108 || off = 0x10C then some (half k.latereply hi)
  else if off = 0x110 || off = 0x114 then some (half k.lflovf hi)
  else if off = 0x118 then some k.linkdn.toNat
  else if station && off = 0x120 then some k.rtsel.toNat
  else if station && off = 0x128 then some k.rtold.toNat
  else if station && 0x1000 ≤ off && off < 0x1800 then
    some (packElems 8 ((upFrom (off - 0x1000) 4).map (fun i => (k.rtab.get 0xFF i).toNat)))
  else if 0x8000 ≤ off && off < 0x8200 then
    some (if hi then 0 else (k.queues.get {} ((off - 0x8000) / 8)).wr.toNat)
  else none

/-- `n` bytes of words at an offset, ones where nothing is assigned. -/
def pageValue (word : Nat → Option Nat) (off n : Nat) : Nat :=
  let w := fun (o : Nat) => (word o).getD 0xFFFFFFFF
  if n = 8 then w off + 2 ^ 32 * w (off + 4) else w off

/-- A read of a register page (R118, R119); `ok` for a trusted requester. -/
def State.regRead (s : State) (r : Requester) (ok : Bool) (pa n : Nat) : Nat × State :=
  let ones := 2 ^ (8 * n) - 1
  let bad := fun (d : Nat) => (ones, s.agentRec d 0x54 r pa (reqNum r))
  match s.place pa with
  | .corePriv c off =>
    if !ok || !regWidthOk off n then bad (dieOf c) else (pageValue (s.privWord c) off n, s)
  | .coreShared c off => if regWidthOk off n then (ones, s) else bad (dieOf c)
  | .dieShared d off => if regWidthOk off n then (pageValue (s.sharedWord d) off n, s) else bad d
  | _ => (ones, s)

/-! ### Register pages: writes -/

/-- A 64-bit value with one half or all of it replaced. -/
def putHalf (old : DWord) (off n v : Nat) : DWord :=
  if n = 8 then BitVec.ofNat 64 v
  else if off % 8 = 4 then BitVec.ofNat 64 (old.toNat % 2 ^ 32 + v % 2 ^ 32 * 2 ^ 32)
  else BitVec.ofNat 64 (old.toNat / 2 ^ 32 * 2 ^ 32 + v % 2 ^ 32)

/-- The event of the table that a write to a register page is (R119). `ok` for a trusted requester. -/
def State.regStoreEvent (s : State) (r : Requester) (ok : Bool) (pa n v : Nat) : Instr × EvArg :=
  let plain : Instr × EvArg :=
    (.registerWrite, { n := pa, width := n, value := BitVec.ofNat 64 v, req := r, m := b2n ok })
  match s.place pa with
  | .corePriv c off =>
    if !ok || !regWidthOk off n then plain
    else if 0x0860 ≤ off && off < 0x08A0 then
      (.wkeyWrite, { core := c, n := off, width := n, value := BitVec.ofNat 64 v, req := r })
    else if c % 16 = 0 && 0x4000 ≤ off && off < 0x5000 && off % 64 = 0x10 then
      (.qctlWrite, { die := dieOf c, n := (off - 0x4000) / 64, value := BitVec.ofNat 64 (v % 2 ^ 32), req := r })
    else if c = 0 && 0x6000 ≤ off && off < 0x6800 then
      (.poolRouteWrite, { n := off - 0x6000, width := n, value := BitVec.ofNat 64 v, req := r })
    else plain
  | .dieShared d off =>
    if !regWidthOk off n then plain
    else if off = 0x038 || off = 0x03C then
      (.bouncetailWrite, { die := d, n := off - 0x038, width := n, value := BitVec.ofNat 64 v })
    else if d % 2 = 0 && off = 0x120 then (.rtselWrite, { die := d, value := BitVec.ofNat 64 (v % 2 ^ 32), req := r })
    else if d % 2 = 0 && 0x1000 ≤ off && off < 0x1800 then
      (.rtabWrite, { die := d, n := off - 0x1000, width := n, value := BitVec.ofNat 64 v, req := r })
    else if 0x8000 ≤ off && off < 0x8200 then
      (.wakeRegister, { die := d, n := (off - 0x8000) / 8, width := n, value := BitVec.ofNat 64 v })
    else plain
  | _ => plain

/-- A write reaches a register page: its event follows in the same cycle. -/
def State.regStore (s : State) (r : Requester) (ok : Bool) (pa n v : Nat) : State :=
  let e := s.regStoreEvent r ok pa n v
  s.at_ s.cue e.1 e.2

/-! ### Physical accesses of agents -/

/-- At most 8 bytes read by an agent of die `d`: value and poison. -/
def State.agentRead (s : State) (d : Nat) (r : Requester) (ok : Bool) (pa n : Nat) : (Nat × Bool) × State :=
  match s.place pa with
  | .sram _ => ((s.preadNum pa n, s.pmark pa n), s)
  | .host => ((s.preadNum pa n, s.pmark pa n), s)
  | .pool _ => ((s.preadNum pa n, s.pmark pa n), s)
  | .corePriv .. | .coreShared .. | .dieShared .. =>
    let (v, s) := s.regRead r ok pa n
    ((v, false), s)
  | _ =>
    let (v, s) := s.poisonBits n
    ((v, true), s.agentRec d 0x53 r pa (reqNum r))

/-- Bytes written by an agent of die `d` within one 64-byte line. -/
def State.agentWrite (s : State) (d : Nat) (r : Requester) (ok : Bool) (pa : Nat) (bs : List Byte) (mark : Bool) :
    State :=
  match s.place pa with
  | .sram _ => s.pwrite pa bs mark
  | .pool _ => s.pwrite pa bs mark
  | .host =>
    let s := s.pwrite pa bs mark
    if mark then s.agentRec d 0x53 r pa (reqNum r) else s
  | .corePriv .. | .coreShared .. | .dieShared .. => s.regStore r ok pa bs.length (ofLe bs)
  | _ => s.agentRec d 0x53 r pa (reqNum r)

/-- A returning atomic at its target (R223): the old word and poison. -/
def State.agentAtomic (s : State) (d : Nat) (r : Requester) (pa op : Nat) (v w : Word) : (Nat × Bool) × State :=
  match s.place pa with
  | .sram _ =>
    let old := s.preadNum pa 4
    if s.pmark pa 4 then ((old, true), s)
    else
      let o : Word := BitVec.ofNat 32 old
      let new := match op with
        | 0 => some (o + v)
        | 1 => some (if o.toInt < v.toInt then v else o)
        | 2 => some v
        | _ => if o = v then some w else none
      ((old, false), match new with
        | some x => s.pwrite pa (toLe 4 x.toNat) false
        | none => s)
  | _ =>
    let (b, s) := s.poisonBits 4
    ((b, true), s.agentRec d 0x53 r pa (reqNum r))

/-! ### Landings (R104, R362) -/

/-- Why an element at a core's scratchpad is refused: 0 for not at all (R362, R363, R373, log 34).
DESIGN CHOICE (log 49): R2 gives a die's count of exposed cores; those of the highest numbers are the ones that are not
exposed. -/
def State.refusalOf (s : State) (c own addr : Nat) : Nat :=
  if regionOf addr != .sp then 3
  else if (s.core c).outOfService || decide (s.exposed.get 16 (dieOf c) ≤ c % 16) then 4
  else if (s.core c).tag (spBlock addr) != own then 2
  else 0

/-- Bytes written at a core's port; a dousing block is lit again. -/
def State.portWrite (s : State) (c : Nat) (cells : List (Nat × Byte)) (marks : List (Nat × Bool)) : State :=
  (((s.modCore c (·.spWrite cells marks)).startXfers c).tagPump c).blockTokens c

end Sys2Proof.Machine
end

