-- ==== Sys2Proof/Machine/Streams.lean ====
section
/-!
DEFINITION. What a core does in a house-cue cycle: due words (R59 to R61, R169, R170), bundles (R60, R164),
the program's issue cycle (R78, R102), restart points (R74), the stagehand's cycles (R78, R79, R425), the
ends of freezes (R57), writes in flight, loop boundaries, barrier arrival, and how the house cue
advances. The meaning of instructions is the operand `ex`.
-/
namespace Sys2Proof.Machine

/-- A meaning of instructions. -/
abbrev Exec := Instr → State → Out

/-! ### Due words -/

/-- Idle count or start stamp of a raw word (R157, R165, R171). -/
def idleBits (strm w : Nat) : Nat :=
  if strm = 0 then bits w 31 29 else if strm = 1 then bits w 95 92 else bits w 183 164

/-- A word as its stream decodes it (R159, R168, R173). -/
def decodeFor (strm w : Nat) : Option Instr :=
  let d := if strm = 0 then decodeScalar w else if strm = 1 then decodeVector w else decodeMatrix w
  match d with
  | .ok i => some i
  | .error _ => none

/-- A line that fails R154 for a stream, or cannot be read (R54). -/
def State.lineBad (s : State) (k : Code) (strm line : Nat) : Bool :=
  match s.lineHdr k line with
  | some h => !h.ok strm
  | none => true

/-- The next word of a stream; none for a line that fails R154 or cannot be read. -/
def State.nextWord (s : State) (k : Code) (strm : Nat) (t : Stream) : Option Nat :=
  match s.lineHdr k t.line with
  | some h => if h.ok strm then s.wordAt k strm t.line t.slot else none
  | none => none

/-- The stream has a word to issue at some cycle. -/
def Stream.going (t : Stream) : Bool := t.present && t.wait.isNone && t.done.isNone

/-- A word of a stream, on a line that fails R154 too: none on a line whose header names another stream, which holds
no instruction of this one. -/
def State.ownWord (s : State) (k : Code) (strm line slot : Nat) : Option Nat :=
  match s.lineHdr k line with
  | some h => if h.stream = strm then s.wordAt k strm line slot else none
  | none => none

/-- Idle count or start stamp of the next word of a stream: its bits stand there on a line that fails R154 too,
whose fetch fault is raised when they say. Where the stream has no word, `none` stands (DESIGN CHOICE, log 59). -/
def State.timeBits (s : State) (k : Code) (strm : Nat) (t : Stream) (none : Nat) : Nat :=
  if slotCount strm ≤ t.slot then none
  else match s.ownWord k strm t.line t.slot with
    | some w => idleBits strm w
    | .none => none

/-- Cycle at which the next word of a scalar or vector stream is due (R59, R169, R170). -/
def State.dueAt (s : State) (k : Code) (strm : Nat) (t : Stream) : Nat :=
  let idle := s.timeBits k strm t 1
  if t.atRef then t.prev + idle
  else if t.target then t.prev + max idle 1
  else t.prev + idle

/-- Cycle at which the next matrix word is stamped (R61). -/
def State.matrixDue (s : State) (k : Code) (x : Ctx) : Nat := x.msRef.1 + s.timeBits k 2 x.ms 0

/-- A stream's next word is due by a cycle. -/
def State.isDue (s : State) (k : Code) (x : Ctx) (strm lc : Nat) : Bool :=
  let t := x.stream strm
  t.going && decide ((if strm = 2 then s.matrixDue k x else s.dueAt k strm t) ≤ lc)

/-! ### Bundles (R60) -/

/-- A word of a bundle: its place, its bits, its instruction. -/
structure Slot where
  line : Nat
  slot : Nat
  word : Nat
  instr : Option Instr

/-- Words that transfer control (R60). -/
def isTransfer : Instr → Bool
  | .br .. => true
  | .call .. => true
  | .ret .. => true
  | .scene .. => true
  | .sceneLast .. => true
  | .tret .. => true
  | _ => false

def isScene : Instr → Bool
  | .scene .. => true
  | .sceneLast .. => true
  | _ => false

/-- Copy-engine and fabric commands (R60). -/
def isCommand : Instr → Bool
  | .cpy .. | .cpyt .. | .ccvt .. | .cqnt .. | .cqnth .. | .csort .. | .ccmpb .. | .cexpb .. => true
  | .ccmpp .. | .cexpp .. | .cdec .. | .cenc .. | .cfill .. | .cgath .. | .cscat .. => true
  | .pcpy .. | .pcvt .. | .pdec .. | .penc .. | .lflush .. | .alignc .. => true
  | _ => false

/-- An idle word whose count is not zero: the next word issues later (R169). -/
def idles : Instr → Bool
  | .idle _ cnt => cnt != 0
  | _ => false

/-- The words of the bundle that starts at a place, at most five (R60); a word after a timing reference
starts another. A word on a line that fails R154 ends it, undecoded: it meets the fetch fault. -/
def State.bundleGo (s : State) (k : Code) (x : Option Ctx) : Nat → Nat → Nat → List Slot
  | 0, _, _ => []
  | n + 1, line, slot =>
    match s.ownWord k 0 line slot with
    | none => []
    | some w =>
      let fails := s.lineBad k 0 line
      let i := if fails then none else decodeFor 0 w
      let one : Slot := ⟨line, slot, w, i⟩
      let (l, p) := s.nextPos k 0 line slot
      let stop := fails || (match i with | some i => isScene i || idles i | none => false)
        || (l != line && decide (slotCount 0 ≤ p))
        || (l != line && (match x with
          | some x =>
            let t := x.regs.str
            let t' := x.fall 0 line { t with line := l, slot := p }
            t'.wait.isSome || decide (t.late.length < t'.late.length)
          | none => false))
      let more := match s.ownWord k 0 l p with
        | some v => idleBits 0 v == 0
        | none => false
      if stop || !more then [one] else one :: s.bundleGo k x n l p

/-- The bundle breaks a limit of R60. -/
def badBundle (l : List Slot) : Bool :=
  let is := l.filterMap (·.instr)
  decide (4 < l.length) || decide (1 < (is.filter isTransfer).length) || decide (1 < (is.filter isCommand).length)

/-! ### Running words -/

/-- The current agent set for a word. -/
def State.setCur (s : State) (c : Nat) (sh more sched : Bool) (w : Slot) (base : Nat) : State :=
  { s with
    freeIx := s.freeIx + 1
    cur := { s.cur with
      core := c, sh := sh, more := more, line := w.line, word := w.word, base := some base, sched := sched
      verdict := .went } }

/-- A condition of items 1 and 2 of R164 that no decoded word carries: it faults the word. -/
def State.raw (s : State) (cause einfo strm : Nat) : State :=
  if s.cur.sh then
    ({ s with cur := { s.cur with verdict := .went } } : State).shFault cause
  else s.ends (.trap cause 0 einfo strm)

/-- Items 1 and 2 of R164 for a word that is not decoded: cause and `EINFO` of its fault. -/
def State.wordFault (s : State) (c : Nat) (sh : Bool) (w : Slot) : Nat × Nat :=
  if s.lineBad (s.codeOf c (s.stageOf c) sh) 0 w.line then (3, w.line) else (4, 0)

/-- The words of a scalar bundle in slot order. Any fault or freeze returns to the bundle's start
(R164); a stagehand's fault skips its word alone (log 51). -/
def runWords (ex : Exec) (s0 : State) (c : Nat) (sh sched : Bool) (base : Nat) : State → List Slot → State
  | s, [] => s
  | s, w :: ws =>
    let s := s.setCur c sh (!ws.isEmpty) sched w base
    match w.instr with
    | none =>
      let (cause, e) := s.wordFault c sh w
      match s.fetchWait (s.codeOf c (s.stageOf c) sh) w.line with
      | some f => ({ s0 with cur := { s.cur with late := none, ret := false } } : State).ends (.freeze f)
      | none =>
      if sh then runWords ex s0 c sh false base (s.raw cause e 0).retire ws
      else ({ s0 with cur := { s.cur with late := none, ret := false } } : State).raw cause e 0
    | some i =>
      match ex i s with
      | .next t =>
        match t.cur.verdict with
        | .went => runWords ex s0 c sh false base t ws
        | .trap cause a e m =>
          if ws.isEmpty && (cause == 0x0E || cause == 0x12) then t
          else ({ s0 with cur := { t.cur with late := none, ret := false } } : State).ends (.trap cause a e m)
        | v => ({ s0 with cur := { t.cur with late := none, ret := false } } : State).ends v
      | _ => s

/-- A line of an agent's code is fetched: the walker sets `A` (R112), and an unpopulated address is recorded (R110). -/
def State.fetching (s : State) (c : Nat) (sh : Bool) (k : Code) (line : Nat) : State :=
  if k.length < 128 * line + 8 || (k.phys && (s.lineHdr k line).isSome) then s
  else s.noteRead (dieOf c) (s.agent c (s.stageOf c) (if sh then 3 else 0)) k.phys k.root (k.base + 128 * line) 8

/-- The words that `cut` leaves of the current agent's bundle are issued. -/
def runBundleOf (ex : Exec) (s : State) (c : Nat) (sh sched : Bool) (cut : List Slot → List Slot) : State :=
  let b := s.stageOf c
  let k := s.codeOf c b sh
  let t := (s.regsOf c b sh).str
  let s := s.fetching c sh k t.line
  let base := s.nextId
  let timed := !sh && !((s.ctx c b).getD {}).hnd
  let s := s.setCur c sh false sched ⟨t.line, t.slot, 0, none⟩ base
  let s := { s with cur := { s.cur with late := none, ret := false } }
  let one := fun (s : State) (cause e : Nat) =>
    if sh then
      let (l, p) := s.nextPos k 0 t.line t.slot
      ((s.modRegs (fun r => { r with str := { r.str with seqLine := l, seqSlot := p } })).raw cause e 0).retire
    else s.raw cause e 0
  if t.check && !s.lineBad k 0 t.line && !s.targetOk k 0 (t.line * 32 + t.slot) then one s 7 (t.line * 32 + t.slot)
  else match s.nextWord k 0 t with
  | none => match s.fetchWait k t.line with
    | some f => s.ends (.freeze f)
    | none => one s 3 t.line
  | some w0 =>
    let first : Slot := ⟨t.line, t.slot, w0, decodeFor 0 w0⟩
    let x := if timed then s.ctx c b else none
    let l := s.bundleGo k x 5 t.line t.slot
    let bad := badBundle l
    let l := cut (l.take 4)
    let last := (l.getLast?).getD first
    let (ql, qs) := s.nextPos k 0 last.line last.slot
    let s := if last.line = t.line then s else s.fetching c sh k last.line
    let s := s.modRegs (fun r => { r with str := { r.str with seqLine := ql, seqSlot := qs, redir := none } })
    if bad || first.instr.isNone then
      let s := s.setCur c sh false sched (if bad then last else first) base
      if sh then (s.raw 4 0 0).retire else s.raw 4 0 0
    else runWords ex s c sh sched base s l

/-- The bundle of the current agent is issued. -/
def runBundle (ex : Exec) (s : State) (c : Nat) (sh sched : Bool) : State := runBundleOf ex s c sh sched id

/-- Words of the vector (1) or matrix (2) stream due in a cycle; a freeze returns to `s0`, the state in
which the cycle began (R102), but for a wait for what a word of the same cycle has begun (R69, log 13). A matrix word
whose stamp has passed, under whatever reference, meets the schedule fault at once (log 22). -/
def runEngine (ex : Exec) (s0 : State) (c strm lc base : Nat) (sched : Bool) : Nat → State → State
  | 0, s => s
  | n + 1, s =>
    let b := s.stageOf c
    match s.ctx c b with
    | none => s
    | some x =>
      let k := s.codeOf c b false
      if !s.runs c b x || !s.isDue k x strm lc then s
      else
        let t := x.stream strm
        let s := s.fetching c false k t.line
        let stamp := s.matrixDue k x
        let late := strm == 2 && (decide (stamp < lc)
          || (x.ms.ref == x.msRef.1 && decide (stamp < x.ms.occ))
          || (match x.msRef.2 with
            | some p => decide (p ≤ stamp - x.msRef.1)
            | none => false))
        let bad := sched || late || x.overran strm t
        if t.check && !s.lineBad k strm t.line && !s.targetOk k strm (t.line * 32 + t.slot) then
          (s.setCur c false false bad ⟨t.line, t.slot, 0, none⟩ base).raw 7 (t.line * 32 + t.slot) strm
        else match s.nextWord k strm t with
        | none =>
          let s := s.setCur c false false bad ⟨t.line, t.slot, 0, none⟩ base
          match s.fetchWait k t.line with
          | some f => ({ s0 with cur := s.cur } : State).ends (.freeze f)
          | none => s.raw 3 t.line strm
        | some w =>
          let slot : Slot := ⟨t.line, t.slot, w, decodeFor strm w⟩
          let (ql, qs) := s.nextPos k strm t.line t.slot
          let s := s.modCtx c b (·.setStream strm { t with seqLine := ql, seqSlot := qs })
          let s := s.setCur c false false bad slot base
          if slot.instr.isNone || (strm == 1 && idleBits 1 w == 0 && !t.atRef) then s.raw 4 0 strm
          else match slot.instr with
            | none => s
            | some i =>
              match ex i s with
              | .next u =>
                match u.cur.verdict with
                | .went => runEngine ex s0 c strm lc base false n u
                | .freeze f => if s0.begun c b f then ({ s0 with cur := u.cur } : State).ends (.freeze f) else u
                | _ => u
              | _ => s

/-! ### Restart points (R74, R77) -/

/-- A place is the first slot of a restart-point line. -/
def State.opensLine (s : State) (k : Code) (line slot : Nat) : Bool :=
  match s.lineHdr k line with
  | some h => h.restart && slot == h.first
  | none => false

/-- The place at which a stream, in this cycle, issues the first word of a restart-point line: for the scalar stream
that of any word of its bundle. DESIGN CHOICE (log 59): where R74 says that a stream issues from a restart-point line,
the model takes the issue of that line's first slot. -/
def State.pointOf (s : State) (k : Code) (x : Ctx) (strm lc : Nat) : Option (Nat × Nat) :=
  let t := x.stream strm
  let words := if strm = 0 then (s.bundleGo k (some x) 5 t.line t.slot).map (fun w => (w.line, w.slot)) else [(t.line, t.slot)]
  if s.isDue k x strm lc then words.find? (fun w => s.opensLine k w.1 w.2) else none

/-- The stream issues the first word of a restart-point line in this cycle. -/
def State.atPoint (s : State) (k : Code) (x : Ctx) (strm lc : Nat) : Bool := (s.pointOf k x strm lc).isSome

/-- The first word of a matrix line opens a restart point (R74, R332). -/
def opensPoint (w : Option Nat) : Bool :=
  match w.bind (decodeFor 2) with
  | some (.mret _) => true
  | some (.mretz _) => true
  | _ => false

/-- What a cycle is for restart points: none, a restart point, or a schedule fault of a stream. -/
inductive Point
  | no
  | yes
  | bad (strm : Nat)

def State.point (s : State) (k : Code) (x : Ctx) (lc : Nat) : Point :=
  let present := (List.range 3).filter (fun i => (x.stream i).present)
  let at_ := present.filter (fun i => s.atPoint k x i lc)
  match at_ with
  | [] => .no
  | i :: _ =>
    if at_.length != present.length then .bad i
    else if present.contains 2 && !opensPoint (s.nextWord k 2 x.ms) then .bad 2
    else .yes

/-- The record of R74; `w` is the place of the scalar stream's word of the restart point. -/
def Ctx.recordPoint (x : Ctx) (lc : Nat) (w : Option (Nat × Nat)) : Ctx :=
  let t := x.regs.str
  let ss := match w with
    | some (l, p) =>
      if l = t.line && p = t.slot then t
      else { t with line := l, slot := p, prev := lc, atRef := false, target := false, check := false }
    | none => t
  { x with
    rpOff := lc - x.sceneCue
    rpCue := lc
    rp := ⟨ss, x.vs, x.ms, x.levels, x.stack⟩ }

/-- A stream has issued at a local cue: one that waits there still belongs to the same issue (log 13). -/
def Ctx.issuedAt (x : Ctx) (lc : Nat) : Bool :=
  (List.range 3).any (fun i => (x.stream i).present && (x.stream i).issued == some lc)

/-- A park of the bank waits for a restart point (R387). -/
def Core.parkWaits (k : Core) (b : Nat) : Bool := k.parks.any (fun p => p.bank == b && p.phase == 0)

/-! ### The program's cycle (R78 item 4) -/

/-- A handler or a program may issue in this cycle. -/
def State.mayIssue (s : State) (c b : Nat) (x : Ctx) : Bool :=
  s.runs c b x || (x.hnd && x.entry.isNone && x.held.isNone && x.frozen.isNone && x.waitv.isNone
    && (s.core c).exchange.isNone && x.life == .live && s.inFrame c x.own)

/-- The streams of a running context issue their due words: scalar bundle, vector, matrix (R94). -/
def runCycle (ex : Exec) (s0 : State) (c b lc : Nat) (bad : Option Nat) (k : Code) (x : Ctx) : State :=
  let base := s0.nextId
  let s :=
    if s0.isDue k x 0 lc then runBundle ex s0 c false (bad == some 0 || x.overran 0 x.regs.str) else s0
  let go := fun (s : State) => match s.ctx c b with
    | some x => s.runs c b x && !x.hnd
    | none => false
  let s := if go s then runEngine ex s0 c 1 lc base (bad == some 1) 2 s else s
  if go s then runEngine ex s0 c 2 lc base (bad == some 2) 2 s else s

def State.setVerdict (s : State) (v : Verdict) : State := { s with cur := { s.cur with verdict := v } }

/-- The words of the scalar bundle before its word at a restart point issue, for a park takes effect before that word
alone (R77). -/
def runBefore (ex : Exec) (s : State) (c : Nat) (x : Ctx) (w : Option (Nat × Nat)) : State :=
  match w with
  | none => s.setVerdict .went
  | some (l, p) =>
    if l = x.regs.str.line && p = x.regs.str.slot then s.setVerdict .went
    else runBundleOf ex s c false (x.overran 0 x.regs.str) (·.takeWhile (fun e => !(e.line == l && e.slot == p)))

/-- The program of a core issues, when something of it is due and the cycle is not the stagehand's (R78): none
otherwise. -/
def programCycle (ex : Exec) (s : State) (c : Nat) : Option State :=
  let b := s.stageOf c
  match s.ctx c b with
  | none => none
  | some x =>
    let k := s.codeOf c b false
    if !s.mayIssue c b x || (s.core c).shAt == s.cue + 1 then none
    else if x.hnd then
      if x.regs.str.going && decide (s.dueAt k 0 x.regs.str ≤ s.cue) then
        some (runBundle ex s c false false)
      else none
    else
      let lc := x.lcue s.cue
      if !(List.range 3).any (fun i => s.isDue k x i lc) then none
      else match s.point k x lc with
        | .bad i => some (runCycle ex s c b lc (if x.issuedAt lc then none else some i) k x)
        | .no => some (runCycle ex s c b lc none k x)
        | .yes =>
          let w := s.pointOf k x 0 lc
          let s := s.setCtx c b (x.recordPoint lc w)
          if (s.core c).parkWaits b then
            let s := runBefore ex s c x w
            match s.cur.verdict with
            | .went => some (s.at_ s.cue .parkPoint { core := c, bank := b })
            | _ => some s
          else match s.ctx c b with
            | some x => some (runCycle ex s c b lc none k x)
            | none => none

/-! ### The stagehand's cycle (R78, R79, R425) -/

/-- The stagehand's cycles that count in the last 4,095 cycles. -/
def Core.shareUsed (k : Core) (cue : Nat) : Nat := (k.shCycles.filter (fun t => decide (cue ≤ t + 4095))).length

/-- A cycle may be the stagehand's (R78): free while the program is held, else against its share (R79). -/
def State.shCycle (s : State) (c : Nat) : Option Bool :=
  let k := s.core c
  let b := s.stageOf c
  let entry := match s.ctx c b with | some x => x.entry.isSome | none => false
  let run := match s.ctx c b with | some x => s.mayIssue c b x | none => false
  if entry || k.outOfService || k.shAt == s.cue + 1 then none
  else if !run then some false
  else if k.shareUsed s.cue < 16 * (k.share.toNat % 256) then some true else none

/-- The stagehand may issue in this cycle. -/
def State.shMay (s : State) (c : Nat) : Option Bool := if (s.core c).shAwake then s.shCycle c else none

/-- A stagehand cycle: the program is held and its slip grows by one (R78), but at a scene barrier (R72). -/
def Ctx.slipOne (x : Ctx) (cue : Nat) : Ctx :=
  match x.clock with
  | .run n => if x.arrived.isSome then x else { x with clock := .run (min cue (n + 1)) }
  | .stopped _ => x

/-- The cycle was the stagehand's: `counted` when it was taken from the program. -/
def State.shTook (s : State) (c : Nat) (counted : Bool) : State :=
  let s := s.modCore c (fun k => { k with shAt := s.cue + 1 })
  if counted then
    (s.modCore c (fun k => { k with
      shCycles := s.cue :: k.shCycles.filter (fun t => decide (s.cue ≤ t + 4095)) })).modCtx c (s.stageOf c)
        (·.slipOne s.cue)
  else s

/-- A self-test that takes the next stagehand cycle (R405, R406): it goes before the stagehand's words (DESIGN
CHOICE, log 40). -/
def Core.testDue (k : Core) (cue : Nat) : Option SelfTest :=
  k.selftests.find? (fun t => decide (t.start ≤ cue) && t.left != 0)

/-- A self-test takes a cycle; after its last it ends. -/
def State.runTest (s : State) (c : Nat) (t : SelfTest) : State :=
  let s := s.modCore c (fun k => { k with
    selftests := k.selftests.map (fun u => if u == t then { t with left := t.left - 1 } else u) })
  if t.left = 1 then s.at_ s.cue .selfTestEnd { core := c, n := t.unit, m := t.tokId } else s

/-- The stagehand's words of a cycle: none when it has none ready. -/
def stagehandIssue (ex : Exec) (s : State) (c : Nat) : Option State :=
  let t := (s.core c).sh.str
  let k := s.codeOf c 0 true
  if !(s.core c).shAwake || (s.core c).shWatch.isSome || !t.going || s.cue < s.dueAt k 0 t then none
  else
    let u := runBundle ex s c true false
    match u.cur.verdict with
    | .freeze (.blocks l) =>
      if l.any (fun n => s.presence c (s.stageOf c) n == .dark) then some u else none
    | .freeze (.port _) => if u.ports == s.ports then none else some u
    | .freeze (.read _) => if (s.core c).sh.timeout.isNone then some u else none
    | .freeze _ => none
    | _ => some u

/-- The stagehand of a core takes the cycle, for a self-test or for its words. -/
def stagehandCycle (ex : Exec) (s : State) (c : Nat) : Option State :=
  match s.shCycle c with
  | none => none
  | some counted =>
    match (s.core c).testDue s.cue with
    | some t => some ((s.runTest c t).shTook c counted)
    | none => (stagehandIssue ex s c).map (fun u =>
        match u.cur.verdict with
        | .freeze _ => u
        | _ => u.shTook c counted)

/-! ### Ends of freezes (R57) -/

/-- The cause of a freeze is gone. -/
def State.freezeOver (s : State) (c b : Nat) (x : Ctx) (f : Freeze) : Bool :=
  match f with
  | .blocks l => (s.missing c b l).isEmpty
  | .window n need => decide (need ≤ s.wallow c b n)
  | .token t => !x.regs.pending t
  | .access i => !s.accs.any (fun a => a.id == i)
  | .until t _ _ => decide (t ≤ s.cue)
  | .record => !s.recWaits c
  | .read t => decide (t ≤ s.cue)
  | .port a => s.portTurn c a portHandler
  | .lanterns => (List.range 64).any (fun i => ((s.die (dieOf c)).lantern i).state != 2)
  | .engine pool =>
    if pool then decide (((s.die (dieOf c)).pool.filter (fun e => e.1 == c % 4)).length < 64)
    else decide ((s.core c).cmds.length < 32)

/-- A freeze that is over ends; the writes an interlocked wait was for are made (R69). -/
def State.thaw (s : State) (c b : Nat) : Option State :=
  match s.ctx c b with
  | none => none
  | some x =>
    match x.frozen with
    | none => none
    | some f =>
      if !s.freezeOver c b x f then none
      else
        let s := s.setCtx c b { x with frozen := none }
        let s := match f with
          | .until _ l n => (s.applyUntil c b ((s.regsOf c b false).seenBy l) false).modRegsOf c b false (fun r =>
              match n with | some n => { r with bAt := r.bAt.del n } | none => r)
          | _ => s
        some ((if s.recWaits c && f != .record then
          s.modCtx c b (fun x => { x with frozen := some .record }) else s).settle c)

/-! ### Writes in flight -/

/-- Kinds of writes in flight: plain, delayed in interlocked mode, tile updates, running-sum additions,
remote writes. -/
def pendKind (p : Pend) : Nat :=
  match p.w with
  | .tileAcc .. => 2
  | .tileSet .. => 2
  | .yadd .. => 3
  | .lantern .. => 4
  | .full .. => 4
  | _ => if p.delayed then 1 else 0

/-- The cycle by which the writes in flight of a context are made that an interlocked wait of it is for, through an
access, a command, a fence or a flush behind them (R69, log 60): its local and remote writes before those, and the
tokens in flight that a waiting command consumes. None when there are none. -/
def State.hurried (s : State) (c b : Nat) : Option Nat :=
  match s.ctx c b with
  | none => none
  | some x =>
    let waits := match x.frozen, x.waitv with
      | some (.token _), _ => true
      | some (.access _), _ => true
      | some (.engine _), _ => true
      | none, some w => w.begun != s.cue
      | _, _ => false
    if !waits then none
    else
      let cmds := (s.cmdsOf c).filter (fun k => !k.sh && k.phase == .waiting)
      let ids := (s.accs.filter (fun a => a.core == c && !a.sh && !a.sent)).map (·.id) ++ cmds.map (·.id)
        ++ (s.fences.filter (fun f => f.core == c && !f.sh && f.mask != 0)).map (·.id)
        ++ (s.tokWaits.filter (fun w => w.core == c && !w.sh && w.flush != 0)).map (·.tokId)
      let last := ids.foldl max 0
      let behind := x.regs.pend.filter (fun p =>
        ((isLocal p.w || isRemote p.w) && decide (p.seq < last) && !s.pendHeld c p)
          || (match p.w with | .tok _ i => cmds.any (fun k => k.waits.contains i) | _ => false))
      behind.foldl (fun t p => some (max (t.getD 0) p.due)) none

/-- The first writes due that are of one kind. -/
def leadKind (k : Nat) : List Pend → List Pend
  | [] => []
  | p :: ps => if pendKind p = k then p :: leadKind k ps else []

/-- The writes due of a kind that stand first are made. -/
def State.applyKind (s : State) (c b : Nat) (sh : Bool) (k : Nat) : State :=
  let all := s.dueList c b sh
  let now := leadKind k all
  let s := s.modRegsOf c b sh (fun r => { r with pend := r.pend.filter (fun p => !now.contains p) })
  s.applyList c b sh all now false

/-- The event of the table that makes the writes due next. -/
def State.pendEvent (s : State) (c b : Nat) (sh : Bool) : Option (Instr × EvArg) :=
  let a : EvArg := { core := c, bank := b, flag := sh }
  match s.dueList c b sh with
  | [] => none
  | p :: _ =>
    match pendKind p with
    | 0 => some (.destinationWrite, a)
    | 1 => some (.interlockedDelayedWrite, a)
    | 2 => some (.tileUpdate, a)
    | 3 => some (.runningSumAddition, a)
    | _ => some (.lanternEntry, a)

/-! ### Loop boundaries, restart interval, barrier arrival -/

/-- The boundary of a level that is due (R64): an end before an iteration start, so that a level that ends at the
iteration start of the level around it is not active there; of ends the level started last, of starts the level
started first. -/
def Ctx.boundary (x : Ctx) (lc : Nat) : Option (Nat × Bool) :=
  let due := fun (stop : Bool) (j : Nat) => match (x.levels.get {} j).next with
    | some (t, e) => decide (t ≤ lc) && e == stop
    | none => false
  match x.stack.find? (due true) with
  | some j => some (j, true)
  | none => (x.stack.reverse.find? (due false)).map (fun j => (j, false))

/-- Every present stream has issued its SCENE (R71). -/
def Ctx.sceneDone (x : Ctx) : Bool :=
  (List.range 3).all (fun i => !(x.stream i).present || (x.stream i).done.isSome)

/-- A context arrives at the barrier in this cycle (R71). -/
def Ctx.arrives (x : Ctx) : Bool :=
  x.arrived.isNone && x.sceneDone && x.regs.tokPend &&& ~~~ (1 : BitVec 64) == 0 && x.regs.pend.isEmpty
    && x.regs.bound.isEmpty

/-- What the stage context of a core has due besides issue. -/
def State.localEvent (s : State) (c : Nat) : Option (Instr × EvArg) :=
  let b := s.stageOf c
  match s.ctx c b with
  | none => none
  | some x =>
    if !s.runs c b x then none
    else
      let lc := x.lcue s.cue
      match x.boundary lc with
      | some (j, true) => some (.loopLevelEnd, { core := c, n := j })
      | some (j, false) => some (.loopIterationStart, { core := c, n := j })
      | none =>
        if x.rpCue + x.script.rdepth < lc then some (.restartIntervalExceeded, { core := c })
        else if x.arrives then some (.barrierArrival, { core := c, bank := b })
        else none

/-! ### One step -/

/-- The first answer of a list of cores. -/
def firstCore (f : Nat → Option State) : List Nat → Option State
  | [] => none
  | c :: cs => match f c with
    | some s => some s
    | none => firstCore f cs

/-- An event set up. -/
def State.setEv (s : State) (a : EvArg) : State := { s with ev := a }

/-- A deferred remote-store fault owed to the running context of a core is raised before it issues (R144). -/
def State.payOwed (s : State) (c : Nat) : Option State :=
  let b := s.stageOf c
  match s.ctx c b with
  | none => none
  | some x =>
    if !x.owed || !s.runs c b x then none
    else
      let due := s.refusalDue c b
      let s := s.setCtx c b { x with owed := false }
      some (if due then (s.takeRefusal c b).enterTrap c b 0x0E 0 0 0 else s)

/-- The memory path of a core moves on: writes in flight that an interlocked wait is for are made, and what waited goes
on, a park among it. -/
def State.pathWork (s : State) (c : Nat) : Option State :=
  match s.hurried c 0, s.hurried c 1 with
  | none, none =>
    if s.pumpDue c then some (s.pump c)
    else if (s.core c).parks.any (s.parkReady c) then some (s.parkPump c)
    else none
  | none, some t => some (s.applyUntil c 1 t true)
  | some t, _ => some (s.applyUntil c 0 t true)

/-- The work of a core that is not issue: none when there is none. -/
def State.coreWork (s : State) (c : Nat) : Option (Sum State (Instr × EvArg)) :=
  let pend := (s.pendEvent c 0 false).or ((s.pendEvent c 1 false).or (s.pendEvent c (s.stageOf c) true))
  match s.thaw c 0 with
  | some s => some (.inl s)
  | none => match s.thaw c 1 with
    | some s => some (.inl s)
    | none => match pend with
      | some e => some (.inr e)
      | none => match s.pathWork c with
      | some s => some (.inl s)
      | none => match s.payOwed c with
      | some s => some (.inl s)
      | none => match s.localEvent c with
        | some e => some (.inr e)
        | none =>
          let t := s.tryExchange c
          if (t.core c).exchange != (s.core c).exchange then some (.inl t) else none

/-- The first work of the cores. -/
def State.work (s : State) : List Nat → Option (Sum State (Instr × EvArg))
  | [] => none
  | c :: cs => match s.coreWork c with
    | some w => some w
    | none => s.work cs

/-- Nothing of the cores can act before the next event of the agenda: no context, no stagehand awake. -/
def State.asleep (s : State) : Bool :=
  s.cores.all (fun e => e.2.bank0.isNone && e.2.bank1.isNone && !e.2.shAwake && e.2.sh.pend.isEmpty
    && e.2.selftests.isEmpty) && s.ports.isEmpty

/-- The house cue moves on: by one, or to the next event when the cores sleep. -/
def State.advance (s : State) : State :=
  let t := match s.agenda with
    | (t, _) :: _ => if s.asleep then max t (s.cue + 1) else s.cue + 1
    | [] => s.cue + 1
  let s := { s with cue := t }
  (s.cores.map (·.1)).foldl State.settle s

/-- The end of a cycle: a bank serves a request at its asynchronous port, or the house cue moves on. -/
def portCycle (ex : Exec) (s : State) : Out :=
  match s.portWork with
  | some (.inl s) => .next s
  | some (.inr (s, e, a)) => ex e (s.setEv a)
  | none => .next s.advance

/-- The cycle of the cores after their work: the issue of one core, stagehands and then programs in ascending core number,
the asynchronous ports. -/
def issueCycle (ex : Exec) (s : State) : Out :=
  let cores := s.cores.map (·.1)
  match firstCore (stagehandCycle ex s) cores with
  | some s => .next s
  | none => match firstCore (programCycle ex s) cores with
    | some s => .next s
    | none => match s.leaveWork with
      | some s => .next s
      | none => portCycle ex s

/-- The work of the cores, which comes first: none when there is none. -/
def workCycle (ex : Exec) (s : State) : Option Out :=
  match s.work (s.cores.map (·.1)) with
  | some (.inl s) => some (.next s)
  | some (.inr (i, a)) => some (ex i (s.setEv a))
  | none => none

/-- The cycle of the cores. -/
def coreCycle (ex : Exec) (s : State) : Out :=
  match workCycle ex s with
  | some o => o
  | none => issueCycle ex s

/-- One step: the event due first; else the cycle of the cores (log 1). Repairs, kicks and `QCTL` writes wait for the
register writes of the cores in that cycle, `QADV` among them (R423). -/
def stepWith (ex : Exec) (s : State) : Out :=
  match s.agenda with
  | (t, i, a) :: rest =>
    let u := ({ s with agenda := rest } : State).setEv a
    if s.cue < t then coreCycle ex s
    else if eventRank i = 0 then ex i u
    else match workCycle ex s with
      | some o => o
      | none => ex i u
  | [] => coreCycle ex s

end Sys2Proof.Machine
end

