-- ==== Sys2Proof/Machine/Launches.lean ====
section
/-!
DEFINITION. Launches and scenes (R51 to R54, R71 to R73, R368, R371 to R374, R429, R430, R450): what a
barrier asks of a die, reports and releases, the start of a launch and of a scene, leaving and the end. The
events of the table that loops bring about (R64, R76).
-/
namespace Sys2Proof.Machine

/-! ### Banks -/

/-- Events of the agenda that name a context by its bank. -/
def namesBank : Instr → Bool
  | .handlerStart => true
  | .waitvWake => true
  | .waitvPoll => true
  | .waitBudgetSpent => true
  | .parkPoint => true
  | .blockPullEnd => true
  | .blockWriteOutEnd => true
  | .controlBlockWriteOut => true
  | _ => false

/-- The entries of a lantern with their banks as `f` gives them. -/
def Lantern.rebank (l : Lantern) (f : Nat → Nat → Nat) : Lantern :=
  { l with entries := l.entries.map (fun t => { t with bank := f t.core t.bank }) }

/-- What is outstanding for bank `b` of a core counts for bank `b'` from now on (log 12). -/
def State.rebank (s : State) (c b b' : Nat) : State :=
  let f := fun (k n : Nat) => if k == c && n == b then b' else n
  let cmd := fun (k : Cmd) => { k with bank := if k.sh then k.bank else f k.core k.bank }
  let s := { s with
    accs := s.accs.map (fun (a : Acc) => { a with bank := if a.sh then a.bank else f a.core a.bank })
    fences := s.fences.map (fun (a : FenceRec) => { a with bank := if a.sh then a.bank else f a.core a.bank })
    tokWaits := s.tokWaits.map (fun (a : TokWait) => { a with bank := if a.sh then a.bank else f a.core a.bank })
    launches := s.launches.map (fun (l : Launch) =>
      { l with members := l.members.map (fun (m : Member) => { m with bank := f m.core m.bank }) })
    agenda := s.agenda.map (fun (e : Nat × Instr × EvArg) =>
      if namesBank e.2.1 then (e.1, e.2.1, { e.2.2 with bank := f e.2.2.core e.2.2.bank }) else e)
    ports := s.ports.map (fun (q : PortReq) =>
      if q.who == portXfer then { q with act := q.act.map (fun (e : Instr × EvArg) => (e.1, { e.2 with bank := f e.2.core e.2.bank })) }
      else q) }
  let s := s.modCore c (fun k => { k with
    cmds := k.cmds.map cmd
    parks := k.parks.map (fun (p : Park) => { p with bank := f c p.bank })
    xfers := k.xfers.map (fun (t : Xfer) => { t with bank := f c t.bank })
    starts := k.starts.map (fun (t : Start) => { t with bank := f c t.bank })
    blkToks := k.blkToks.map (fun (t : BlockTok) => { t with bank := f c t.bank }) })
  let s := { s with dies := s.dies.map (fun (e : Nat × Die) =>
    (e.1, { e.2 with wakeTab := e.2.wakeTab.map (fun (t : Nat × Nat × Nat) => (t.1, f t.1 t.2.1, t.2.2)) })) }
  s.modDie (dieOf c) (fun k => { k with
    pool := k.pool.map (fun (e : Nat × Cmd) => (e.1, cmd e.2))
    lanterns := k.lanterns.map (fun (e : Nat × Lantern) =>
      (e.1, e.2.rebank f))
    leaving := k.leaving.map (fun (e : Nat × Lantern) => (e.1, e.2.rebank f))
    posted := k.posted.map (fun (p : Posted) => { p with users := p.users.map (fun (u : Nat × Nat × Nat) => (u.1, f u.1 u.2.1, u.2.2)) })
    lfl := k.lfl.map (fun (e : LfEntry) => { e with bank := f e.core e.bank }) })

/-- A number of no bank: what an emptied bank's context left outstanding counts for it. -/
def deadBank : Nat := 9

/-- A launch bank is emptied without write-out (R373, R430): its refusals are freed, its parks fail. -/
def State.emptyBank (s : State) (c b : Nat) : State :=
  let parks := (s.core c).parks.filter (fun p => p.bank == b)
  let s := if s.stageOf c == b then s.portLeave c portHandler else s
  let s := (s.dropWakes c b).modDie (dieOf c) (fun k => { k with
    lfl := k.lfl.filter (fun e => !(e.core == c && e.bank == b)) })
  let s := s.modCore c (fun k => { k with
    xfers := k.xfers.filter (fun t => t.bank != b)
    starts := k.starts.filter (fun t => t.bank != b)
    parks := k.parks.filter (fun p => p.bank != b) })
  let s := (s.rebank c b deadBank).modCore c (·.setBank b none)
  ((parks.foldl (fun s p => s.shDone c p.tok p.tokId 10) s).startXfers c).blockTokens c

/-! ### Launches -/

def State.launchOf (s : State) (n : Nat) : Option Launch := s.launches.find? (fun l => l.id == n)
def State.modLaunch (s : State) (n : Nat) (f : Launch → Launch) : State :=
  { s with launches := s.launches.map (fun l => if l.id == n then f l else l) }

/-- The context of a member that has not left, when it is in a bank. -/
def State.memberCtx (s : State) (l : Launch) (m : Member) : Option Ctx :=
  if m.left then none
  else match s.ctx m.core m.bank with
    | some x => if x.launch == some l.id && x.castpos.toNat == m.pos then some x else none
    | none => none

/-- Cores of a die are arrived or left (R374). -/
def Launch.dieDone (l : Launch) (d : Nat) : Bool :=
  l.members.all (fun m => dieOf m.core != d || m.left || m.arrived.isSome)

/-- No traffic of the cast is outstanding on a die (R72, R145, R374). -/
def State.dieQuiet (s : State) (l : Launch) (d : Nat) : Bool :=
  let k := s.die d
  (l.members.filter (fun m => dieOf m.core == d)).all (fun m =>
    !k.posted.any (fun p => p.ofCore m.core && p.pkt.cls != 15) && !k.outgoing (·.hasCore m.core)
      && (m.left
        || (!k.lanterns.any (fun e => e.2.state == 1 && e.2.hasCtx m.core m.bank)
          && !s.accs.any (fun a => a.core == m.core && a.bank == m.bank && !a.sh)
          && !(s.cmdsOf m.core).any (fun q => q.bank == m.bank && !q.sh))))

/-- Members on this package that left. -/
def Launch.gone (l : Launch) : Nat := (l.members.filter (·.left)).length

/-- Members of package `p`, this one, that left and of whom the root has not been told. -/
def Launch.untold (l : Launch) (p : Nat) : Nat := l.gone - l.told.get 0 p

/-- The second word of a report (log 50): bit 0 ready, bit 1 some arrived with SCENE, bit 2 some with
SCENE.LAST, bits 31:16 members of package `p` that left since its report before. -/
def Launch.reportWord (l : Launch) (p d : Nat) : Nat :=
  let ms := l.members.filter (fun m => dieOf m.core == d && !m.left)
  b2n (ms.any (fun m => m.arrived == some false)) * 2 + b2n (ms.any (fun m => m.arrived == some true)) * 4
    + l.untold p * 2 ^ 16

/-- A die reports to the root of a cast (R374, R429). -/
def State.report (s : State) (l : Launch) (d kind : Nat) : State :=
  let p : Packet := { Packet.mk0 9 0 with
    srcPkg := s.pkgNum, srcDie := d, dstPkg := l.rootPkg, dstDie := l.rootDie
    payload := toLe 4 l.launchid.toNat ++ toLe 4 kind }
  (s.modLaunch l.id (fun l => { l with
    sent := d :: l.sent, told := l.told.put s.pkgNum (l.told.get 0 s.pkgNum + kind / 2 ^ 16) })).sendPacket p

/-- Dies whose cores have all arrived or left and whose traffic is drained report, once a barrier. -/
def State.barrierPump (s : State) : State :=
  s.launches.foldl (fun s l =>
    if l.state != .running || l.sceneAt.isSome || !l.packages.contains s.pkgNum then s
    else l.dies.foldl (fun s d =>
      match s.launchOf l.id with
      | some l =>
        if !l.sent.contains d && l.dieDone d && s.dieQuiet l d then s.report l d (l.reportWord s.pkgNum d) else s
      | none => s) s) s

/-- Dies of a cast that have not reported. -/
def Launch.owed (l : Launch) : List Nat :=
  (l.packages.flatMap (fun p => l.dies.map (fun d => pairKey p d))).filter (fun k => !l.reports.contains k)

/-- The least multiple of 8 that is at least a house cue. -/
def ceil8 (n : Nat) : Nat := (n + 7) / 8 * 8

/-- Release packets name a house cue to every die of a cast, in the slots reserved for them (R374), and carry the number
of members that have left (log 50). -/
def State.release (s : State) (l : Launch) (cue : Nat) : State :=
  l.packages.foldl (fun s p => l.dies.foldl (fun s d =>
    let k : Packet := { Packet.mk0 10 0 with
      srcPkg := s.pkgNum, srcDie := l.rootDie, dstPkg := p, dstDie := d, addr := l.launchid.toNat
      aux := l.lost, payload := toLe 8 cue }
    if p == s.pkgNum then s.at_ (s.cue + 1) .barrierReleasePacket { pkt := some k } else s.sendPacket k) s) s

/-! ### Completion words (R430, R450) -/

/-- The front end of a die as a requester (R401). -/
def State.frontEnd (s : State) (d : Nat) : Requester := { kind := 7, pkg := s.pkgNum, die := d }

/-- The address that stands for no completion word (R426, R431, R450). -/
def noWord : Nat := 2 ^ 64

/-- The completion word of a launch (R430). -/
def Launch.word (l : Launch) (cause : Nat) (refused : Bool) : Nat :=
  l.launchid.toNat + b2n refused * 2 ^ 32 + b2n l.mixed * 2 ^ 33 + b2n (l.lost != 0) * 2 ^ 34
    + cause % 256 * 2 ^ 40 + min l.lost 2047 * 2 ^ 48

/-- The command processor of a die. -/
def State.cpOf (s : State) (d : Nat) : Nat := 16 * d + (s.die d).fbowner

/-- A write of the front end of die `d` under way, as one of the command processor's. -/
def State.frontAcc (s : State) (d i va pa root data : Nat) (bounce : Bool) : State :=
  let a : Acc := {
    id := i, core := s.cpOf d, bank := 0, sh := true, tok := 0, cls := 15, va := va, pa := pa
    root := root, op := .store 8 data false, sent := true, bounce := bounce }
  { s with accs := s.accs ++ [a] }

/-- 8 bytes written to a physical address by a packet of a front end, a wake to a wake register (R414, R430, R450). -/
def State.frontPost (s : State) (d pkg die pa data : Nat) : State :=
  let bs := toLe 8 data
  let p := if isWakeReg pa && !bitAt pa 51 then wakePacket 15 0 5 pkg die pa bs else writePacket 15 0 5 pkg die pa (bs.map (fun b => (b, false)))
  let (i, s) := s.fresh
  (s.frontAcc d i pa pa 0 data false).post d p [] none (some i)

/-- 8 bytes written to a physical address by a front end: by a packet to another package, and through a CXL port that is
down, where it times out (R346, R441). -/
def State.frontWrite (s : State) (d pa data : Nat) : State :=
  match s.place pa with
  | .far p => s.frontPost d p (farDie pa) pa data
  | .pool port =>
    if s.portDown pa then s.frontPost d s.pkgNum (portDie port) pa data
    else s.agentWrite d (s.frontEnd d) true pa (toLe 8 data) false
  | _ => s.agentWrite d (s.frontEnd d) true pa (toLe 8 data) false

/-- An access of the front end whose page is not present waits for the bounce buffer as one of the command
processor's, and is recorded (R394). -/
def State.frontBounce (s : State) (d va root data : Nat) : State :=
  let s := s.dieRec d 0x41 (reqNum (s.frontEnd d)) va root
  let (i, s) := s.fresh
  (s.frontAcc d i va 0 root data true).at_ (s.cue + 1) .globalAccessComplete { core := s.cpOf d, n := i }

/-- The completion word is written by the front end of die `d` (R430, R450): the root's, or the queue's when the launch
is refused. -/
def State.doneWord (s : State) (l : Launch) (d w : Nat) : State :=
  let req := reqNum (s.frontEnd d)
  let own := if l.world < 4 then l.world else 4
  if noWord ≤ l.done then s
  else if l.phys then s.frontWrite d l.done w
  else match s.translate (s.frontEnd d) .none d l.root own l.done true with
    | (.ok pa, s) => s.frontWrite d pa w
    | (.notPresent, s) => s.frontBounce d l.done l.root w
    | (.prot, s) => s.dieRec d 0x43 req l.done 0
    | (.world wld, s) => s.dieRec d 0x44 req l.done wld
    | (.bad pte level, s) => (s.walkRec d (s.frontEnd d) pte).dieRec d 0x42 req l.done (pte / 8 * 8 + level)
    | (.starved, s) => s.dieRec d 0x46 req l.done 1

/-- The completion word is written, and the message follows it, once the word has been performed (R430, R450). -/
def State.finish (s : State) (l : Launch) (d cause : Nat) (refused : Bool) : State :=
  let s := s.doneWord l d (l.word cause refused)
  if l.irq then s.at_ s.cue .msixMessage { core := s.cpOf d, die := d, n := l.vec, m := s.nextId } else s

/-! ### The end of a launch -/

/-- A launch ends (R430): banks emptied, `WLIVE` cleared, units spared, the completion word written by the
root front end, the command processor of its queue woken (R419). -/
def State.launchEnd (s : State) (n : Nat) : State :=
  match s.launchOf n with
  | none => s
  | some l =>
    let s := l.members.foldl (fun s m =>
      match s.memberCtx l m with
      | none => s
      | some _ =>
        let s := (s.emptyBank m.core m.bank).spare m.core
        let s := s.modCore m.core (fun k => { k with
          wlive := if l.world < 4 then k.wlive &&& ~~~ BitVec.ofNat 4 (2 ^ l.world) else k.wlive })
        (s.settle m.core).tryExchange m.core) s
    let s := { s with launches := s.launches.filter (fun e => e.id != n) }
    let s := if l.rootPkg == s.pkgNum then s.finish l l.rootDie 0 false else s
    if l.queue.isSome then s.wakeSh (s.cpOf l.die) else s

/-- The barrier of a launch completes at its root (R72, R368, R374). -/
def State.barrierComplete (s : State) (l : Launch) : State :=
  if l.last then
    let s := s.modLaunch l.id (fun l => { l with mixed := l.plain && l.last })
    let s := s.release { l with packages := l.packages.filter (· != s.pkgNum) } 0
    s.launchEnd l.id
  else s.release l (ceil8 (s.cue + 256))

/-! ### Events -/

/-- A present stream of a context at T0: before the first word of its line (R53, R59). -/
def State.startStream (s : State) (k : Code) (x : Ctx) (i : Nat) : Ctx :=
  let t := x.stream i
  if !t.present then x
  else
    let slot := match s.lineHdr k t.line with | some h => h.first | none => 0
    x.setStream i (x.reach i { t with slot := slot, prev := s.cue, atRef := true })

/-- A member of a launch begins scene 0 (R53): its clock runs, its streams start, the scene start is its restart point. The
reset values of R53 and R240 were set at arming (R429 step 2) and are not set again (DESIGN CHOICE, log 75). -/
def State.startMember (s : State) (l : Launch) (m : Member) : State :=
  match s.memberCtx l m with
  | none => s
  | some x =>
    let c := m.core
    let b := m.bank
    let s := if s.stageOf c == b || (s.ctx c (1 - b)).isNone then s else s.drain c (1 - b)
    let k := s.codeOf c b false
    let x := { x with life := .live, clock := .run 0, rpCue := s.cue, rpOff := 0 }
    let x := (List.range 3).foldl (s.startStream k) x
    let x := { x with rp := ⟨x.regs.str, x.vs, x.ms, x.levels, x.stack⟩ }
    ((s.setCtx c b x).modCore c (fun k => { k with stage := b })).settle c

/-- LAUNCH_START (R52, R53, R429): launch `n` begins scene 0 at T0 on every cast core. -/
def execLaunchStart (s : State) : Out :=
  .next (match s.launchOf s.ev.n with
  | none => s
  | some l =>
    if l.state != .armed || s.cue < l.t0 then s
    else
      let s := s.modLaunch l.id (fun l => { l with state := .running, reports := [], sent := [], sceneAt := none })
      l.members.foldl (fun s m => s.startMember l m) s)

/-- A barrier of a launch is pending at its root: a core of the root's package has arrived, or a die has reported. DESIGN
CHOICE (log 50): R373 does not say when a barrier becomes pending. -/
def Launch.pending (l : Launch) : Bool := !l.reports.isEmpty || l.members.any (fun m => m.arrived.isSome)

/-- A barrier becomes pending at its root: the silence of each package counts from here (R373). -/
def State.pendNow (s : State) (l : Launch) : State :=
  if l.rootPkg != s.pkgNum || l.pending then s
  else
    let t := s.cue + (s.die l.rootDie).fabtmo.toNat
    l.packages.foldl (fun s q =>
      (s.modLaunch l.id (fun l => { l with heard := l.heard.put q s.cue })).at_ t .castRootTimeout { n := l.id, m := q }) s

/-- BARRIER_ARRIVAL (R71, R368): the context of `bank` arrives with its form. -/
def execBarrierArrival (s : State) : Out :=
  let c := s.ev.core
  let b := s.ev.bank
  .next (match s.ctx c b with
  | none => s
  | some x =>
    let last := x.regs.str.done == some true
    let s := (s.setCtx c b { x with arrived := some last }).emitWhere (dieOf c) (fun l => l.hasCore c)
    match x.launch with
    | none => s
    | some n =>
      let s := match s.launchOf n with
        | some l => s.pendNow l
        | none => s
      (s.modLaunch n (fun l => { l with members := l.members.map (fun m =>
        if m.core == c && m.bank == b && m.pos == x.castpos.toNat then { m with arrived := some last } else m) })).barrierPump)

/-- The root of a cast hears from a package (R373). -/
def State.hear (s : State) (d pkg : Nat) : State :=
  { s with launches := s.launches.map (fun (l : Launch) =>
      if l.rootPkg == s.pkgNum && l.rootDie == d then { l with heard := l.heard.put pkg s.cue } else l) }

/-- A launch armed in a world enters its measurement on a package of its cast (R447). -/
def State.measure (s : State) (l : Launch) : State :=
  if l.world < 4 && !l.members.isEmpty then
    { s with wmeas := s.wmeas.put l.world (sm3 (s.wmeas.get (List.replicate 32 0) l.world ++ l.image)) }
  else s

/-- A launch whose arming has succeeded is armed, once. -/
def State.becomeArmed (s : State) (l : Launch) : State :=
  (if l.state == .arming then s.measure l else s).modLaunch l.id (fun l => { l with state := .armed })

/-- The root of an arming sends go, a barrier release packet naming T0 (R429). -/
def State.sendGo (s : State) (l : Launch) : State :=
  let s := s.becomeArmed l
  (if l.queue.isSome then s.modDie l.die (fun k => { k with qlstat := 2 }) else s).release l l.t0

/-- A launch with one report more (log 50). -/
def Launch.withReport (l : Launch) (pkgNum : Nat) (p : Packet) : Launch :=
  let kind := ofLe ((p.payload.drop 4).take 4)
  let ready := bitAt kind 0
  let far := p.srcPkg != pkgNum
  { l with
    reports := pairKey p.srcPkg p.srcDie :: l.reports
    plain := l.plain || (!ready && bitAt kind 1)
    last := l.last || (!ready && bitAt kind 2)
    lost := l.lost + (if far then bits kind 31 16 else 0)
    told := if far then l.told.put p.srcPkg (l.told.get 0 p.srcPkg + bits kind 31 16) else l.told }

/-- `CASTCNT` of the root falls by members that left elsewhere (R372). -/
def State.castFewer (s : State) (l : Launch) (n : Nat) : State :=
  s.modCore (16 * l.rootDie) (fun k => { k with castcnt := k.castcnt - BitVec.ofNat 32 n })

/-- Every member of a launch has left, as far as its root knows (R430). -/
def Launch.deserted (l : Launch) : Bool := decide (max 1 l.pext * l.members.length ≤ l.lost)

/-- The launch that a report is for. -/
def State.reportedTo (s : State) (p : Packet) : Option Launch :=
  let ready := bitAt (ofLe ((p.payload.drop 4).take 4)) 0
  let want := if ready then LState.arming else LState.running
  s.launches.find? (fun l => l.launchid.toNat == ofLe (p.payload.take 4) && l.rootPkg == s.pkgNum && l.rootDie == p.dstDie
    && l.state == want && l.sceneAt.isNone)

/-- BARRIER_ARRIVAL_PACKET (R373, R374, R429): a cast die reports to the root die; the last report
completes the barrier. A report of readiness counts until house cue T0 − 512. -/
def execBarrierArrivalPacket (s : State) : Out :=
  .next (s.onPacket (fun p s =>
    let s := s.hear p.dstDie p.srcPkg
    let ready := bitAt (ofLe ((p.payload.drop 4).take 4)) 0
    match s.reportedTo p with
    | none => s
    | some l =>
      if l.reports.contains (pairKey p.srcPkg p.srcDie) then s
      else
        let s := if ready then s else s.pendNow l
        let lost := l.lost
        let l := ((s.launchOf l.id).getD l).withReport s.pkgNum p
        let s := (s.castFewer l (l.lost - lost)).modLaunch l.id (fun _ => l)
        if l.deserted then s.launchEnd l.id
        else if ready then
          if l.owed.isEmpty && s.cue + 512 == l.t0 then s.sendGo l else s
        else if l.owed.isEmpty then s.barrierComplete l
        else s))

/-- BARRIER_RELEASE_PACKET (R374, R429): a die learns the start of the next scene, or the go of an
arming; house cue 0 names the end of a launch whose root is another package (log 50). -/
def execBarrierReleasePacket (s : State) : Out :=
  .next (s.onPacket (fun p s =>
    let t := ofLe p.payload
    match s.launches.find? (fun l => l.launchid.toNat == p.addr && l.state != .ended) with
    | none => s
    | some l =>
      let far := l.rootPkg != s.pkgNum
      if t = 0 then (if far then s.launchEnd l.id else s)
      else if l.state == .running then
        if l.sceneAt.isSome then s
        else
          (s.modLaunch l.id (fun l => { l with
            sceneAt := some t, lost := if far then p.aux + l.untold s.pkgNum else l.lost })).at_ t .sceneStart { n := l.id }
      else
        let new := !s.agenda.any (fun e => e.2.1 == .launchStart && e.2.2.n == l.id && e.1 == t)
        let s := (s.becomeArmed l).modLaunch l.id (fun l => { l with t0 := t })
        let s := if far && l.queue.isSome then s.modDie l.die (fun k => { k with qlstat := 2 }) else s
        if new then s.at_ t .launchStart { n := l.id } else s))

/-- A handler that runs when the next scene starts ends: the streams stand as they were saved (log 25). -/
def Ctx.leaveHandler (x : Ctx) : Ctx :=
  { x with
    hnd := false
    entry := x.entry.filter (·.2.isSome)
    regs := { x.regs with str := x.saved.ss }
    vs := x.saved.vs
    ms := x.saved.ms
    levels := x.saved.levels
    stack := x.saved.stack }

/-- A context at the start of the next scene (R72, R371): `lost` members have left during its launch. -/
def Ctx.nextScene (x : Ctx) (t lost : Nat) : Ctx :=
  let go := fun (u : Stream) => { u with done := none, prev := t, atRef := true, ref := 0, occ := 0 }
  let x := if x.hnd then x.leaveHandler else x
  let x := { x with
    clock := .run 0, sceneno := x.sceneno + 1, arrived := none, booked := []
    regs := { x.regs with str := go x.regs.str }
    vs := go x.vs
    ms := go x.ms
    castst := if lost = 0 then x.castst else BitVec.ofNat 32 (min 2047 lost * 4 + 1)
    rpOff := 0, rpCue := t }
  { x with rp := ⟨x.regs.str, x.vs, x.ms, x.levels, x.stack⟩ }

/-- A member of a launch starts its next scene (R72); a park that waits for it happens (R77), and a deferred
remote-store fault that is due is raised before the context issues, when it runs (R144). -/
def State.sceneMember (s : State) (l : Launch) (m : Member) : State :=
  match s.memberCtx l m with
  | none => s
  | some x =>
    let c := m.core
    let b := m.bank
    let y := x.nextScene s.cue l.lost
    let s := s.setCtx c b (if 2 ≤ b then { y with clock := .stopped s.cue } else y)
    let s := s.settle c
    if (s.core c).parkWaits b then s.at_ s.cue .parkPoint { core := c, bank := b }
    else if s.refusalDue c b then s.modCtx c b (fun x => { x with owed := true })
    else s

/-- A launch whose next scene starts: its barrier is over. -/
def Launch.atScene (l : Launch) : Launch :=
  { l with
    sceneAt := none, reports := [], sent := [], plain := false, last := false
    members := l.members.map (fun m => { m with arrived := none }) }

/-- SCENE_START (R72, R144, R371): the next scene starts on every cast core of launch `n`. -/
def execSceneStart (s : State) : Out :=
  .next (match s.launchOf s.ev.n with
  | none => s
  | some l =>
    if !timeCome s.cue l.sceneAt then s
    else
      let s := s.modLaunch l.id Launch.atScene
      (l.members.foldl (fun s m => s.sceneMember l m) s).barrierPump)

/-- The cast registers of a core that leaves, and the count of the root (R372, R373). -/
def State.uncast (s : State) (c : Nat) (l : Launch) : State :=
  let s := s.modCore c (fun k => { k with castctl := 0, castid := 0 })
  if l.rootPkg == s.pkgNum then s.modCore (16 * l.rootDie) (fun k => { k with castcnt := k.castcnt - 1 }) else s

/-- A member leaves its cast (R373): its context stops and its bank is emptied. -/
def State.leaveCast (s : State) (l : Launch) (m : Member) : State :=
  let c := m.core
  let s := match s.memberCtx l m with
    | some _ =>
      let s := (s.drain c m.bank).emitWhere (dieOf c) (fun e => e.hasCore c)
      let s := (s.emptyBank c m.bank).modCore c (fun k => { k with
        wlive := if l.world < 4 then k.wlive &&& ~~~ BitVec.ofNat 4 (2 ^ l.world) else k.wlive })
      (s.settle c).tryExchange c
    | none => s
  let s := (s.uncast c l).modLaunch l.id (fun l => { l with
    members := l.members.map (fun e => if e.core == m.core && e.pos == m.pos then { e with left := true } else e)
    lost := l.lost + 1 })
  match s.launchOf l.id with
  | some l =>
    if l.rootPkg == s.pkgNum && l.deserted then s.launchEnd l.id else s.barrierPump
  | none => s

/-- LEAVE (R373): core `core` leaves the cast it is a member of. -/
def execLeave (s : State) : Out :=
  let c := s.ev.core
  .next (match s.launches.findSome? (fun l =>
      (l.members.find? (fun m => m.core == c && !m.left)).map (fun m => (l, m))) with
  | some (l, m) => if bitAt (s.core c).castctl.toNat 0 then s.leaveCast l m else s
  | none => s)

/-- CAST_ROOT_TIMEOUT (R373): the root of launch `n` has heard nothing from package `m` for `FABTMO`
cycles while the barrier was pending: its cores leave, whether or not it has reported. -/
def execCastRootTimeout (s : State) : Out :=
  .next (match s.launchOf s.ev.n with
  | none => s
  | some l =>
    let q := s.ev.m
    let due := l.heard.get 0 q + (s.die l.rootDie).fabtmo.toNat
    if !l.pending || l.sceneAt.isSome || !l.packages.contains q then s
    else if s.cue < due then s.at_ due .castRootTimeout s.ev
    else if q == s.pkgNum then
      l.members.foldl (fun s m =>
        if m.left then s else match s.launchOf l.id with
          | some l => s.leaveCast l m
          | none => s) s
    else
      let gone := l.members.length - l.told.get 0 q
      let l := { l with
        packages := l.packages.filter (· != q), lost := l.lost + gone, told := l.told.put q l.members.length }
      let s := (s.castFewer l gone).modLaunch l.id (fun _ => l)
      if l.deserted then s.launchEnd l.id
      else if l.owed.isEmpty then s.barrierComplete l else s)

/-! ### Loop levels (R64, R76) -/

/-- LOOP_ITERATION_START (R64): level `n` starts an iteration in this cycle; an inner level still active is
the schedule fault. -/
def execLoopIterationStart (s : State) : Out :=
  let c := s.ev.core
  let j := s.ev.n
  let b := s.stageOf c
  .next (match s.ctx c b with
  | none => s
  | some x =>
    let v := x.levels.get {} j
    if x.innerActive j then s.enterTrap c b 2 0 0 3
    else
      let t := if v.began then v.start + v.period else v.first
      let idx := if v.began then v.idx + 1 else 0
      let y := { x with levels := x.levels.put j { v with began := true, start := t, idx := idx } }
      let k := s.codeOf c b false
      s.setCtx c b (x.keepRef ((List.range 3).foldl (fun x i => x.setStream i (s.iterStream k x j t (!v.began) i)) y)))

/-- LOOP_LEVEL_END (R64): level `n` ends in this cycle. -/
def execLoopLevelEnd (s : State) : Out :=
  let c := s.ev.core
  let j := s.ev.n
  let b := s.stageOf c
  .next (match s.ctx c b with
  | none => s
  | some x =>
    let v := x.levels.get {} j
    let t := if v.began then v.start + v.period else v.first
    let y := { x with
      levels := x.levels.put j { v with active := false, began := false, idx := v.count }
      stack := x.stack.filter (· != j) }
    let k := s.codeOf c b false
    s.setCtx c b (x.keepRef ((List.range 3).foldl (fun x i => x.setStream i (s.endStream k x j t i)) y)))

/-- RESTART_INTERVAL_EXCEEDED (R76): the schedule fault. -/
def execRestartIntervalExceeded (s : State) : Out :=
  let c := s.ev.core
  .next (s.enterTrap c (s.stageOf c) 2 0 0 3)

/-! ### Writes in flight (R94, R99, R283, R284, R321, R357) -/

/-- DESTINATION_WRITE (R175, R200, R283): the writes due that stand first are made. -/
def execDestinationWrite (s : State) : Out := .next (s.applyKind s.ev.core s.ev.bank s.ev.flag 0)

/-- The delayed write of a context that is due first is made, or waits one cycle more for its banks (R99). -/
def State.delayedWrite (s : State) (c b : Nat) : State :=
  match s.ctx c b, s.dueList c b false with
  | some x, p :: _ =>
    let all := s.dueList c b false
    let t := x.line s.cue
    if x.bankFree (t - 1) p.w then
      ((s.modRegsOf c b false (fun r => { r with pend := r.pend.filter (fun q => q != p) })).modCtx c b
        (·.serveLate (t - 1) p.w)).applyList c b false all [p] false
    else s.modRegsOf c b false (fun r => { r with
      pend := r.pend.map (fun q => if q == p then { p with due := t + 1 } else q) })
  | _, _ => s

/-- INTERLOCKED_DELAYED_WRITE (R99, R133): a delayed write whose bank is not free waits one cycle more. -/
def execInterlockedDelayedWrite (s : State) : Out :=
  .next (if s.ev.flag then s.applyKind s.ev.core s.ev.bank true 1 else s.delayedWrite s.ev.core s.ev.bank)

/-- TILE_UPDATE (R33, R321). -/
def execTileUpdate (s : State) : Out := .next (s.applyKind s.ev.core s.ev.bank s.ev.flag 2)

/-- RUNNING_SUM_ADDITION (R47, R311). -/
def execRunningSumAddition (s : State) : Out := .next (s.applyKind s.ev.core s.ev.bank s.ev.flag 3)

/-- LANTERN_ENTRY (R357 to R361): elements enter lanterns and full stores leave. -/
def execLanternEntry (s : State) : Out :=
  .next ((s.applyKind s.ev.core s.ev.bank s.ev.flag 4).pump s.ev.core)

end Sys2Proof.Machine
end

