-- ==== Sys2Proof/Machine/Frames.lean ====
section
/-!
DEFINITION. Frame edges (R80 to R82, R407), the sealing and restoring of worlds (R433), the end of a gap.
-/
namespace Sys2Proof.Machine

/-- The end of the frame that holds this cycle is an event, once (R80). -/
def State.nextEdge (s : State) (c : Nat) : State :=
  let e := ((s.core c).frameAt s.cue).2.2
  if e ≤ s.cue || s.agenda.any (fun a => a.1 == e && a.2.1 == .frameEdge && a.2.2.core == c) then s
  else s.at_ e .frameEdge { core := c, n := e }

/-- Token completions held outside a context's frames are applied when it is within them (R82). -/
def State.releaseToks (s : State) (c : Nat) : State :=
  [0, 1].foldl (fun s b =>
    match s.ctx c b with
    | some x =>
      if x.tokHeld.isEmpty || !s.inFrame c x.own then s
      else s.setCtx c b { x with
        tokHeld := [], regs := x.tokHeld.foldl (fun r (t, id, cause) => r.complete t id cause) x.regs }
    | none => s) s

/-- FRAME_EDGE (R81): a frame of core `core` begins; when its owner is another's, the gap runs, and the outgoing
context is drained and sealed once a trap entry in progress has ended. An edge that ALIGNC moved the house cue past (R370) is
taken when the cue has been moved. -/
def execFrameEdge (s : State) : Out :=
  let c := s.ev.core
  let k := s.core c
  let (own, start, _) := k.frameAt s.cue
  let passed := 0 < s.ev.n && s.ev.n < s.cue
  let edge := if passed then s.ev.n else s.cue
  .next (
    if start != s.cue && !passed then s
    else
      let s := s.nextEdge c
      let old := if edge = 0 then 4 else (k.frameAt (edge - 1)).1
      if old == own then s
      else if k.gapEnd == some (s.cue + 16384) then s
      else
        let b := if old < 4 then 0 else if k.framesWorlds then 1 else k.stage
        let entry := match s.ctx c b with
          | some x => (match x.entry with | some (t, _) => t | none => s.cue)
          | none => s.cue
        let s := (s.modCore c (fun k => { k with gapEnd := some (s.cue + 16384) })).settle c
        let s := (s.modCore c (fun k => { k with stage := if own < 4 then 0 else 1 })).settle c
        (s.at_ (max s.cue entry + 1) .worldSeal { core := c, bank := b }).at_ (s.cue + 16384) .frameGapEnd { core := c })

/-- The world key of a core (R433). -/
def State.worldKey (s : State) (c w : Nat) : Nat := ofBe ((s.core c).keys.readN (0x0860 + 16 * w) 16)

/-- Where block `n` of a world is sealed. -/
def State.sealAt (s : State) (c w n : Nat) : Nat := ((s.core c).wsave.get 0 w).toNat + 32768 * n

/-- The seal area of a world is populated memory. -/
def State.sealOk (s : State) (c w : Nat) : Bool :=
  (List.range 28).all (fun n => (wordsOf (s.sealAt c w n) (blockSize n + 16)).all (fun a => s.answers (4 * a)))

/-- What a world sealed can be read: populated memory without poison. -/
def State.sealReadable (s : State) (c w : Nat) (x : Ctx) : Bool :=
  x.sealedBlocks.all (fun n => s.readable (s.sealAt c w n) (blockSize n + 16))

/-- An unreadable seal area is recorded (R433, log 18). -/
def State.sealRec (s : State) (c : Nat) : State :=
  s.pushRec (dieOf c) (some c) ⟨0x4F, c % 16, s.reqOf c 3, 0, 0, s.cue⟩

/-- The initialisation vector of a sealed block (R433). -/
def State.sealIv (s : State) (c w n : Nat) : Nat := ((s.core c).wepoch.get 0 w).toNat * 2 ^ 32 + n

/-- A world's context leaves bank 0, sealed (R81, R433): a block that is dark or kindling has nothing to seal. -/
def State.sealWorld (s : State) (c w : Nat) (x : Ctx) : State :=
  let s := s.modCore c (fun k => { k with wepoch := k.wepoch.put w (k.wepoch.get 0 w + 1) })
  let (i, s) := s.fresh
  let s :=
    if !s.sealOk c w then s.sealRec c
    else (List.range 28).foldl (fun s n =>
      if !x.hasBlock n then s
      else
        let bs := if n = 0 then ctlImage x.script.level s.cue i else (s.blockBytes c 0 n).1
        let (ct, tag) := gcmSeal (s.worldKey c w) (s.sealIv c w n) bs
        s.pwrite (s.sealAt c w n) (ct ++ tag) false) s
  let s := s.rebank c 0 (2 + w)
  s.modCore c (fun k => { k with bank0 := none, sealed := k.sealed.put w { x with sealedBlocks := (List.range 28).filter x.hasBlock } })

/-- A block restored: what verifies is taken, what does not is zeroed, holds the context and is recorded. -/
def State.restoreBlock (s : State) (c w n : Nat) : State :=
  let a := s.sealAt c w n
  let size := blockSize n
  match gcmOpen (s.worldKey c w) (s.sealIv c w n) (s.pread a size) (s.pread (a + size) 16) with
  | some bs =>
    if n = 0 || bs == (s.blockBytes c 0 n).1 then s else s.putBlock c 0 n bs
  | none =>
    (s.zeroBlock c 0 n).kindleFault c 0 n a

/-- A world's context comes back to bank 0, its blocks lit (R81, R433). -/
def State.restoreWorld (s : State) (c w : Nat) (x : Ctx) : State :=
  let s := s.rebank c (2 + w) 0
  let s := s.modCore c (fun k => { k with bank0 := some x, sealed := k.sealed.del w })
  if s.sealReadable c w x then x.sealedBlocks.foldl (fun s n => s.restoreBlock c w n) s
  else
    let s := x.sealedBlocks.foldl (fun s n => s.zeroBlock c 0 n) s
    (s.sealRec c).modCtx c 0 (fun x => { x with held := some ⟨0x47, .pulls⟩ })

/-- WORLD_SEAL (R81, R358, R433): in the gap, the context of bank `bank` is drained and its lantern entries leave; the
outgoing world is sealed and the incoming one restored. -/
def execWorldSeal (s : State) : Out :=
  let c := s.ev.core
  let own := ((s.core c).frameAt s.cue).1
  let live := fun (s : State) (w : Nat) => bitAt (s.core c).wlive.toNat w
  let s := (s.drain c s.ev.bank).emitWhere (dieOf c) (fun l => l.hasCtx c s.ev.bank)
  let s := match s.ctx c 0 with
    | some x => if x.own < 4 && x.own != own && live s x.own then s.sealWorld c x.own x else s
    | none => s
  .next (match (s.core c).bank0, (s.core c).sealed.find? (fun (e : Nat × Ctx) => e.1 == own) with
    | none, some (_, x) => if live s own then (s.restoreWorld c own x).settle c else s
    | _, _ => s)

/-- FRAME_GAP_END (R81, R82): the incoming context runs. -/
def execFrameGapEnd (s : State) : Out :=
  let c := s.ev.core
  .next (
    if timeCome s.cue (s.core c).gapEnd then
      ((((s.modCore c (fun k => { k with gapEnd := none })).releaseToks c).settle c).tryExchange c).pump c
    else s)

end Sys2Proof.Machine
end

