-- ==== Sys2Proof/Machine/ScalarMem.lean ====
section
/-!
DEFINITION. Memory words of the scalar stream: scratchpad loads and stores (R216 to R218), global loads,
stores and returning atomics (R219 to R223), local atomics (R224 to R226), spill words (R227).
-/
namespace Sys2Proof.Machine

/-! ### Core-local accesses -/

/-- A program word names class 15 (R123, R163). -/
def State.badClass (s : State) (cls : BitVec 4) : Bool := !s.cur.sh && cls == 15

/-- The class of an access: the stagehand uses class 15 (R78). -/
def State.classOf (s : State) (cls : BitVec 4) : Nat := if s.cur.sh then 15 else cls.toNat

/-- Address of sub-format SM (R158). -/
def State.smAddr (s : State) (a off : BitVec 5) (size : Nat) : Nat :=
  (s.g a.toNat + BitVec.ofNat 32 (off.toNat * size)).toNat

/-- A view address. -/
def Region.isView : Region → Bool
  | .row => true
  | .col => true
  | _ => false

/-- The condition that a scalar access of a size may be made at an address (R87 to R90). -/
def State.smBad (s : State) (load : Bool) (a size : Nat) : Bool :=
  a % size != 0 || (match regionOf a with
    | .sp => false
    | .row => size != 4
    | .col => size != 4
    | .win => load || s.cur.sh || !winEn s.me (winOf a)
    | .none => true)

/-- What a scratchpad or view access asks for. -/
def State.smForm (s : State) (load : Bool) (a size : Nat) : Form :=
  match regionOf a with
  | .sp =>
    { touch := if load then [blockOf a] else [], wtouch := if load then [] else [blockOf a]
      bytes := if load then [(a, size)] else [], rows := [⟨0, bankRow a, false⟩], addr := some a
      decode := if s.smBad load a size then some a else none, blocks := [(a, size)] }
  | .win =>
    { decode := if s.smBad load a size then some a else none
      windows := if s.smBad load a size then [] else [(winOf a, 1)] }
  | .none => { decode := some a }
  | _ =>
    let t := viewKey a / 4096
    { touch := if load then [10 + t] else [], wtouch := if load then [] else [10 + t]
      reads := if load then [codeTile (4096 * t)] else []
      decode := if s.smBad load a size then some a else none }

/-- What a load asks for. -/
def smLoadForm (size : Nat) (d a : BitVec 5) (cls : BitVec 4) (off : BitVec 5) (s : State) : Form :=
  let f := s.smForm true (s.smAddr a off size) size
  { f with
    illegal := s.badClass cls
    reads := codeG a.toNat :: f.reads, writes := [codeG d.toNat]
    consumed := [codeG a.toNat], addrRegs := [codeG a.toNat] }

/-- A load (R217). -/
def smLoad (size : Nat) (acq : Bool) (h : SHdr) (d a : BitVec 5) (cls : BitVec 4) (off : BitVec 5)
    (s : State) : Out :=
  let addr := s.smAddr a off size
  s.scalar h (smLoadForm size d a cls off s)
    (fun s =>
      let s :=
        if (regionOf addr).isView then
          s.gwriteM d.toNat (s.view 0 (viewKey addr)) 6 (s.viewMark 0 (viewKey addr))
        else
          s.gwriteM d.toNat (BitVec.ofNat 32 (ofLe (s.spBytes 0 addr size))) 3 (s.spMarkOf 0 addr)
      if acq then s.fence s.impliedMask false else s)

/-- One element of `size` bytes on its way through a window (R352): an element for a lantern, or a
refusal at the source. -/
def State.windowStore (s : State) (k cls addr size : Nat) (v : Word) (rlx : Bool) : State :=
  let x := s.me
  let n := winOf addr
  let (cause, t) := winResolve x addr size
  if cause = 0 then
    let lane := t % 4
    let eop := (2 ^ size - 1) * 2 ^ lane % 16
    s.addPend 0 k (.lantern cls rlx false
      [⟨n, winPkg x n, winDie x n, winCore x n, t, eop, v <<< (8 * lane), 0⟩])
  else s.addPend 0 k (.refused cause cls (winPkg x n) (winDie x n) (winCore x n) t 1)

/-- What a store asks for. -/
def smStoreForm (size : Nat) (d a : BitVec 5) (cls : BitVec 4) (off : BitVec 5) (s : State) : Form :=
  let addr := s.smAddr a off size
  let f := s.smForm false addr size
  { f with
    illegal := s.badClass cls
    reads := codeG a.toNat :: codeG d.toNat :: f.reads
    consumed := if regionOf addr == .win then [codeG a.toNat, codeG d.toNat] else [codeG a.toNat]
    addrRegs := [codeG a.toNat] }

/-- A store (R217): made in its issue cycle. -/
def smStore (size : Nat) (rel : Bool) (h : SHdr) (d a : BitVec 5) (cls : BitVec 4) (off : BitVec 5)
    (s : State) : Out :=
  let addr := s.smAddr a off size
  let win := regionOf addr == .win
  s.scalar h (smStoreForm size d a cls off s)
    (fun s =>
      let v := s.g d.toNat
      let m := s.regs.mark (codeG d.toNat)
      let s := if rel then s.fence s.impliedMask win else s
      if win then s.windowStore 1 cls.toNat addr size v (winRlx s.me (winOf addr))
      else if (regionOf addr).isView then s.addPend 0 1 (.view [(viewKey addr, v)] [(viewKey addr, m)])
      else s.addPend 0 1 (.sp size (cellsOf addr (toLe size v.toNat)) [(addr / 4, m)]))

/-- LDB (R217). -/
def execLdb (h : SHdr) (d a : BitVec 5) (cls : BitVec 4) (off : BitVec 5) (s : State) : Out :=
  smLoad 1 false h d a cls off s
/-- LDH (R217). -/
def execLdh (h : SHdr) (d a : BitVec 5) (cls : BitVec 4) (off : BitVec 5) (s : State) : Out :=
  smLoad 2 false h d a cls off s
/-- LDW (R217). -/
def execLdw (h : SHdr) (d a : BitVec 5) (cls : BitVec 4) (off : BitVec 5) (s : State) : Out :=
  smLoad 4 false h d a cls off s
/-- STB (R217). -/
def execStb (h : SHdr) (d a : BitVec 5) (cls : BitVec 4) (off : BitVec 5) (s : State) : Out :=
  smStore 1 false h d a cls off s
/-- STH (R217). -/
def execSth (h : SHdr) (d a : BitVec 5) (cls : BitVec 4) (off : BitVec 5) (s : State) : Out :=
  smStore 2 false h d a cls off s
/-- STW (R217). -/
def execStw (h : SHdr) (d a : BitVec 5) (cls : BitVec 4) (off : BitVec 5) (s : State) : Out :=
  smStore 4 false h d a cls off s
/-- LDW.acq (R130, R217). -/
def execLdwAcq (h : SHdr) (d a : BitVec 5) (cls : BitVec 4) (off : BitVec 5) (s : State) : Out :=
  smLoad 4 true h d a cls off s
/-- STW.rel (R130, R217). -/
def execStwRel (h : SHdr) (d a : BitVec 5) (cls : BitVec 4) (off : BitVec 5) (s : State) : Out :=
  smStore 4 true h d a cls off s

/-! ### Global accesses -/

/-- Root and owner of the current agent's global accesses (R109, R117, R424). -/
def State.rootOf (s : State) : Nat := if s.cur.sh then (s.core s.cur.core).shroot.toNat else s.me.ptroot.toNat
def State.ownOf (s : State) : Nat := if s.cur.sh then 5 else s.me.own

/-- The current agent as a requester (R401). -/
def State.asAgent (s : State) : Requester := s.agent s.cur.core (s.stageOf s.cur.core) (if s.cur.sh then 3 else 0)

/-- An access of the current agent translated (R112, R114); with `SHROOT` 0 the stagehand's addresses are
physical (R424). -/
def State.xlate (s : State) (va : Nat) (wr : Bool) : Xlate × State :=
  if s.cur.sh && s.rootOf = 0 then (.ok va, s)
  else s.translate s.asAgent (.scalar s.cur.core) (dieOf s.cur.core) s.rootOf s.ownOf va wr

/-- The hold that an outcome of R114 is for a program access (R393, R395, R398). A write to a page that is
not present is none. -/
def State.pageHold (s : State) (va : Nat) (reads : Bool) : Xlate → Option (Hold × FaultRec)
  | .ok _ => none
  | .notPresent => if reads then some (⟨0x40, .issue⟩, s.recOf 0x40 va s.rootOf) else none
  | .prot => some (⟨0x43, .issue⟩, s.recOf 0x43 va 0)
  | .world w => some (⟨0x44, .issue⟩, s.recOf 0x44 va w)
  | .bad a l => some (⟨0x42, .issue⟩, s.recOf 0x42 va (a + l))
  | .starved => some (⟨0x46, .issue⟩, { s.recOf 0x46 va 1 with who := whoByte s.cur.core (s.stageOf s.cur.core) false })

/-- The stagehand meets a fault of R114 or R117: a decode fault (R424). -/
def Xlate.shBad : Xlate → Bool
  | .ok _ => false
  | _ => true

/-- What a global access of `n` bytes asks for (R220, R223): `loads` when it reads, `wr` when it writes. -/
def State.sgForm (s : State) (va n : Nat) (loads wr : Bool) : Form :=
  if va / 2 ^ 52 != 0 || va % n != 0 then { decode := some va }
  else
    let o := (s.xlate va wr).1
    if s.cur.sh then { decode := if o.shBad then some va else none }
    else { hold := s.pageHold va loads o }

/-- An access joins the memory path of its core (R220): `bounce` when its page is not present. -/
def State.addAcc (s : State) (va : Nat) (o : Xlate) (cls tp : Nat) (op : AccOp) (bind : Option Nat) : State :=
  let c := s.cur.core
  let b := s.stageOf c
  let sh := s.cur.sh
  let (i, s) := s.fresh
  let root := s.rootOf
  let (pa, bounce) := match o with
    | .ok pa => (pa, false)
    | _ => (0, true)
  let s := if bounce then s.raise c b false 0x41 0 va root else s
  let s := s.modRegs (fun r =>
    let r := r.produce tp i
    match bind with
    | some reg => { r with bound := r.bound ++ [⟨reg, tp, i⟩] }
    | none => r)
  { s with accs := s.accs ++ [⟨i, c, b, sh, tp, cls, va, pa, root, op, false, bounce⟩] }

/-- Whether an outcome's address needs package scope or wider for an implied fence (R130). -/
def State.xlateWide (s : State) : Xlate → Bool
  | .ok pa => s.wideScope s.cur.core pa
  | _ => true

/-- A register page is addressed: the data of a store there is consumed (R397). -/
def State.xlatePage (s : State) : Xlate → Bool
  | .ok pa => (match s.place pa with
    | .corePriv .. => true
    | .coreShared .. => true
    | .dieShared .. => true
    | _ => false)
  | _ => false

/-- What a global load asks for. -/
def globalLoadForm (n : Nat) (code : Nat) (xa : BitVec 3) (cls : BitVec 4) (tp : BitVec 6) (s : State) : Form :=
  { s.sgForm (s.x xa.toNat).toNat n true false with
    illegal := s.badClass cls, prod := tp.toNat
    reads := [codeX xa.toNat], writes := [code]
    consumed := [codeX xa.toNat], addrRegs := [codeX xa.toNat] }

/-- A global load (R220). `code` is the destination's location code. -/
def globalLoad (n : Nat) (code : Nat) (h : SHdr) (xa : BitVec 3) (cls : BitVec 4) (tp : BitVec 6)
    (ord : Bool) (s : State) : Out :=
  let va := (s.x xa.toNat).toNat
  s.scalar h (globalLoadForm n code xa cls tp s)
    (fun s =>
      let (o, s) := s.xlate va false
      let s := s.addAcc va o (s.classOf cls) tp.toNat (.load code n) (some code)
      let s := if ord then s.fence s.impliedMask (s.xlateWide o) else s
      s.pump s.cur.core)

/-- What a global store asks for. -/
def globalStoreForm (n : Nat) (code : Nat) (xa : BitVec 3) (cls : BitVec 4) (tp : BitVec 6) (s : State) : Form :=
  let va := (s.x xa.toNat).toNat
  { s.sgForm va n false true with
    illegal := s.badClass cls, prod := tp.toNat
    reads := [codeX xa.toNat, code]
    consumed := if s.xlatePage (s.xlate va true).1 then [codeX xa.toNat, code] else [codeX xa.toNat]
    addrRegs := [codeX xa.toNat] }

/-- A global store (R220): the data is read at issue. -/
def globalStore (n : Nat) (code : Nat) (data : State → Nat) (h : SHdr) (xa : BitVec 3) (cls : BitVec 4)
    (tp : BitVec 6) (ord : Bool) (s : State) : Out :=
  let va := (s.x xa.toNat).toNat
  s.scalar h (globalStoreForm n code xa cls tp s)
    (fun s =>
      let (o, s) := s.xlate va true
      let s := if ord then s.fence s.impliedMask (s.xlateWide o) else s
      let s := s.addAcc va o (s.classOf cls) tp.toNat (.store n (data s) (s.regs.mark code)) none
      s.pump s.cur.core)

/-- What a returning atomic asks for. -/
def globalAtomicForm (op : Nat) (d : BitVec 5) (xa : BitVec 3) (cls : BitVec 4) (tp : BitVec 6) (s : State) : Form :=
  let ops := if op = 3 then [codeG d.toNat, codeG (d.toNat + 1)] else [codeG d.toNat]
  { s.sgForm (s.x xa.toNat).toNat 4 true true with
    illegal := s.badClass cls, prod := tp.toNat
    reads := codeX xa.toNat :: ops, writes := [codeG d.toNat]
    consumed := codeX xa.toNat :: ops, addrRegs := [codeX xa.toNat] }

/-- A returning atomic (R223): operation 0 add, 1 max, 2 swap, 3 compare and swap. -/
def globalAtomic (op : Nat) (h : SHdr) (d : BitVec 5) (xa : BitVec 3) (cls : BitVec 4) (tp : BitVec 6)
    (ord : Bool) (s : State) : Out :=
  let va := (s.x xa.toNat).toNat
  s.scalar h (globalAtomicForm op d xa cls tp s)
    (fun s =>
      let (o, s) := s.xlate va true
      let s := s.addAcc va o (s.classOf cls) tp.toNat
        (.atomic (codeG d.toNat) op (s.g d.toNat) (s.g (d.toNat + 1))) (some (codeG d.toNat))
      let s := if ord then s.fence s.impliedMask (s.xlateWide o) else s
      s.pump s.cur.core)

/-- LDG (R220). -/
def execLdg (h : SHdr) (d : BitVec 5) (xa : BitVec 3) (cls : BitVec 4) (tp : BitVec 6) (ord : Bool) (s : State) : Out :=
  globalLoad 4 (codeG d.toNat) h xa cls tp ord s
/-- STG (R220). -/
def execStg (h : SHdr) (d : BitVec 5) (xa : BitVec 3) (cls : BitVec 4) (tp : BitVec 6) (ord : Bool) (s : State) : Out :=
  globalStore 4 (codeG d.toNat) (fun s => (s.g d.toNat).toNat) h xa cls tp ord s
/-- LDGX (R220). -/
def execLdgx (h : SHdr) (d xa : BitVec 3) (cls : BitVec 4) (tp : BitVec 6) (ord : Bool) (s : State) : Out :=
  globalLoad 8 (codeX d.toNat) h xa cls tp ord s
/-- STGX (R220). -/
def execStgx (h : SHdr) (d xa : BitVec 3) (cls : BitVec 4) (tp : BitVec 6) (ord : Bool) (s : State) : Out :=
  globalStore 8 (codeX d.toNat) (fun s => (s.x d.toNat).toNat) h xa cls tp ord s
/-- GADD (R223). -/
def execGadd (h : SHdr) (d : BitVec 5) (xa : BitVec 3) (cls : BitVec 4) (tp : BitVec 6) (ord : Bool) (s : State) : Out :=
  globalAtomic 0 h d xa cls tp ord s
/-- GMAX (R223). -/
def execGmax (h : SHdr) (d : BitVec 5) (xa : BitVec 3) (cls : BitVec 4) (tp : BitVec 6) (ord : Bool) (s : State) : Out :=
  globalAtomic 1 h d xa cls tp ord s
/-- GSWAP (R223). -/
def execGswap (h : SHdr) (d : BitVec 5) (xa : BitVec 3) (cls : BitVec 4) (tp : BitVec 6) (ord : Bool) (s : State) : Out :=
  globalAtomic 2 h d xa cls tp ord s
/-- GCAS (R223). -/
def execGcas (h : SHdr) (d : BitVec 5) (xa : BitVec 3) (cls : BitVec 4) (tp : BitVec 6) (ord : Bool) (s : State) : Out :=
  globalAtomic 3 h d xa cls tp ord s

/-! ### Local atomics -/

/-- What a local atomic asks for: its bank is reserved for three cycles (R97). -/
def localAtomicForm (pair : Bool) (d a : BitVec 5) (cls : BitVec 4) (off : BitVec 5) (s : State) : Form :=
  let addr := s.smAddr a off 4
  let sp := regionOf addr == .sp
  let ops := if pair then [codeG d.toNat, codeG (d.toNat + 1)] else [codeG d.toNat]
  let row := bankRow addr
  { illegal := s.badClass cls
    wtouch := if sp then [blockOf addr] else []
    reads := codeG a.toNat :: ops, writes := [codeG d.toNat]
    bytes := if sp then [(addr, 4)] else []
    rows := if sp then [⟨0, row, true⟩, ⟨1, row, true⟩, ⟨2, row, true⟩] else [], addr := some addr
    decode := if sp && addr % 4 == 0 then none else some addr
    blocks := if sp then [(addr, 4)] else []
    consumed := codeG a.toNat :: ops
    poisoned := if sp && s.spMarkOf 0 addr then some (addr, 0) else none
    addrRegs := [codeG a.toNat] }

/-- The scratchpad stores of the bundle in progress are made: they precede an atomic of a handler or a stagehand,
which is one access at the port (R98, R124). -/
def State.makeStores (s : State) : State :=
  let c := s.cur.core
  let mine := s.regs.pend.filter (fun p => s.forwards 0 p && !(spCells p.w).isEmpty)
  mine.foldl (fun s p => (s.applyWrite c (s.stageOf c) s.cur.sh p.due p.w).1)
    (s.modRegs (fun r => { r with pend := r.pend.filter (fun p => !mine.contains p) }))

/-- A local atomic (R225): the word is read in cycle c and written in c + 2, its bank reserved (R97). -/
def localAtomic (pair : Bool) (op : Word → Word → Word → Word) (h : SHdr) (d a : BitVec 5)
    (cls : BitVec 4) (off : BitVec 5) (s : State) : Out :=
  let addr := s.smAddr a off 4
  s.scalar h (localAtomicForm pair d a cls off s)
    (fun s =>
      let old : Word := BitVec.ofNat 32 (ofLe (s.spBytes 0 addr 4))
      let v := op old (s.g d.toNat) (s.g (d.toNat + 1))
      let s := s.gwrite d.toNat old 3
      let cells := cellsOf addr (toLe 4 v.toNat)
      if s.timed then s.addPend 0 3 (.sp 4 cells [(addr / 4, false)])
      else s.makeStores.modCore s.cur.core (·.spWrite cells [(addr / 4, false)]))

/-- AADD (R225). -/
def execAadd (h : SHdr) (d a : BitVec 5) (cls : BitVec 4) (off : BitVec 5) (s : State) : Out :=
  localAtomic false (fun o v _ => o + v) h d a cls off s
/-- AMIN (R225). -/
def execAmin (h : SHdr) (d a : BitVec 5) (cls : BitVec 4) (off : BitVec 5) (s : State) : Out :=
  localAtomic false (fun o v _ => if o.toInt ≤ v.toInt then o else v) h d a cls off s
/-- AMAX (R225). -/
def execAmax (h : SHdr) (d a : BitVec 5) (cls : BitVec 4) (off : BitVec 5) (s : State) : Out :=
  localAtomic false (fun o v _ => if v.toInt ≤ o.toInt then o else v) h d a cls off s
/-- AOR (R225). -/
def execAor (h : SHdr) (d a : BitVec 5) (cls : BitVec 4) (off : BitVec 5) (s : State) : Out :=
  localAtomic false (fun o v _ => o ||| v) h d a cls off s
/-- ASWAP (R225). -/
def execAswap (h : SHdr) (d a : BitVec 5) (cls : BitVec 4) (off : BitVec 5) (s : State) : Out :=
  localAtomic false (fun _ v _ => v) h d a cls off s
/-- ACAS (R225). -/
def execAcas (h : SHdr) (d a : BitVec 5) (cls : BitVec 4) (off : BitVec 5) (s : State) : Out :=
  localAtomic true (fun o v w => if o = v then w else o) h d a cls off s

/-! ### Spill words (R227) -/

/-- Bytes of a spill store: a context's, or a stagehand's (R100, R424). -/
def State.spillSize (s : State) : Nat := if s.cur.sh then 4096 else 16384

/-- What a spill word asks for: address `a` lies in the frame (R100). -/
def State.spillForm (s : State) (disp : Nat) (load : Bool) : Form :=
  let a := s.regs.frameptr + disp
  let blk := if s.cur.sh then [] else [6 + a / 4096 % 4]
  { touch := if load then blk else [], wtouch := if load then [] else blk
    decode := if s.regs.framesz < disp + 4 || s.spillSize < a + 4 then some a else none }

/-- What SPL asks for. -/
def splForm (d : BitVec 5) (imm : BitVec 14) (s : State) : Form :=
  { s.spillForm (4 * imm.toNat) true with writes := [codeG d.toNat] }
/-- What SPS asks for. -/
def spsForm (d : BitVec 5) (imm : BitVec 14) (s : State) : Form :=
  { s.spillForm (4 * imm.toNat) false with reads := [codeG d.toNat] }

/-- SPL (R227). -/
def execSpl (h : SHdr) (d : BitVec 5) (imm : BitVec 14) (s : State) : Out :=
  let a := s.regs.frameptr + 4 * imm.toNat
  s.scalar h (splForm d imm s)
    (fun s => s.gwriteM d.toNat (BitVec.ofNat 32 (ofLe (s.regs.spill.readN a 4))) 1
      (s.regs.mark (codeSpill (a / 4))))

/-- SPS (R227). -/
def execSps (h : SHdr) (d : BitVec 5) (imm : BitVec 14) (s : State) : Out :=
  let a := s.regs.frameptr + 4 * imm.toNat
  s.scalar h (spsForm d imm s)
    (fun s => s.addPend 0 1 (.spill a (s.g d.toNat) (s.regs.mark (codeG d.toNat))))

end Sys2Proof.Machine
end

