-- ==== Sys2Proof/Machine/Operands.lean ====
section
/-!
DEFINITION. Operands of vector words: stream-register bindings and their chains (R273, R274, R277),
operand specifiers of every kind as sources and destinations (R166, R167, R280 to R284), lanes and active
elements (R278, R282), poison of lanes (R396, R397).
-/
namespace Sys2Proof.Machine

/-- What two parts of a word ask for, together. -/
def Form.join (f g : Form) : Form :=
  { illegal := f.illegal || g.illegal
    sched := f.sched || g.sched
    xfer := f.xfer.or g.xfer
    touch := f.touch ++ g.touch
    wtouch := f.wtouch ++ g.wtouch
    windows := f.windows ++ g.windows
    engine := f.engine.or g.engine
    toks := f.toks ++ g.toks
    prod := max f.prod g.prod
    reads := f.reads ++ g.reads
    writes := f.writes ++ g.writes
    bytes := f.bytes ++ g.bytes
    wait := f.wait.or g.wait
    waitReg := f.waitReg.or g.waitReg
    spWrite := f.spWrite || g.spWrite
    rows := f.rows ++ g.rows
    addr := f.addr.or g.addr
    outside := f.outside.or g.outside
    decode := f.decode.or g.decode
    fault := f.fault.or g.fault
    blocks := f.blocks ++ g.blocks
    consumed := f.consumed ++ g.consumed
    poisoned := f.poisoned.or g.poisoned
    hold := f.hold.or g.hold
    last := f.last.or g.last
    addrRegs := f.addrRegs ++ g.addrRegs
    occ := max f.occ g.occ }

/-- A list of parts together. -/
def Form.joinAll (l : List Form) : Form := l.foldl Form.join {}

/-- The bank rows of `n` bytes at a core-local address, in a cycle after issue (R93). -/
def accRows (off a n : Nat) : List Access :=
  if regionOf a != .sp || n = 0 then []
  else (upFrom (a / 128) ((a + n - 1) / 128 + 1 - a / 128)).map (fun r => ⟨off, r, false⟩)

/-! ### Stream registers (R273, R274) -/

/-- A step word of a chain. -/
structure QStep where
  op : Nat
  ty : Nat
  rnd : Nat
  sat : Bool
  rsvd : Nat
  opw : Nat
deriving DecidableEq, Repr

/-- A binding record decoded (R273). -/
structure QRec where
  base : Nat
  d0 : Nat
  d1 : Nat
  d2 : Nat
  d3 : Nat
  st1 : Int
  st2 : Int
  st3 : Int
  ty : Nat
  rsvd : Nat
  steps : List QStep
deriving DecidableEq, Repr

def QStep.ofNat (w opw : Nat) : QStep :=
  { op := bits w 15 13, ty := bits w 12 9, rnd := bits w 8 7, sat := bitAt w 6, rsvd := bits w 5 0, opw := opw }

/-- A binding record from its 64 bytes. -/
def QRec.ofNat (r : Nat) : QRec :=
  let f := recField r
  { base := f 0 4
    d0 := f 4 2, d1 := f 6 2, d2 := f 8 2, d3 := f 10 2
    st1 := sext (f 12 4) 32, st2 := sext (f 16 4) 32, st3 := sext (f 20 4) 32
    ty := f 24 1
    rsvd := f 25 1 + f 44 20
    steps := [.ofNat (f 26 2) (f 32 4), .ofNat (f 28 2) (f 36 4), .ofNat (f 30 2) (f 40 4)] }

/-- The rounding mode of a round field (R20). -/
def rmOf (n : Nat) : RMode := match n with | 0 => .rne | 1 => .rtz | 2 => .rdn | _ => .rup

/-- The type after a step. -/
def QStep.after (q : QStep) (c : ElemTy) : ElemTy := if q.op = 1 then ElemTy.ofCode q.ty else c

/-- A step keeps R273 and R274 in current type `c`. -/
def QStep.ok (q : QStep) (c : ElemTy) : Bool :=
  q.rsvd == 0 && match q.op with
    | 0 => q.ty == 0 && q.rnd == 0 && !q.sat && q.opw == 0
    | 1 => !(ElemTy.ofCode q.ty).isS && q.opw == 0
    | 2 | 3 => c.isF && q.ty == 0 && !q.sat
    | 4 => q.ty == 0 && q.rnd == 0 && !q.sat
    | _ => false

/-- The chain keeps R273 and R274; a step without operation is followed by none with one. -/
def chainOk : ElemTy → List QStep → Bool
  | _, [] => true
  | c, q :: qs => q.ok c && (q.op != 0 || qs.all (fun r => r.op == 0)) && chainOk (q.after c) qs

def QRec.elTy (q : QRec) : ElemTy := ElemTy.ofCode q.ty
/-- `RTYPE` (R274). -/
def QRec.rtype (q : QRec) : ElemTy := q.steps.foldl (fun c t => t.after c) q.elTy
/-- `N` (R274). -/
def QRec.n (q : QRec) : Nat := 4096 / q.rtype.width
/-- Elements of the pattern. -/
def QRec.total (q : QRec) : Nat := q.d0 * q.d1 * q.d2 * q.d3

/-- The record keeps R273 and R274. -/
def QRec.ok (q : QRec) : Bool :=
  q.base % 128 == 0 && q.d0 != 0 && q.d1 != 0 && q.d2 != 0 && q.d3 != 0
    && q.st1 % 128 == 0 && q.st2 % 128 == 0 && q.st3 % 128 == 0
    && decide (q.ty < 16) && q.rsvd == 0 && chainOk q.elTy q.steps
    && !q.rtype.isS && q.d0 % q.n == 0

/-- Lowest byte of the pattern and the byte past its highest: rows are affine in their positions. A pattern of no
elements has no byte. -/
def QRec.span (q : QRec) : Int × Int :=
  if q.total = 0 then (0, 0) else
  let far := [((q.d1 : Int) - 1) * q.st1, ((q.d2 : Int) - 1) * q.st2, ((q.d3 : Int) - 1) * q.st3]
  (far.foldl (fun a x => a + min 0 x) q.base,
    far.foldl (fun a x => a + max 0 x) (q.base + (rowBytes q.elTy q.d0 : Int)))

/-- A byte of the pattern outside groups A and B (R275). -/
def QRec.outside (q : QRec) : Option Nat :=
  let (lo, hi) := q.span
  if lo < 0 then some (wrap lo 32)
  else if 0x800000 < hi then some (wrap (hi - 1) 32)
  else none

/-- Address of the elements a pop takes at a position: they lie in one row (R277). -/
def QRec.popAddr (q : QRec) (p : Nat) : Nat :=
  let i0 := p % q.d0
  let r := p / q.d0
  let row : Int := q.base + (r % q.d1 : Nat) * q.st1 + (r / q.d1 % q.d2 : Nat) * q.st2
    + (r / (q.d1 * q.d2) : Nat) * q.st3
  (row + (rowBytes q.elTy i0 : Nat)).toNat

/-- A bound taken in place of an se element `v`, whose exponent is that of its grid (`seElem`): rounded there to nearest
even, within the magnitudes of the field (R274; the grid stands for `c`, log 53). -/
def seBound (w : Nat) (v b : Fp) : Fp :=
  let top := 2 ^ (w - 1) - 1
  match v, b with
  | .fin _ _ g, .fin n _ _ => .fin n (min (seMag .rne top g b) top) g
  | .fin _ _ g, .inf n => .fin n top g
  | _, _ => b

/-- One step on a value of current type `c` (R274, R22). The bound that a clamp takes in an se type is rounded on
the grid of its element (log 53). -/
def QStep.run (q : QStep) (flush : Bool) (c : ElemTy) (x : Fp) (enc : Nat) : ElemTy × Fp × Nat :=
  let rm := rmOf q.rnd
  let v := daz flush c x
  let put := fun (t : ElemTy) (e : Nat) => (t, decodeEl t e, e)
  match q.op with
  | 1 => let t := ElemTy.ofCode q.ty; put t (convert flush t rm q.sat v)
  | 2 => put c (toFloat flush c rm false false (Fp.mul v (operandEl flush .f32 q.opw)))
  | 3 => put c (toFloat flush c rm false false (Fp.add rm v (operandEl flush .f32 q.opw)))
  | 4 =>
    let bound := fun (h : Nat) =>
      if c.isInt then Fp.ofInt (sext h 16) else decodeF (fmtOf .bf16) h
    let lo := bound (q.opw % 65536)
    let hi := bound (q.opw / 65536)
    let a := if Fp.lt v lo then lo else v
    let b := if Fp.lt hi a then hi else a
    let took := Fp.lt v lo || Fp.lt hi a
    if c.isS then (c, if took then seBound c.width v b else b, 0)
    else put c (convert flush c .rne took b)
  | _ => (c, x, enc)

/-- An element through the chain: its encoding in `RTYPE`. -/
def QRec.chain (q : QRec) (flush : Bool) (x : Fp) (enc : Nat) : Nat :=
  (q.steps.foldl (fun (s : ElemTy × Fp × Nat) t => t.run flush s.1 s.2.1 s.2.2) (q.elTy, x, enc)).2.2

/-- A chain that acts on nothing. -/
def QRec.plain (q : QRec) : Bool := q.steps.all (fun t => t.op == 0)

/-! ### Lanes (R278, R167) -/

/-- `E(t)`. -/
def elemsOf (t : ElemTy) : Nat := if t.isS then 512 else 4096 / t.width
/-- `lane(e)`. -/
def laneOf (t : ElemTy) (e : Nat) : Nat := if t.isS then 8 * (e / 32) + e % 32 / 4 else e * t.width / 32
/-- Distinct lanes of elements, in order of appearance; ascending elements have ascending lanes. -/
def lanesOf (t : ElemTy) (els : List Nat) : List Nat :=
  (els.foldl (fun (acc : List Nat) e =>
    match acc with
    | l :: _ => if l = laneOf t e then acc else laneOf t e :: acc
    | [] => [laneOf t e]) []).reverse

def allLanes : List Nat := List.range 128

/-- The value of an element of packed 512 bytes (R285, R28). -/
def elemVal (flush : Bool) (t : ElemTy) (num e : Nat) : Fp :=
  if t.isS then seElem t.width (num / 2 ^ (256 * (e / 32)) % 2 ^ (8 * seBytes t.width)) (e % 32)
  else operandEl flush t (elemAt num t.width e)

/-- Every element holds one encoding. -/
def fillWith (w v : Nat) : Nat := v % 2 ^ w * ((2 ^ 4096 - 1) / (2 ^ w - 1))

/-- Packed elements from their encodings. -/
def packMap (w n : Nat) (f : Nat → Nat) : Nat := packElems w ((List.range n).map f)

/-! ### Active elements (R282) -/

/-- A view specifier. -/
def specView : Spec → Bool
  | .row .. => true
  | .col .. => true
  | _ => false

/-- Some operand is of kind 2 or 3. -/
def hasView (w : VWord) : Bool := specView w.d || specView w.a || specView w.b

/-- `sel(L)`. -/
def selLane (w : VWord) (mask : Mask) (l : Nat) : Bool := mask.getLsbD l != w.msn

/-- `valid(e)`. -/
def validEl (w : VWord) (n : Nat) (t : ElemTy) (e : Nat) : Bool :=
  if hasView w then decide (laneOf t e % 64 < n) else decide (e < n)

/-- The valid elements of a type, ascending. -/
def State.validEls (s : State) (w : VWord) (t : ElemTy) : List Nat :=
  let n := s.me.nAt w.nv.toNat
  (List.range (elemsOf t)).filter (validEl w n t)

/-- The active elements of a type, ascending. -/
def State.activeEls (s : State) (w : VWord) (t : ElemTy) : List Nat :=
  let mask := s.mask w.msk.toNat
  (s.validEls w t).filter (fun e => selLane w mask (laneOf t e))

/-- A valid-count register as a count (R397). -/
def countUse (n : Nat) : List Nat := if n = 0 then [] else [codeN n]

/-- What every vector word asks for: its count (R397), its mask (R282), and no class 15 (R123). -/
def maskForm (w : VWord) : Form :=
  let m := if w.msk = 0 then [] else [codeM w.msk.toNat]
  { illegal := w.cls == 15, reads := m, consumed := countUse w.nv.toNat ++ m }

/-! ### Kind 4 (R167) -/

/-- Addresses of the four pieces, exact. -/
def State.pieces (s : State) (gb str off : Nat) : List Nat :=
  (List.range 4).map (fun j => (s.g gb).toNat + 128 * off + j * 128 * 2 ^ str)

/-- Lanes of piece `j` among some. -/
def inPiece (j : Nat) (lanes : List Nat) : Bool := lanes.any (fun l => l / 32 == j)

/-- The pieces that hold some lanes: number and address. -/
def State.piecesOf (s : State) (gb str off : Nat) (lanes : List Nat) : List (Nat × Nat) :=
  ((List.range 4).zip (s.pieces gb str off)).filter (fun e => inPiece e.1 lanes)

/-- The decode fault of a kind 4 operand: a base that is not a multiple of 128, then a piece in use that
lies in no region allowed (R167, R284). -/
def State.pieceBad (s : State) (gb : Nat) (used : List (Nat × Nat)) (win : Bool) : Option Nat :=
  if (s.g gb).toNat % 128 != 0 then some (s.g gb).toNat
  else (used.find? (fun e => match regionOf e.2 with
    | .sp => false
    | .win => !win || !winEn s.me (winOf e.2)
    | _ => true)).map (·.2)

/-! ### Sources -/

/-- A source operand as read in the issue cycle: its 512 bytes as a number, what it asks for, the poisoned
lanes among those read, what a consumer of it consumes, whether it is a view, and the binding it pops. -/
structure Src where
  num : Nat
  form : Form
  marked : List Nat := []
  codes : List Nat := []
  bad : Option (Nat × Nat) := none
  view : Bool := false
  pop : Option (Nat × Nat) := none

/-- What the operand asks for when the word consumes it (R397). -/
def Src.used (x : Src) : Form := { x.form with consumed := x.form.consumed ++ x.codes, poisoned := x.bad }

/-- Key of the accumulator element of a lane of a view (R167, R89). -/
def viewLane (col : Bool) (tile p l : Nat) : Nat :=
  if col then 4096 * tile + 64 * (l % 64) + (2 * p + l / 64)
  else 4096 * tile + 64 * (2 * p + l / 64) + l % 64

/-- `p` of kinds 2 and 3. -/
def State.viewPair (s : State) (gi pair : Nat) : Nat := (pair + (s.g gi).toNat) % 32

/-- A view as source. -/
def State.srcView (s : State) (col : Bool) (tile gi pair : Nat) (lanes : List Nat) : Src :=
  let p := s.viewPair gi pair
  let keys := lanes.map (fun l => (l, viewLane col tile p l))
  let mark := fun (e : Nat × Nat) => s.me.regs.mark (codeTile e.2)
  { num := packMap 32 128 (fun l =>
      if lanes.contains l then (s.view 1 (viewLane col tile p l)).toNat else 0)
    form := {
      touch := if lanes.isEmpty then [] else [10 + tile]
      reads := codeG gi :: (if lanes.isEmpty then [] else [codeTile (4096 * tile)])
      consumed := [codeG gi] }
    marked := (keys.filter mark).map (·.1)
    codes := keys.map (fun e => codeTile e.2)
    view := true }

/-- A strided scratchpad operand as source. -/
def State.srcSp (s : State) (gb str off : Nat) (lanes : List Nat) : Src :=
  let used := s.piecesOf gb str off lanes
  let addr := s.pieces gb str off
  let inSp := used.filter (fun e => regionOf e.2 == .sp)
  let wordAt := fun (l : Nat) => addr.getD (l / 32) 0 + 4 * (l % 32)
  let marked := lanes.filter (fun l => s.spMarkOf 1 (wordAt l))
  { num := ofLe (((List.range 4).zip addr).flatMap (fun e =>
      if inSp.contains e then s.spBytes 1 e.2 128 else List.replicate 128 0))
    form := {
      touch := inSp.map (fun e => blockOf e.2)
      reads := [codeG gb]
      consumed := [codeG gb]
      bytes := inSp.map (fun e => (e.2, 128))
      rows := addr.flatMap (fun a => accRows 0 a 128)
      decode := s.pieceBad gb used false
      blocks := inSp.map (fun e => (e.2, 128)) }
    marked := marked
    bad := (marked.head?).map (fun l => (wordAt l, 0)) }

/-- The words that `n` bytes lie in are poisoned. -/
def State.spanMark (s : State) (strm a n : Nat) : Bool := (wordsOf a n).any (fun w => s.spMarkOf strm (4 * w))

/-- A pop of a stream register (R277), `prior` pops of the same word before it. -/
def State.srcPop (s : State) (n : Nat) (t : ElemTy) (prior : Nat) : Src :=
  match s.me.q.find? (fun e => e.1 == n) with
  | none => { num := 0, form := { illegal := true } }
  | some (_, qb) =>
    let q := QRec.ofNat qb.shape
    if q.rtype != t then { num := 0, form := { illegal := true } }
    else
      let pos := (qb.pos + prior * q.n) % q.total
      let a := q.popAddr pos
      let len := rowBytes q.elTy q.n
      let src := ofLe (s.spBytes 1 a len)
      let el := fun (i : Nat) =>
        if q.elTy.isS then
          let sz := seBytes q.elTy.width
          q.chain s.flush (seElem q.elTy.width (src / 2 ^ (8 * sz * (i / 32)) % 2 ^ (8 * sz)) (i % 32)) 0
        else
          let e := elemAt src q.elTy.width i
          q.chain s.flush (decodeEl q.elTy e) e
      let marked := allLanes.filter (fun l =>
        let per := q.n / 128
        let lo := rowBytes q.elTy (l * per)
        s.spanMark 1 (a + lo) (max 1 (rowBytes q.elTy (l * per + per) - lo)))
      let dirty := s.spanMark 1 a len
      { num := packMap t.width q.n el
        form := {
          touch := (Run.blocks ⟨true, a, len⟩).map (fun e => blockOf e.1)
          bytes := [(a, len)]
          rows := accRows 0 a len
          blocks := Run.blocks ⟨true, a, len⟩
          poisoned := if dirty && !q.plain then some (a, 0) else none }
        marked := marked
        bad := if dirty then some (a, 0) else none
        pop := some (n, (pos + q.n) % q.total) }

/-- A source operand of role type `t` whose lanes in use are given (R167). -/
def State.src (s : State) (sp : Spec) (t : ElemTy) (lanes : List Nat) (prior : Nat) : Src :=
  match sp with
  | .v n =>
    { num := (s.v n.toNat).toNat
      form := { touch := [1 + n.toNat / 8], reads := [codeV n.toNat] }
      marked := lanes.filter (fun l => s.me.regs.mark (codeLane n.toNat l))
      codes := lanes.map (codeLane n.toNat) }
  | .q n => s.srcPop n.toNat t prior
  | .row tile gi pair => s.srcView false tile.toNat gi.toNat pair.toNat lanes
  | .col tile gi pair => s.srcView true tile.toNat gi.toNat pair.toNat lanes
  | .sp gb str off => s.srcSp gb.toNat str.toNat off.toNat lanes
  | .g n =>
    { num := fillWith t.width (s.g n.toNat).toNat
      form := { reads := [codeG n.toNat] }
      marked := if s.regs.mark (codeG n.toNat) then lanes else []
      codes := [codeG n.toNat] }
  | .imm v =>
    { num := fillWith t.width
        (if t.isInt then wrap (sext v.toNat 16) t.width
         else toFloat false t .rne false false (decodeF (fmtOf .bf16) v.toNat))
      form := {} }
  | .y _ => { num := 0, form := { illegal := true } }

/-- How many pops of a stream register operand A makes before operand B reads. -/
def priorPops (a b : Spec) : Nat :=
  match a, b with
  | .q m, .q n => if m = n then 1 else 0
  | _, _ => 0

/-- Operand A. -/
def State.srcA (s : State) (w : VWord) (t : ElemTy) (lanes : List Nat) : Src := s.src w.a t lanes 0
/-- Operand B, after the pop of operand A. -/
def State.srcB (s : State) (w : VWord) (t : ElemTy) (lanes : List Nat) : Src := s.src w.b t lanes (priorPops w.a w.b)
/-- Operand D where it is read. -/
def State.srcD (s : State) (w : VWord) (t : ElemTy) (lanes : List Nat) : Src := s.src w.d t lanes 0

/-- The pops of a word are made. -/
def State.popAll (s : State) (l : List Src) : State :=
  l.foldl (fun s x => match x.pop with
    | some (n, p) => s.modMe (fun c => match c.q.find? (fun e => e.1 == n) with
      | some (_, q) => { c with q := c.q.put n { q with pos := p } }
      | none => c)
    | none => s) s

/-- A count operand (R280). -/
def State.count (s : State) (sp : Spec) : Nat :=
  match sp with
  | .g n => (s.g n.toNat).toNat
  | .imm v => v.toNat
  | _ => 0
/-- What a count operand asks for. -/
def countForm : Spec → Form
  | .g n => { reads := [codeG n.toNat], consumed := [codeG n.toNat] }
  | _ => {}

/-- A mask operand (R280). -/
def maskNo : Spec → Nat
  | .v n => n.toNat % 8
  | _ => 0
def maskUse (sp : Spec) : Form :=
  let m := if maskNo sp = 0 then [] else [codeM (maskNo sp)]
  { reads := m, consumed := m }

/-- A y operand (R280). -/
def yNo : Spec → Nat
  | .y n => n.toNat
  | _ => 0

/-! ### Destinations -/

/-- What a destination asks for: the lanes written, and the cycle of the write after issue (R283). -/
def State.dstForm (s : State) (sp : Spec) (lat : Nat) (lanes : List Nat) : Form :=
  let view := fun (tile gi : Nat) =>
    ({ wtouch := if lanes.isEmpty then [] else [10 + tile], reads := [codeG gi], consumed := [codeG gi] } : Form)
  match sp with
  | .v n => { wtouch := [1 + n.toNat / 8] }
  | .row tile gi _ => view tile.toNat gi.toNat
  | .col tile gi _ => view tile.toNat gi.toNat
  | .sp gb str off =>
    let used := s.piecesOf gb.toNat str.toNat off.toNat lanes
    let inSp := used.filter (fun e => regionOf e.2 == .sp)
    { wtouch := inSp.map (fun e => blockOf e.2)
      reads := [codeG gb.toNat]
      consumed := [codeG gb.toNat]
      rows := (s.pieces gb.toNat str.toNat off.toNat).flatMap (fun a => accRows (lat - 1) a 128)
      decode := s.pieceBad gb.toNat used false
      blocks := inSp.map (fun e => (e.2, 128))
      spWrite := true }
  | _ => {}

/-- An element of a result: number, encoding, poison. -/
abbrev El := Nat × Nat × Bool

/-- Marks of the lanes that elements stand in, ascending. -/
def laneMarks (t : ElemTy) (els : List El) : List (Nat × Bool) :=
  (els.foldl (fun (acc : List (Nat × Bool)) e =>
    match acc with
    | (l, m) :: r => if l = laneOf t e.1 then (l, m || e.2.2) :: r else (laneOf t e.1, e.2.2) :: acc
    | [] => [(laneOf t e.1, e.2.2)]) []).reverse

/-- A write of the current agent delayed in interlocked mode (R69, R99): a scratchpad write takes an entry of
the forwarding table (R133). -/
def State.addDest (s : State) (strm k : Nat) (w : PWrite) : State :=
  let due := s.now + k
  let (j, s) := s.latency k
  let (i, s) := s.fresh
  let late := decide (k < j) && !(spCells w).isEmpty
  let s := if late then s.modMe (·.missNominal (due - 1) w) else s
  s.modRegs (fun r => { r with pend := r.pend ++ [⟨due + (j - k), i, strm, late, w⟩] })

/-- Bytes with a bit mask, two halves of one byte made one. -/
def joinNibs (l : List (Nat × Byte × Byte)) : List (Nat × Byte × Byte) :=
  (l.foldl (fun (acc : List (Nat × Byte × Byte)) e =>
    match acc with
    | (a, b, m) :: r => if a = e.1 then (a, b ||| e.2.1, m ||| e.2.2) :: r else e :: acc
    | [] => [e]) []).reverse

/-- The scratchpad write of elements to pieces. -/
def spWriteOf (t : ElemTy) (addr : List Nat) (els : List El) : PWrite :=
  let w := t.width
  let byteAt := fun (e : Nat) => let o := e * w / 8; addr.getD (o / 128) 0 + o % 128
  let marks := (laneMarks t els).map (fun (l, m) => ((addr.getD (l / 32) 0 + 4 * (l % 32)) / 4, m))
  if w = 4 then
    .spn (joinNibs (els.map (fun (e, v, _) =>
      (byteAt e, BitVec.ofNat 8 (v % 16 * 16 ^ (e % 2)), BitVec.ofNat 8 (15 * 16 ^ (e % 2)))))) marks
  else .sp (w / 8) (els.flatMap (fun (e, v, _) => cellsOf (byteAt e) (toLe (w / 8) v))) marks

/-- Elements of a type written to a destination, readable `lat` cycles after issue (R283). -/
def State.dstWrite (s : State) (sp : Spec) (t : ElemTy) (lat : Nat) (els : List El) : State :=
  let w := t.width
  let view := fun (col : Bool) (tile gi pair : Nat) =>
    let p := s.viewPair gi pair
    let key := fun (e : Nat) => viewLane col tile p e
    s.addDest 1 lat (.view (els.map (fun (e, v, _) => (key e, BitVec.ofNat 32 v)))
      (els.map (fun (e, _, m) => (key e, m))))
  match sp with
  | .v n =>
    let val := els.foldl (fun a (e, v, _) => a + v % 2 ^ w * 2 ^ (w * e)) 0
    let sel := els.foldl (fun a (e, _, _) => a + (2 ^ w - 1) * 2 ^ (w * e)) 0
    s.addDest 1 lat (.v n.toNat w (BitVec.ofNat 4096 val) (BitVec.ofNat 4096 sel) (laneMarks t els))
  | .row tile gi pair => if els.isEmpty then s else view false tile.toNat gi.toNat pair.toNat
  | .col tile gi pair => if els.isEmpty then s else view true tile.toNat gi.toNat pair.toNat
  | .sp gb str off =>
    if els.isEmpty then s
    else s.addDest 1 lat (spWriteOf t (s.pieces gb.toNat str.toNat off.toNat) els)
  | _ => s

/-! ### The shape of most vector words -/

/-- A latency with the addition of R175 for a view source. -/
def viewLat (base : Nat) (l : List Src) : Nat := if l.any (·.view) then base + 4 else base

/-- What a word asks for that reads sources and writes elements of type `t` of its destination: `moves` when
it carries poison and consumes nothing of its sources (R397). -/
def vecForm (w : VWord) (base : Nat) (t : ElemTy) (srcs : List Src) (more : Form) (moves : Bool)
    (els : List (Nat × Nat)) (s : State) : Form :=
  Form.joinAll (maskForm w :: (srcs.map (fun x => if moves then x.form else x.used))
    ++ [more, s.dstForm w.d (viewLat base srcs) (lanesOf t (els.map (·.1)))])

/-- Its effect: the pops and the destination's elements, with the poison they carry. -/
def State.vecDone (s : State) (w : VWord) (base : Nat) (t : ElemTy) (srcs : List Src) (moves : Bool)
    (els : List (Nat × Nat)) : State :=
  let marked := if moves then srcs.flatMap (·.marked) else []
  (s.popAll srcs).dstWrite w.d t (viewLat base srcs)
    (els.map (fun (e, v) => (e, v, marked.contains (laneOf t e))))

/-- Such a word. -/
def vecWrite (w : VWord) (base : Nat) (t : ElemTy) (srcs : List Src) (more : Form) (moves : Bool)
    (els : List (Nat × Nat)) (s : State) : Out :=
  s.engine 1 (vecForm w base t srcs more moves els s) (·.vecDone w base t srcs moves els)

/-- Operand A of a reduction, and of VLD, in the lanes of its active elements. -/
def State.actA (s : State) (w : VWord) : Src := s.srcA w w.etype (lanesOf w.etype (s.activeEls w w.etype))

/-- The sources of a word that acts element by element: operand A, and B when `two`, and the old D when
`old`. -/
def State.elSrcs (s : State) (w : VWord) (two old : Bool) : List Src :=
  let t := w.etype
  let lanes := lanesOf t (s.activeEls w t)
  [s.srcA w t lanes] ++ (if two then [s.srcB w t lanes] else []) ++ (if old then [s.srcD w t lanes] else [])

/-- Its results: the operands' encodings give each active element's (R289, R290). -/
def State.elResults (s : State) (w : VWord) (f : Nat → Nat → Nat → Nat) : List (Nat × Nat) :=
  let t := w.etype
  let act := s.activeEls w t
  let lanes := lanesOf t act
  let at_ := fun (x : Src) (e : Nat) => elemAt x.num t.width e
  act.map (fun e => (e, f (at_ (s.srcA w t lanes) e) (at_ (s.srcB w t lanes) e) (at_ (s.srcD w t lanes) e)))

/-- A word that acts element by element. -/
def elementwise (w : VWord) (base : Nat) (two old : Bool) (f : Nat → Nat → Nat → Nat) (s : State) : Out :=
  vecWrite w base w.etype (s.elSrcs w two old) {} false (s.elResults w f) s

end Sys2Proof.Machine
end

