-- ==== Sys2Proof/Machine/Copy.lean ====
section
/-!
DEFINITION. Copy and pool commands and the words of stream registers as the scalar stream issues them (R246
to R257, R275, R276): the record read, the faults of acceptance in their order, and the command that the
engine then holds.
-/
namespace Sys2Proof.Machine

/-- The world of the current context, none for the stagehand or an open context (R106, R270). -/
def State.hasWorld (s : State) : Bool := !s.cur.sh && decide (s.me.own < 4)

/-- The key of a slot in force for the current agent (R270, R271, R433). -/
def State.cmdKey (s : State) (slot : Nat) : Nat :=
  let k := s.core s.cur.core
  match slot with
  | 0 => (Config.coreImageKey s.cur.core).toNat
  | 1 => ofBe (k.keys.readN (0x0860 + 16 * s.me.own) 16)
  | n => ofBe (k.keys.readN (0x0800 + 16 * (n - 2)) 16)

/-- What a record of 64 bytes at a core-local address asks for (R247, R275). -/
def State.recordForm (s : State) (a : Nat) : Form :=
  let sp := regionOf a == .sp
  let ok := sp && a % 64 == 0
  let mark := (wordsOf a 64).find? (fun w => s.spMarkOf 0 (4 * w))
  { touch := if sp then [blockOf a] else []
    bytes := if ok then [(a, 64)] else []
    rows := if sp then [⟨0, bankRow a, false⟩] else [], addr := some a
    decode := if ok then none else some a
    blocks := if ok then [(a, 64)] else []
    poisoned := if ok then mark.map (fun w => (4 * w, 0)) else none }

/-- The 64 bytes of a record as the scalar stream reads them. -/
def State.record (s : State) (a : Nat) : Nat := if a % 64 = 0 then ofLe (s.spBytes 0 a 64) else 0

/-- The faults of item 11 of R252, in order. -/
def acceptFault (op : Nat) (sh : Shape) (src tp : Nat) (prog world : Bool) : Option (Nat × Nat × Nat) :=
  if shapeBad op sh src tp prog world then some (0x10, 0, 0)
  else match (readRuns op sh src ++ writeRuns op sh).findSome? Run.outside with
    | some a => some (0xA, 0, wrap a 32)
    | none =>
      if 32 < (dstPages op sh).length then some (0x10, 0, 0)
      else if overlaps op sh src then some (0x11, 0, 0)
      else none

/-- Scratchpad blocks that the command's bytes meet (item 5 of R252). -/
def cmdBlocks (op : Nat) (sh : Shape) (src : Nat) : List (Nat × Nat) :=
  (readRuns op sh src ++ writeRuns op sh).flatMap Run.blocks

/-- A command accepted: it joins its engine, and its destination pages are walked next (R252, R254). -/
def State.accept (s : State) (op : Nat) (sh : Shape) (shape src : Nat) (tp : BitVec 6) : State :=
  let c := s.cur.core
  let r := s.regs
  let (i, s) := s.producing tp
  let toks := sh.toks.filter (fun t => t != 0)
  let k : Cmd := {
    id := i, op := op, core := c, bank := s.stageOf c, sh := s.cur.sh, own := s.ownOf
    tok := tp.toNat, tokId := i, cls := if s.cur.sh then 15 else sh.cls
    src := src, shape := shape, root := s.rootOf, phys := s.cur.sh && s.rootOf == 0
    key := if isDec op || isEnc op then s.cmdKey sh.key else 0
    waits := (toks.filter r.pending).map (fun t => r.tokId.get 0 t)
    depFailed := toks.any (fun t => !r.pending t && r.failed t)
    phase := .walk, toRead := [], data := [], poison := [], toWrite := [], pages := [], used := [], told := [], met := []
    flying := 0, stuck := false, causes := [] }
  if isPool op then
    let d := dieOf c
    (s.modDie d (fun q => { q with pool := q.pool ++ [(c % 4, k)] })).later .copyDestinationWalk
      { core := c, engine := .pool d (c % 4), n := i }
  else
    (s.modCore c (fun q => { q with cmds := q.cmds ++ [k] })).later .copyDestinationWalk
      { core := c, engine := .copy c, n := i }

/-- The source operand of a command; CFILL has none. -/
def State.cmdX (s : State) (op : Nat) (xa : BitVec 3) : Nat := if op == 0x0C then 0 else (s.x xa.toNat).toNat
/-- The source address of a command: 32 bits for a core-local source. -/
def State.cmdSrc (s : State) (op : Nat) (xa : BitVec 3) (a : BitVec 5) : Nat :=
  let x := s.cmdX op xa
  if (Shape.ofNat (s.record (s.g a.toNat).toNat)).ssp then x % 2 ^ 32 else x

/-- What a copy or pool command asks for (R247, R252). -/
def copyForm (op : Nat) (tp : BitVec 6) (xa : BitVec 3) (a : BitVec 5) (s : State) : Form :=
  let ga := (s.g a.toNat).toNat
  let sh := Shape.ofNat (s.record ga)
  let x := s.cmdX op xa
  let src := s.cmdSrc op xa a
  let srcBad := if sh.ssp then 2 ^ 32 ≤ x else 2 ^ 52 ≤ x
  let f := s.recordForm ga
  let regs := codeG a.toNat :: (if op == 0x0C then [] else [codeX xa.toNat])
  { f with
    prod := tp.toNat, engine := some (isPool op), reads := regs
    decode := f.decode.or (if srcBad then some (x % 2 ^ 32) else none)
    fault := acceptFault op sh src tp.toNat (!s.cur.sh) s.hasWorld
    blocks := f.blocks ++ cmdBlocks op sh src, consumed := regs, addrRegs := regs }

/-- A copy or pool command (R247, R252). -/
def copyWord (op : Nat) (h : SHdr) (tp : BitVec 6) (xa : BitVec 3) (a : BitVec 5) (s : State) : Out :=
  let shape := s.record (s.g a.toNat).toNat
  let src := s.cmdSrc op xa a
  s.scalar h (copyForm op tp xa a s) (fun s => s.accept op (Shape.ofNat shape) shape src tp)

/-- CPY (R259). -/
def execCpy (h : SHdr) (tp : BitVec 6) (xa : BitVec 3) (a : BitVec 5) (s : State) : Out := copyWord 0x00 h tp xa a s
/-- CPYT (R260). -/
def execCpyt (h : SHdr) (tp : BitVec 6) (xa : BitVec 3) (a : BitVec 5) (s : State) : Out := copyWord 0x01 h tp xa a s
/-- CCVT (R259). -/
def execCcvt (h : SHdr) (tp : BitVec 6) (xa : BitVec 3) (a : BitVec 5) (s : State) : Out := copyWord 0x02 h tp xa a s
/-- CQNT (R263, R264). -/
def execCqnt (h : SHdr) (tp : BitVec 6) (xa : BitVec 3) (a : BitVec 5) (s : State) : Out := copyWord 0x03 h tp xa a s
/-- CQNTH (R263, R264). -/
def execCqnth (h : SHdr) (tp : BitVec 6) (xa : BitVec 3) (a : BitVec 5) (s : State) : Out := copyWord 0x04 h tp xa a s
/-- CSORT (R265, R266). -/
def execCsort (h : SHdr) (tp : BitVec 6) (xa : BitVec 3) (a : BitVec 5) (s : State) : Out := copyWord 0x05 h tp xa a s
/-- CCMPB (R268, R269). -/
def execCcmpb (h : SHdr) (tp : BitVec 6) (xa : BitVec 3) (a : BitVec 5) (s : State) : Out := copyWord 0x06 h tp xa a s
/-- CEXPB (R268, R269). -/
def execCexpb (h : SHdr) (tp : BitVec 6) (xa : BitVec 3) (a : BitVec 5) (s : State) : Out := copyWord 0x07 h tp xa a s
/-- CCMPP (R268, R269). -/
def execCcmpp (h : SHdr) (tp : BitVec 6) (xa : BitVec 3) (a : BitVec 5) (s : State) : Out := copyWord 0x08 h tp xa a s
/-- CEXPP (R268, R269). -/
def execCexpp (h : SHdr) (tp : BitVec 6) (xa : BitVec 3) (a : BitVec 5) (s : State) : Out := copyWord 0x09 h tp xa a s
/-- CDEC (R270, R272). -/
def execCdec (h : SHdr) (tp : BitVec 6) (xa : BitVec 3) (a : BitVec 5) (s : State) : Out := copyWord 0x0A h tp xa a s
/-- CENC (R270, R272). -/
def execCenc (h : SHdr) (tp : BitVec 6) (xa : BitVec 3) (a : BitVec 5) (s : State) : Out := copyWord 0x0B h tp xa a s
/-- CFILL (R261). -/
def execCfill (h : SHdr) (tp : BitVec 6) (a : BitVec 5) (s : State) : Out := copyWord 0x0C h tp 0 a s
/-- CGATH (R262). -/
def execCgath (h : SHdr) (tp : BitVec 6) (xa : BitVec 3) (a : BitVec 5) (s : State) : Out := copyWord 0x0D h tp xa a s
/-- CSCAT (R262). -/
def execCscat (h : SHdr) (tp : BitVec 6) (xa : BitVec 3) (a : BitVec 5) (s : State) : Out := copyWord 0x0E h tp xa a s
/-- PCPY (R259). -/
def execPcpy (h : SHdr) (tp : BitVec 6) (xa : BitVec 3) (a : BitVec 5) (s : State) : Out := copyWord 0x10 h tp xa a s
/-- PCVT (R259). -/
def execPcvt (h : SHdr) (tp : BitVec 6) (xa : BitVec 3) (a : BitVec 5) (s : State) : Out := copyWord 0x11 h tp xa a s
/-- PDEC (R270, R272). -/
def execPdec (h : SHdr) (tp : BitVec 6) (xa : BitVec 3) (a : BitVec 5) (s : State) : Out := copyWord 0x12 h tp xa a s
/-- PENC (R270, R272). -/
def execPenc (h : SHdr) (tp : BitVec 6) (xa : BitVec 3) (a : BitVec 5) (s : State) : Out := copyWord 0x13 h tp xa a s

/-! ### Stream registers -/

/-- What QBIND asks for (R275); a stagehand has no stream registers (log 20). -/
def qbindForm (a : BitVec 5) (s : State) : Form :=
  let ga := (s.g a.toNat).toNat
  let b := QRec.ofNat (s.record ga)
  let f := s.recordForm ga
  { f with
    illegal := s.cur.sh, reads := [codeG a.toNat], consumed := [codeG a.toNat], addrRegs := [codeG a.toNat]
    decode := f.decode.or b.outside
    fault := if b.ok then none else some (0x10, 0, 0) }

/-- QBIND (R275). -/
def execQbind (h : SHdr) (q : BitVec 3) (a : BitVec 5) (s : State) : Out :=
  let r := s.record (s.g a.toNat).toNat
  s.scalar h (qbindForm a s)
    (fun s => s.addPend 0 1 (.qbind q.toNat (some ⟨r, 0⟩)))

/-- QREL (R276). -/
def execQrel (h : SHdr) (q : BitVec 3) (s : State) : Out :=
  s.scalar h { illegal := s.cur.sh } (fun s => s.addPend 0 1 (.qbind q.toNat none))

end Sys2Proof.Machine
end

