-- ==== Sys2Proof/Machine/Engines.lean ====
section
/-!
DEFINITION. Copy and pool engines (R113 to R116, R246, R254 to R258, R392 to R396): the walk of the destination
pages, the 64-byte requests, completion. The events of the table are one request each.
-/
namespace Sys2Proof.Machine

/-! ### Commands -/

def State.cmdOf (s : State) : Engine → Nat → Option Cmd
  | .copy c, i => (s.core c).cmds.find? (fun k => k.id == i)
  | .pool d _, i => ((s.die d).pool.find? (fun e => e.2.id == i)).map (·.2)

def State.modCmd (s : State) (e : Engine) (i : Nat) (f : Cmd → Cmd) : State :=
  let g := fun (k : Cmd) => if k.id == i then f k else k
  match e with
  | .copy c => s.modCore c (fun q => { q with cmds := q.cmds.map g })
  | .pool d _ => s.modDie d (fun q => { q with pool := q.pool.map (fun (x : Nat × Cmd) => (x.1, g x.2)) })

def State.delCmd (s : State) (e : Engine) (i : Nat) : State :=
  match e with
  | .copy c => s.modCore c (fun q => { q with cmds := q.cmds.filter (fun k => k.id != i) })
  | .pool d _ => s.modDie d (fun q => { q with pool := q.pool.filter (fun x => x.2.id != i) })

/-- `REQ` kind of an engine (R401). -/
def engineKind : Engine → Nat
  | .copy _ => 1
  | .pool .. => 2

/-- The translation buffer of an engine (R112). -/
def engineTlb : Engine → TlbSel
  | .copy c => .stream c
  | .pool d e => .pool d e

def Cmd.got (k : Cmd) : Got := ⟨k.data, k.poison⟩

/-- A command's engine as a requester (R401). -/
def State.cmdAgent (s : State) (e : Engine) (k : Cmd) : Requester := s.agent k.core k.bank (engineKind e)

/-- An event of a command. -/
def cmdEv (e : Engine) (k : Cmd) : EvArg := { core := k.core, engine := e, n := k.id }

/-- Rows of CGATH and CSCAT meet only blocks of the context's owner; the stagehand's pass (R106, R262). -/
def State.ownRun (s : State) (k : Cmd) (r : Run) : Bool :=
  k.sh || r.blocks.all (fun b => (s.core k.core).tag (spBlock b.1) == k.own)

/-- A command ends with a cause, 0 for none (R135, R256). -/
def State.cmdEnd (s : State) (e : Engine) (k : Cmd) (cause : Nat) : State :=
  let s := (s.delCmd e k.id).tokDone k.core k.bank k.sh k.tok k.tokId cause
  ((s.parkPump k.core).pump k.core).barrierPump

/-- The lowest of the causes met (R256). -/
def lowCause : List Nat → Nat
  | [] => 0
  | c :: cs => cs.foldl min c

/-- A command that can go no further without the stagehand (R254, R392, R393): its record, its context held, the
engine waiting for RESUME. A stagehand's command fails with its record (R424, log 18); a command whose context
is parking or gone ends (R392, log 55). -/
def State.cmdFault (s : State) (e : Engine) (k : Cmd) (cause va detail : Nat) : State :=
  let c := k.core
  if k.sh then
    (s.pushRec (dieOf c) (some c) ⟨0x4F, c % 16, s.reqOf c (engineKind e), 0, 0xA, s.cue⟩).cmdEnd e k 4
  else
    let r : FaultRec := ⟨cause, whoByte c k.bank true, s.reqOf c (engineKind e), va, detail, s.cue⟩
    let h : Hold := ⟨cause, .command e k.id⟩
    match s.ctx c k.bank with
    | none => (s.pushRec (dieOf c) none r).cmdEnd e k 4
    | some x =>
      if x.life == .parking then (s.pushRec (dieOf c) (some c) r).cmdEnd e k 4
      else
      let s := s.modCmd e k.id (fun k => { k with stuck := true })
      if x.held.isSome then (s.pushRec (dieOf c) (some c) r).readDrain c k.bank cause
      else s.hold c k.bank h r

/-- Frame starvation (R395): the record, the token failed with cause 8, the context parked. -/
def State.cmdStarved (s : State) (e : Engine) (k : Cmd) (va need : Nat) : State :=
  let c := k.core
  if k.sh then s.cmdFault e k 0x46 va need
  else
    let s := s.pushRec (dieOf c) (some c)
      ⟨0x46, whoByte c k.bank false, s.reqOf c (engineKind e), va, need, s.cue⟩
    (s.parkStarved c k.bank).cmdEnd e k 8

/-- `DETAIL` of a refused command (R398). -/
def refusedDetail (k : Cmd) (fault level : Nat) : Nat := k.tok % 64 + fault * 2 ^ 8 + level * 2 ^ 16

/-! ### The walk of the destination pages (R113, R254) -/

/-- `A` and `D` are set on the valid writable pages among the destination, whatever becomes of the command (R113). -/
def State.walkMarks (s : State) (e : Engine) (k : Cmd) (ps : List Nat) : State :=
  ps.foldl (fun s p =>
    match (s.tlb (engineTlb e)).find? (tlbHit k.root (65536 * p)) with
    | some h => if h.writable && !h.dirty then s.setAD h.pte true else s
    | none => match s.walk k.root (65536 * p) with
      | .page _ _ _ pte _ w _ => if w then s.setAD pte true else s
      | _ => s) s

/-- The first page that refuses a command. -/
def State.walkRefusal (s : State) (e : Engine) (k : Cmd) : List Nat → Option (Nat × Nat × Nat)
  | [] => none
  | p :: ps =>
    let va := 65536 * p
    match (s.translate (s.cmdAgent e k) (engineTlb e) (dieOf k.core) k.root k.own va true).1 with
    | .prot => some (va, refusedDetail k 0x43 0, 0)
    | .world _ => some (va, refusedDetail k 0x44 0, 0)
    | .bad a l => some (va, refusedDetail k 0x42 l, a)
    | _ => s.walkRefusal e k ps

/-- The demand-zero pages among the destination. -/
def State.walkZeros (s : State) (e : Engine) (k : Cmd) (ps : List Nat) : List Nat :=
  ps.filter (fun p =>
    ((s.tlb (engineTlb e)).find? (tlbHit k.root (65536 * p))).isNone
      && (match s.walk k.root (65536 * p) with | .zero .. => true | _ => false))

/-- The translation that served an address joins those that a command has used (R244). -/
def State.useTlb (s : State) (e : Engine) (i root va : Nat) : State :=
  match (s.tlb (engineTlb e)).find? (tlbHit root va) with
  | some h => s.modCmd e i (fun k => { k with used := if k.used.contains h then k.used else h :: k.used })
  | none => s

/-- Every destination page translated: its physical page, none for a page not present. -/
def State.walkPages (s : State) (e : Engine) (k : Cmd) : List Nat → Tab (Option Nat) → Tab (Option Nat) × State
  | [], t => (t, s)
  | p :: ps, t =>
    match s.translate (s.cmdAgent e k) (engineTlb e) (dieOf k.core) k.root k.own (65536 * p) true with
    | (.ok pa, s) => (s.useTlb e k.id k.root (65536 * p)).walkPages e k ps (t.put p (some pa))
    | (_, s) => s.walkPages e k ps (t.put p none)

/-- COPY_DESTINATION_WALK (R113, R254, R395): the pages of command `n` of `engine` are walked, or the command is
refused. -/
def execCopyDestinationWalk (s : State) : Out :=
  let e := s.ev.engine
  .next (match s.cmdOf e s.ev.n with
  | none => s
  | some k =>
    if k.phase != .walk || k.stuck then s
    else
      let ps := if k.phys then [] else dstPages k.op k.shp
      let s := s.walkMarks e k ps
      match s.walkRefusal e k ps with
      | some (va, detail, pte) =>
        if s.portDown pte && !s.ev.flag then s.afterFabtmo k.core .copyDestinationWalk s.ev
        else (if pte = 0 then s else s.walkRec (dieOf k.core) (s.cmdAgent e k) pte).cmdFault e k 0x57 va detail
      | none =>
        let z := s.walkZeros e k ps
        if (s.die (dieOf k.core)).frames < z.length then s.cmdStarved e k (65536 * z.headD 0) z.length
        else
          let (t, s) := s.walkPages e k ps []
          (s.modCmd e k.id (fun k => { k with pages := t, phase := .waiting })).pump k.core)

/-! ### Writing -/

/-- The bytes at the front of a list that are contiguous within one 64-byte line. -/
def frontChunk : List (Nat × Byte × Bool) → List (Nat × Byte × Bool)
  | [] => []
  | a :: l =>
    let rec go (k : Nat) : List (Nat × Byte × Bool) → List (Nat × Byte × Bool)
      | [] => []
      | b :: l => if b.1 = k + 1 && b.1 % 64 != 0 then b :: go (k + 1) l else []
    a :: go a.1 l

/-- Marks of the 32-bit words of a chunk, by word number. -/
def chunkMarks (l : List (Nat × Byte × Bool)) : List (Nat × Bool) :=
  (distinct (l.map (fun b => b.1 / 4))).map (fun w => (w, l.any (fun b => b.1 / 4 == w && b.2.2)))

/-- Bytes written by an agent of die `d`: memory word by word, each word with its mark; a register page at once. -/
def State.writeWords (s : State) (d : Nat) (r : Requester) (ok : Bool) (pa : Nat) (l : List (Byte × Bool)) : State :=
  match s.place pa with
  | .corePriv .. | .coreShared .. | .dieShared .. => s.agentWrite d r ok pa (l.map (·.1)) (l.any (·.2))
  | .sram _ | .host | .pool _ =>
    (wordsOf pa l.length).foldl (fun s w =>
      let lo := max (4 * w) pa
      let hi := min (4 * w + 4) (pa + l.length)
      let part := (l.drop (lo - pa)).take (hi - lo)
      s.agentWrite d r ok lo (part.map (·.1)) (part.any (·.2))) s
  | _ => s.agentWrite d r ok pa (l.map (·.1)) (l.any (·.2))

/-- A chunk for a page not present: the bounce buffer, and the record of R394 once a page; none while the buffer is
full (R115). -/
def State.cmdBounce (s : State) (e : Engine) (k : Cmd) (va : Nat) (l : List (Byte × Bool)) : Option State :=
  let c := k.core
  match s.bounce (s.cmdAgent e k) (dieOf c) va k.root l with
  | none => none
  | some s =>
    if k.told.contains (va / 65536) then some s
    else
      some ((s.modCmd e k.id (fun k => { k with told := (va / 65536) :: k.told })).pushRec (dieOf c) (some c)
        ⟨0x41, whoByte c k.bank false, s.reqOf c (engineKind e), va, k.root, s.cue⟩)

/-- A request of a command at its core's port: none when it must ask for its bank first (R98, R104). -/
def State.cmdPort (s : State) (e : Engine) (k : Cmd) (addr : Nat) : State :=
  s.portAsk k.core addr (Engine.port e) false .copyRequest (cmdEv e k)

/-- Before the first packet of a command for a die, the lantern of that die and its class is emitted (R258), and later ones with
entries from before it (R140). -/
def State.cmdMeets (s : State) (e : Engine) (k : Cmd) (pa : Nat) : State :=
  match s.remoteOf k.core pa with
  | none => s
  | some (pkg, die) =>
    if k.met.contains (pairKey pkg die) && (k.shp.rlx || k.sh || !s.lanternBefore k.core pkg die k.cls k.id) then s
    else
      let s := if k.shp.rlx || k.sh then s else s.emitFor k.core pkg die k.cls
      s.modCmd e k.id (fun k => { k with met := pairKey pkg die :: k.met.filter (· != pairKey pkg die) })

/-- An access of a command must wait (R140): a strict one for window writes and stores of its triple that have not left and for
lanterns of its triple that have been emitted and not left, a strict read for the posted packets of its triple, and one to
the own die's cluster SRAM for the window writes to that die before it (log 67). -/
def State.cmdBlocked (s : State) (k : Cmd) (read : Bool) (pa : Nat) : Bool :=
  let own := (s.remoteOf k.core pa).isNone
  !k.shp.rlx && !k.sh && (match s.tripleDie k.core pa with
    | some (pkg, die) => s.windowBefore k.core pkg die k.cls k.id
      || ((read || own) && s.postedBefore k.core k.cls pa) || (own && s.lanternBefore k.core pkg die k.cls k.id)
    | none => read && s.postedBefore k.core k.cls pa)
    || (!k.shp.rlx && !k.sh && (s.leavingFor k.core k.cls (s.destOf pa) || s.storesAhead k.core k.cls k.id (s.destOf pa)))

/-- A chunk written to memory, to a register page, or as packets to where it is remote (R258, R414). -/
def State.cmdStore (s : State) (e : Engine) (k : Cmd) (pa : Nat) (bs : List (Byte × Bool)) : State :=
  let c := k.core
  let d := dieOf c
  match s.remoteOf c pa with
  | none => s.writeWords d (s.cmdAgent e k) k.sh pa bs
  | some (pkg, die) =>
    let p := if (s.wakeOf c pa).isSome && bs.length = 8 && pa % 8 = 0
      then wakePacket k.cls (c % 16) k.own pkg die pa (bs.map (·.1))
      else writePacket k.cls (c % 16) k.own pkg die pa bs
    ((s.cmdMeets e k pa).modCmd e k.id (fun k => { k with flying := k.flying + 1 })).post d { p with rlx := k.shp.rlx } []
      (some (e, k.id)) none

/-- The address of a page that was not present at the walk, looked up again: under the translation that the command holds
(R244), or once the pager has set its entry valid (R114). -/
def State.cmdPage (s : State) (e : Engine) (k : Cmd) (key : Nat) : Option Nat × State :=
  match k.used.find? (tlbHit k.root key) with
  | some h =>
    if h.writable then (some (h.pa + (key - h.va)), if h.dirty then s else s.setAD h.pte true) else (none, s)
  | none =>
    match s.translate (s.cmdAgent e k) (engineTlb e) (dieOf k.core) k.root k.own key true with
    | (.ok pa, s) => (some pa, s.useTlb e k.id k.root key)
    | _ => (none, s)

/-- A command comes to write a chunk: a page found since the walk joins its pages, and the lantern of its die is emitted
(R258). -/
def State.cmdReaches (s : State) (e : Engine) (k : Cmd) (l : List (Nat × Byte × Bool)) : State :=
  let key := (l.headD (0, 0, false)).1
  if keyIsSp key then s
  else match k.target key with
    | some pa => s.cmdMeets e k pa
    | none =>
      match s.cmdPage e k key with
      | (some pa, s) =>
        (s.modCmd e k.id (fun k => { k with pages := k.pages.put (key / 65536) (some (pa / 65536 * 65536)) })).cmdMeets e k pa
      | (none, s) => s

/-- One chunk written; none when it must wait (R115, R140). The bytes of a page not present go to the bounce buffer (R114). -/
def State.cmdWrite (s : State) (e : Engine) (k : Cmd) (l : List (Nat × Byte × Bool)) : Option State :=
  let c := k.core
  let key := (l.headD (0, 0, false)).1
  let bs := l.map (fun b => b.2)
  if keyIsSp key then
    some (s.portWrite c (l.map (fun b => (keyAddr b.1, b.2.1))) ((chunkMarks l).map (fun m => (m.1 - 2 ^ 54, m.2))))
  else match k.target key with
    | some pa => if s.cmdBlocked k false pa then none else some (s.cmdStore e k pa bs)
    | none =>
      -- a stagehand's copy meets a decode fault there (R424)
      if k.sh then some (s.cmdFault e k 0x41 key k.root) else s.cmdBounce e k key bs

/-- The command has written everything: it completes once its packets are acknowledged, 24 cycles later when it
ciphers (R256). -/
def State.cmdFinish (s : State) (e : Engine) (i : Nat) : State :=
  match s.cmdOf e i with
  | none => s
  | some k =>
    if k.phase == .finishing && k.flying == 0 then
      s.at_ (s.cue + (if isDec k.op || isEnc k.op then 24 else 0)) .copyCommandComplete (cmdEv e k)
    else s

/-! ### Reading -/

/-- Everything asked for has been read: what that leads to is read next, or the writes begin. -/
def State.cmdRead (s : State) (e : Engine) (i : Nat) : State :=
  match s.cmdOf e i with
  | none => s
  | some k =>
    if k.phase != .reading || k.stuck || !k.toRead.isEmpty || k.flying != 0 then s
    else
      let more := needLines k.op k.shp k.src (s.ownRun k) k.got
      if !more.isEmpty then
        (s.modCmd e i (fun k => { k with toRead := more })).later .copyRequest (cmdEv e k)
      else
        let m := makeOut k.op k.shp k.src k.key (s.ownRun k) k.got
        let s := s.modCmd e i (fun k => { k with
          toWrite := m.out, causes := m.causes, phase := if m.out.isEmpty then .finishing else .writing })
        if m.out.isEmpty then s.cmdFinish e i else s.later .copyRequest (cmdEv e k)

/-- A line has been read: its bytes, and the poisoned words among them by number within the line. -/
def State.cmdLine (s : State) (e : Engine) (i line : Nat) (bs : List Byte) (bad : List Nat) : State :=
  s.modCmd e i (fun k => { k with
    data := k.data.put line bs
    poison := k.poison ++ bad.map (fun w => line / 4 + w) })

/-- The bytes of a line that a command asks for: first offset and length when they are one run. -/
def State.lineSpan (s : State) (k : Cmd) (line : Nat) : Nat × Nat :=
  let rs := (needRuns k.op k.shp k.src (s.ownRun k) k.got).filter (fun r => r.lines.contains line)
  let lo := rs.foldl (fun a r => min a (max line (byteKey r.sp r.start))) (line + 64)
  let hi := rs.foldl (fun a r => max a (min (line + 64) (byteKey r.sp r.start + r.len))) line
  (lo - line, hi - lo)

/-- A line of memory as the engine reads it: bytes and poisoned words. -/
def State.lineAt (s : State) (pa : Nat) : List Byte × List Nat :=
  (s.pread pa 64, (List.range 16).filter (fun w => s.pmark (pa + 4 * w) 4))

/-- Bytes at an offset of a 64-byte line whose other bytes nobody asks for. -/
def lineOf (o : Nat) (bs : List Byte) : List Byte :=
  (List.replicate o 0xFF ++ bs ++ List.replicate (64 - o - bs.length) 0xFF).take 64

/-- A line of global memory at its physical address: what comes at once, none for a request that has left. Of a register
page the bytes that the command asks for are read (R119). -/
def State.cmdGlobal (s : State) (e : Engine) (k : Cmd) (line pa : Nat) : State :=
  let c := k.core
  let r := s.cmdAgent e k
  let (o, n) := if isRegPage pa then s.lineSpan k line else (0, 64)
  match s.remoteOf c pa with
  | some (pkg, die) =>
    let s := s.modCmd e k.id (fun k => { k with flying := k.flying + 1 })
    s.request (dieOf c) { readRequest k.cls n (pa + o) with
      rlx := k.shp.rlx, srcCore := c % 16, owner := k.own, dstPkg := pkg, dstDie := die } (.cmd e k.id [line])
  | none =>
    match s.place pa with
    | .sram _ =>
      let (bs, bad) := s.lineAt pa
      s.cmdLine e k.id line bs bad
    | .corePriv .. | .coreShared .. | .dieShared .. =>
      let (v, s) := s.regRead r k.sh (pa + o) n
      s.cmdLine e k.id line (lineOf o (toLe n v)) []
    | _ =>
      let (bs, s) := s.poisonLine
      (s.agentRec (dieOf c) 0x53 r pa (reqNum r)).cmdLine e k.id line bs (List.range 16)

/-- The stream TLB fetches the translation of the next page that a command reads (R112): of a valid page alone, whose
`A` is set as by the access to come (DESIGN CHOICE, log 64). -/
def State.nextPage (s : State) (e : Engine) (k : Cmd) (line : Nat) : State :=
  match k.toRead.find? (fun l => !keyIsSp l && l / 65536 != line / 65536) with
  | none => s
  | some l =>
    if ((s.tlb (engineTlb e)).find? (tlbHit k.root l)).isSome then s
    else match s.walk k.root l with
      | .page .. => (s.translate (s.cmdAgent e k) (engineTlb e) (dieOf k.core) k.root k.own l false).2
      | _ => s

/-- The physical address of a line under the translations that a command holds (R244), or by its TLB (R112), whose entry
it then has used. -/
def State.cmdXlate (s : State) (e : Engine) (k : Cmd) (line : Nat) : Xlate × State :=
  match k.used.find? (tlbHit k.root line) with
  | some h => (.ok (h.pa + (line - h.va)), s)
  | none =>
    let (o, s) := s.translate (s.cmdAgent e k) (engineTlb e) (dieOf k.core) k.root k.own line false
    (o, (match o with | .ok _ => s.useTlb e k.id k.root line | _ => s).nextPage e k line)

/-- One line read, or its fault (R114, R254, R393), once it passes nothing that it must not (R140). -/
def State.cmdFetch (s : State) (e : Engine) (k : Cmd) (line : Nat) : State :=
  let c := k.core
  let done := fun (s : State) =>
    let s := s.modCmd e k.id (fun k => { k with toRead := k.toRead.filter (· != line) })
    match s.cmdOf e k.id with
    | some k' => if k'.toRead.isEmpty then s.cmdRead e k.id else s.later .copyRequest (cmdEv e k)
    | none => s
  let global := fun (s : State) (pa : Nat) =>
    let s := s.cmdMeets e k pa
    if s.cmdBlocked k true pa then s.at_ (s.cue + 1) .copyRequest (cmdEv e k) else done (s.cmdGlobal e k line pa)
  if keyIsSp line then
    let a := keyAddr line
    let q := s.core c
    done (s.cmdLine e k.id line (q.sp.readN a 64) ((List.range 16).filter (fun w => q.spMarks.get false (a / 4 + w))))
  else if k.phys then global s line
  else match s.cmdXlate e k line with
    | (.ok pa, s) => global s pa
    | (.notPresent, s) => s.cmdFault e k 0x40 line k.root
    | (.prot, s) => s.cmdFault e k 0x57 line (refusedDetail k 0x43 0)
    | (.world _, s) => s.cmdFault e k 0x57 line (refusedDetail k 0x44 0)
    | (.bad a l, s) =>
      if s.portDown a && !s.ev.flag then s.afterFabtmo c .copyRequest (cmdEv e k)
      else (s.walkRec (dieOf c) (s.cmdAgent e k) a).cmdFault e k 0x57 line (refusedDetail k 0x42 l)
    | (.starved, s) => s.cmdStarved e k line 1

/-! ### Events -/

/-- COPY_TRANSFER_START (R136, R255, R256): command `n` of `engine` may make its accesses; one that waited for a
failed token makes none. -/
def execCopyTransferStart (s : State) : Out :=
  let e := s.ev.engine
  .next (match s.cmdOf e s.ev.n with
  | none => s
  | some k =>
    if k.phase != .reading then s
    else if k.depFailed then
      (s.modCmd e k.id (fun k => { k with causes := [6], phase := .finishing })).at_ s.cue .copyCommandComplete
        (cmdEv e k)
    else s.cmdRead e k.id)

/-- A presence transfer of a core is being served: one that is under way, but for a write-out that waits for accesses in
flight and a pull from another package (R105, R255). -/
def State.xferServed (s : State) (c : Nat) : Bool :=
  (s.core c).xfers.any (fun t => t.started && (if t.out then !s.blockBusy c t.bank t.block
    else match s.imageOf c t.bank t.block with
      | some im => !(im.img && (s.farOpen im.addr).isSome)
      | none => true))

/-- Requests of a core's copy engine that have not come back (R246). -/
def State.outstandingOf (s : State) (c : Nat) : Nat := (s.core c).cmds.foldl (fun n k => n + k.flying) 0

/-- An earlier command of the engine has a request in the same cycle, which goes first (R255). -/
def State.cmdAhead (s : State) (e : Engine) (i : Nat) : Bool :=
  s.agenda.any (fun v => decide (v.1 ≤ s.cue) && v.2.1 == Instr.copyRequest && v.2.2.engine == e && decide (v.2.2.n < i)
    && !v.2.2.granted)

/-- The request of a command that an engine's limits and order let go now (R246, R255); a scratchpad access asks for
its bank (R92). -/
def State.cmdTurn (s : State) (e : Engine) (k : Cmd) (addr : Option Nat) (act : State → State) : State :=
  let again := fun (t : Nat) => s.at_ t .copyRequest { cmdEv e k with flag := s.ev.flag }
  let wait := match e with
    | .copy c => s.xferServed c || decide (1024 ≤ s.outstandingOf c)
    | .pool .. => false
  if s.ev.granted then act s
  else if wait then again (s.cue + 1)
  else if s.cmdAhead e k.id then again s.cue
  else match addr with
    | some a => s.cmdPort e k a
    | none => act s

/-- The scratchpad address of a key. -/
def keySp (key : Nat) : Option Nat := if keyIsSp key then some (keyAddr key) else none

/-- COPY_REQUEST (R92, R104, R114, R132, R251, R255): one 64-byte request of command `n`. -/
def execCopyRequest (s : State) : Out :=
  let e := s.ev.engine
  .next (match s.cmdOf e s.ev.n with
  | none => s
  | some k =>
    if k.stuck then s
    else match k.phase with
      | .reading =>
        match k.toRead with
        | [] => s.cmdRead e k.id
        | line :: _ => s.cmdTurn e k (keySp line) (fun s => s.cmdFetch e k line)
      | .writing =>
        let l := frontChunk k.toWrite
        s.cmdTurn e k (keySp (l.headD (0, 0, false)).1) (fun s =>
          let s := s.cmdReaches e k l
          match s.cmdWrite e ((s.cmdOf e k.id).getD k) l with
          | none => s.at_ (s.cue + 1) .copyRequest (cmdEv e k)
          | some s =>
            let rest := k.toWrite.drop l.length
            let s := s.modCmd e k.id (fun k => { k with
              toWrite := rest, phase := if rest.isEmpty then .finishing else .writing })
            if rest.isEmpty then s.cmdFinish e k.id else s.later .copyRequest (cmdEv e k))
      | _ => s)

/-- COPY_COMMAND_COMPLETE (R135, R256, R257): the token of command `n` completes, with the lowest cause met. -/
def execCopyCommandComplete (s : State) : Out :=
  let e := s.ev.engine
  .next (match s.cmdOf e s.ev.n with
  | none => s
  | some k => if k.phase == .finishing && k.flying == 0 then s.cmdEnd e k (lowCause k.causes) else s)

end Sys2Proof.Machine
end

