-- ==== Sys2Proof/Machine/Packets.lean ====
section
/-!
DEFINITION. Packets where they arrive (R343 to R346, R362), acknowledgements and refusals at their source (R353, R364,
R365), request tags (R346), global accesses within the package (R220, R223), lantern deadlines (R359).
-/
namespace Sys2Proof.Machine

/-! ### Order and acknowledgement at a destination -/

/-- Where a posted packet stands in the `SEQ` order of its pair (R345). -/
inductive Turn
  | now
  | done
  | ahead
deriving DecidableEq, Repr

def State.turnOf (s : State) (p : Packet) : Turn :=
  let e := (s.die p.dstDie).seqIn.get 0 (pairKey p.srcPkg p.srcDie)
  let n := (p.seq + 2 ^ 32 - e % 2 ^ 32) % 2 ^ 32
  if n = 0 then .now else if 2 ^ 31 ≤ n then .done else .ahead

/-- An answer leaves, or is held with the access while a record of it waits outside the die's buffer (R400): `s0` is
the state before the access. -/
def State.answerAfter (s : State) (s0 : State) (d : Nat) (p : Packet) : State :=
  let k := s.die d
  if (s0.die d).fbheld.length < k.fbheld.length && (match k.fbheld.getLast? with | some e => e.1.isNone | none => false) then
    s.setDie d { k with fbheld := k.fbheld.dropLast ++ (k.fbheld.getLast?.map (fun e => (e.1, e.2.1, some p))).toList }
  else s.sendPacket p

/-- A posted packet has been performed: its place in the order is past (R345), its room in the landing queue free. -/
def State.turnPast (s : State) (p : Packet) : State :=
  let key := pairKey p.srcPkg p.srcDie
  s.modDie p.dstDie (fun k => { k with
    seqIn := k.seqIn.put key ((p.seq + 1) % 2 ^ 32)
    landing := k.landing.filter (· != (key, p.seq)) })

/-- A posted packet has been performed, and is acknowledged with the refusal causes of its elements (R343, R362). -/
def State.performed (s : State) (p : Packet) (causes : List Nat) : State :=
  (s.turnPast p).sendPacket (ackOf p causes)

/-- The lantern that a returned packet holds: the one it left, or if that has entries again the lowest free one (R354,
R361, log 58). -/
def State.heldBy (s : State) (p : Packet) : Option Nat :=
  let own := ((s.die p.srcDie).posted.find? (fun e =>
    e.pkt.dstPkg == p.dstPkg && e.pkt.dstDie == p.dstDie && e.pkt.seq == p.seq)).bind (·.lantern)
  (own.toList ++ List.range 64).find? (fun i => ((s.die p.srcDie).lantern i).state == 0)

/-- A packet refused busy is back at its source, which sends it again after its back-off (R344). A lantern packet holds a
lantern meanwhile (R354). -/
def State.returned (s : State) (p : Packet) : State :=
  let wait := min 4096 (64 * 2 ^ (min 8 (p.busy / 2 - 1)))
  let s := match s.heldBy p with
    | some i =>
      if p.type = 2 then
        s.setLantern p.srcDie i { state := 2, pkg := p.dstPkg, die := p.dstDie, cls := p.cls, opened := p.seq }
      else s
    | none => s
  s.at_ (s.cue + wait) .packetResend { pkt := some p, n := max 1 (p.busy / 2) }

/-- A busy refusal (R344): the first of two circulates the ring, the second returns to the source, by a link to one of
another package. -/
def State.busy (s : State) (p : Packet) : State :=
  let p := { p with busy := p.busy + 1 }
  if p.busy % 2 = 1 then s.later (packetEvent p) { pkt := some p, flag := true }
  else if p.srcPkg != s.pkgNum then s.stationSend (p.dstDie / 2 * 2) p
  else s.returned p

/-- The landing queue of a die has no room for another packet (R344). An empty one has. -/
def State.noRoom (s : State) (d : Nat) : Bool := !(s.die d).landing.isEmpty && Config.landingFull s.freeIx

/-- A packet whose die has no room is refused busy (R344); another goes on. -/
def State.withRoom (s : State) (p : Packet) (f : State → State) : State :=
  if s.noRoom p.dstDie then ({ s with freeIx := s.freeIx + 1 } : State).busy p
  else f { s with freeIx := s.freeIx + b2n (!(s.die p.dstDie).landing.isEmpty) }

/-- A posted packet's event: `act` performs it when its turn in the order of its pair has come (R345). -/
def State.posted (s : State) (act : Packet → State → State) : State :=
  s.onPacket (fun p s =>
    let s := s.hear p.dstDie p.srcPkg
    match s.turnOf p with
    | .done => s.sendPacket (ackOf p [])
    | .ahead => s.busy p
    | .now => s.withRoom p (act p))

/-! ### Elements at a core's port (R98, R362) -/

/-- An element of a landing packet: core, operation, address, data. -/
abbrev LandEl := Nat × Nat × Nat × Word

/-- The elements of a lantern packet's payload (R355). -/
def lanternElems (p : Packet) : List LandEl :=
  (chunksOf 8 p.aux p.payload).map (fun b =>
    let v := ofLe b
    (16 * p.dstDie + bits v 56 53, bits v 63 57, 4 * bits v 52 32, BitVec.ofNat 32 v))

/-- The words of a full-store piece, none for one that is not written. -/
def fullElems (p : Packet) : List (Option LandEl) :=
  (List.range 32).map (fun w =>
    if bitAt p.aux w then
      some (16 * p.dstDie + p.dstCore, 0x0F, p.addr + 4 * w, BitVec.ofNat 32 (ofLe ((p.payload.drop (4 * w)).take 4)))
    else none)

/-- What a landing packet brings, element by element. -/
def landElems (p : Packet) : List (Option LandEl) :=
  if p.type = 2 then (lanternElems p).map some else fullElems p

/-- An operation code of R356. -/
def eopOk (eop : Nat) : Bool := 1 ≤ eop && eop ≤ 0x19

/-- Why an element is refused, 0 for not at all. -/
def State.entryRefusal (s : State) (own : Nat) (e : LandEl) : Nat :=
  if eopOk e.2.1 then s.refusalOf e.1 own e.2.2.1 else 3

/-- The elements of a landing packet are taken in order (R362): refused ones are passed over, the next one asks for
its bank (R98); after the last the packet has been performed. -/
def State.land (s : State) (p : Packet) (causes : List Nat) : List (Option LandEl) → State
  | [] => s.performed p causes
  | none :: es => s.land p (causes ++ [0]) es
  | some e :: es =>
    let cause := s.entryRefusal p.owner e
    if cause = 0 then s.portAsk e.1 e.2.2.1 0 false (packetEvent p) { pkt := some p, causes := causes, flag := true }
    else s.land p (causes ++ [cause]) es

/-- An element at its bank (R98, R362): a store, the read of an operation, whose write follows in the next asynchronous
cycle of the bank, or that write (`n` 1, with its word in `value`). A poisoned old value keeps its word unwritten
(log 30). -/
def State.landOne (s : State) (p : Packet) (e : LandEl) : State :=
  let (c, eop, a, v) := e
  let causes := s.ev.causes
  let next := fun (s : State) => s.land p (causes ++ [0]) ((landElems p).drop (causes.length + 1))
  let k := s.core c
  let old : Word := BitVec.ofNat 32 (ofLe (k.sp.readN a 4))
  let put := fun (w : Word) => next (s.portWrite c (cellsOf a (toLe 4 w.toNat)) [(a / 4, false)])
  if s.ev.n = 1 then put (s.ev.value.setWidth 32)
  else
    let cause := s.entryRefusal p.owner e
    if cause != 0 then s.land p (causes ++ [cause]) ((landElems p).drop (causes.length + 1))
    else if eop < 0x10 then put (mergeBytes old v eop)
    else if k.spMarks.get false (a / 4) then next s
    else s.portAsk c a 0 true (packetEvent p)
      { pkt := some p, causes := causes, flag := true, n := 1, value := (eopResult eop old v).setWidth 64 }

/-- A landing packet: at its arrival its elements are taken from the first, and at each grant of a bank the element that
asked for it is performed. -/
def State.landing (s : State) : State :=
  match s.ev.pkt with
  | none => s
  | some p =>
    if s.ev.granted then
      match (landElems p)[s.ev.causes.length]? with
      | some (some e) => s.landOne p e
      | _ => s
    else s.posted (fun p s =>
      (s.modDie p.dstDie (fun k => { k with landing := k.landing ++ [(pairKey p.srcPkg p.srcDie, p.seq)] })).land p []
        (landElems p))

/-- LANTERN_PACKET (R345, R356, R362). -/
def execLanternPacket (s : State) : Out := .next s.landing

/-- FULL_STORE_PACKET (R302, R362): its refusal bits stand by word. -/
def execFullStorePacket (s : State) : Out := .next s.landing

/-! ### Global writes and wakes -/

/-- The requester that a packet's header names: a stagehand by its owner code (R118, R342). The header carries no kind: any
other owner counts as kind 0, an engine's packet too (DESIGN CHOICE, log 79). -/
def requesterOf (p : Packet) : Requester :=
  { kind := if p.owner = 5 then 3 else 0, pkg := p.srcPkg, die := p.srcDie, core := p.srcCore, far := true }

/-- The written bytes of a global write, with their poison (R343, log 48), and their address. -/
def globalBytes (p : Packet) : Nat × List (Byte × Bool) :=
  let lead := bits p.aux 2 0
  let trail := bits p.aux 5 3
  let all := ((List.range p.payload.length).zip p.payload).map (fun (i, b) => (b, bitAt p.marks (i / 4)))
  (p.addr + lead, (all.take (p.payload.length - trail)).drop lead)

/-- An access at a pool address is made under the entry of the routing table under which it left (R442). -/
def State.underRoute {α : Type} (s : State) (p : Packet) (f : State → α × State) : α × State :=
  s.underEntry p.addr p.route f

/-- GLOBAL_WRITE_PACKET (R110, R343, R345): the bytes are written at their physical address. At a port that is down the
packet is lost, and its source waits out `FABTMO` (R346, R441). -/
def execGlobalWritePacket (s : State) : Out :=
  .next (s.posted (fun p s0 =>
    let (pa, bs) := globalBytes p
    (s0.underRoute p (fun s =>
      if s.portDown pa then ((), s.turnPast p)
      else ((), (((s.writeWords p.dstDie (requesterOf p) (s.trusts (requesterOf p)) pa bs).turnPast p).answerAfter s p.dstDie (ackOf p [])))) ).2))

/-- WAKE_PACKET (R343, R414): the value reaches the wake register. -/
def execWakePacket (s : State) : Out :=
  .next (s.posted (fun p s =>
    (match s.place p.addr with
    | .dieShared d off =>
      if 0x8000 ≤ off && off < 0x8200 then
        s.at_ s.cue .wakeRegister
          { die := d, n := (off - 0x8000) / 8, width := 8, value := BitVec.ofNat 64 (ofLe p.payload) }
      else s
    | _ => s).performed p []))

/-- UNKNOWN_PACKET_DISCARD (R343). -/
def execUnknownPacketDiscard (s : State) : Out :=
  .next (s.onPacket (fun p s =>
    (s.hear p.dstDie p.srcPkg).dieRec p.dstDie 0x56 (reqWord s.pkgNum p.dstDie 0 4) p.addr p.type))

/-! ### Requests at their target (R343, R346) -/

/-- A read at its target: the bytes and the poison of their words. -/
def State.readFor (s : State) (d : Nat) (r : Requester) (ok : Bool) (pa n : Nat) : (List Byte × Nat) × State :=
  match s.place pa with
  | .sram _ | .host | .pool _ =>
    ((s.pread pa n, packElems 1 ((wordsOf pa n).map (fun w => b2n (s.pmark (4 * w) 4)))), s)
  | .corePriv .. | .coreShared .. | .dieShared .. =>
    let (v, s) := s.regRead r ok pa n
    ((toLe n v, 0), s)
  | _ =>
    let (bs, s) := s.poisonLine
    ((bs.take n, 2 ^ 16 - 1), s.agentRec d 0x53 r pa (reqNum r))

/-- A request at its die (R344): `act` answers it, but at a port that is down, where it is lost (R441). -/
def State.asked (s : State) (act : Packet → State → Packet × State) : State :=
  s.onPacket (fun p s =>
    let s := s.hear p.dstDie p.srcPkg
    s.withRoom p (fun s =>
      (s.underRoute p (fun t =>
        if t.portDown p.addr then ((), t)
        else
          let (q, u) := act p t
          ((), u.answerAfter t p.dstDie q))).2))

/-- READ_REQUEST_PACKET (R110, R396): the reply carries the data, and its poison by word (log 48). -/
def execReadRequestPacket (s : State) : Out :=
  .next (s.asked (fun p s =>
    let n := p.aux
    let pad := List.replicate ((8 - n % 8) % 8) (0 : Byte)
    let ((bs, mask), s) := s.readFor p.dstDie (requesterOf p) (s.trusts (requesterOf p)) p.addr n
    let s := s.watchAt p (ofLe (bs.take 4)) (mask != 0)
    ({ answer p 5 with addr := p.addr, marks := mask, payload := bs ++ pad }, s)))

/-- ATOMIC_REQUEST_PACKET (R223, R343): the first operand and then the second, 4 bytes each; the old value in 8 bytes
(DESIGN CHOICE, log 48). -/
def execAtomicRequestPacket (s : State) : Out :=
  .next (s.asked (fun p s =>
    let v : Word := BitVec.ofNat 32 (ofLe (p.payload.take 4))
    let w : Word := BitVec.ofNat 32 (ofLe ((p.payload.drop 4).take 4))
    let ((old, mark), s) := s.agentAtomic p.dstDie (requesterOf p) p.addr p.aux v w
    ({ answer p 7 with addr := p.addr, marks := b2n mark, payload := toLe 8 old }, s)))

/-! ### Replies at their source (R346) -/

/-- A tag is free: the requests that wait take it in their order. -/
def State.freeTag (s : State) (d t : Nat) : State :=
  let s := s.modDie d (fun k => { k with tagUse := k.tagUse.del t, tagDue := k.tagDue.del t })
  if (s.die d).tagWait.isEmpty then s else s.at_ s.cue .tagGrant { die := d }

/-- TAG_GRANT (R346): waiting requests leave while tags are free. -/
def execTagGrant (s : State) : Out :=
  let d := s.ev.die
  .next (match (s.die d).tagWait with
  | [] => s
  | (p, u) :: rest =>
    if (s.die d).freeTag.isNone then s
    else
      let s := (s.modDie d (fun k => { k with tagWait := rest })).takeTag d p u
      if rest.isEmpty then s else s.at_ s.cue .tagGrant { die := d })

/-- What a reply brings to its user: bytes from an offset of the line asked for, and poisoned words. -/
def State.reply (s : State) (u : TagUser) (o : Nat) (bs : List Byte) (mask : Nat) : State :=
  match u with
  | .acc _ id =>
    let n := match s.accs.find? (fun a => a.id == id) with
      | some a => (match a.op with | .load _ n => n | _ => 4)
      | none => 4
    (s.accDone id (ofLe (bs.take n)) (mask != 0)).barrierPump
  | .cmd e id lines =>
    let s := lines.foldl (fun s line => s.cmdLine e id line (lineOf o bs) ((List.range 16).filter (fun w => bitAt mask w))) s
    (s.modCmd e id (fun k => { k with flying := k.flying - 1 })).cmdRead e id

/-- A reply at its source die: dropped and counted when its age is not its tag's. -/
def State.takeReply (s : State) : State :=
  s.onPacket (fun p s =>
    let d := p.dstDie
    let s := s.hear d p.srcPkg
    let k := s.die d
    let late := s.setDie d { k with latereply := k.latereply + 1 }
    match k.tagUse.find? (fun e => e.1 == p.tag) with
    | some (t, u) => if k.tagAge.get 0 t == p.age then (s.freeTag d t).reply u (p.addr % 64) p.payload p.marks else late
    | none => late)

/-- READ_REPLY_PACKET (R135, R201, R346). -/
def execReadReplyPacket (s : State) : Out := .next s.takeReply

/-- ATOMIC_REPLY_PACKET (R223, R346). -/
def execAtomicReplyPacket (s : State) : Out := .next s.takeReply

/-- REQUEST_TIMEOUT (R346): the tag of a request without a reply is retired with its age, and the user receives
poison. Whether an atomic was performed at its target is not fixed. -/
def execRequestTimeout (s : State) : Out :=
  let d := s.ev.die
  let t := s.ev.n
  let k := s.die d
  .next (match k.tagUse.find? (fun e => e.1 == t) with
  | some (_, u) =>
    if k.tagAge.get 0 t == s.ev.m && (s.ev.flag || decide (k.tagDue.get 0 t ≤ s.cue)) then
      let s := s.modDie d (fun k => { k with tagAge := k.tagAge.put t ((k.tagAge.get 0 t + 1) % 8) })
      let s := s.unstall (fun p => (p.type == 4 || p.type == 6) && p.srcPkg == s.pkgNum && p.srcDie == d && p.tag == t
        && p.age == s.ev.m)
      let (bs, s) := s.poisonLine
      (s.freeTag d t).reply u 0 bs (2 ^ 16 - 1)
    else s
  | none => s)

/-! ### Acknowledgements at the source -/

/-- Target core and address of element `i` of a posted packet. -/
def elementAt (p : Packet) (i : Nat) : Nat × Nat :=
  if p.type = 2 then
    match (lanternElems p)[i]? with
    | some (c, _, a, _) => (c % 16, a)
    | none => (0, 0)
  else if p.type = 1 then (p.dstCore, p.addr + 4 * i)
  else (0, p.addr % 2 ^ 23)

/-- Core and bank whose write element `i` was: those of the entry, of the access, or of the command. -/
def State.storedBy (s : State) (e : Posted) (i : Nat) : Option (Nat × Nat) :=
  match e.users[i]? with
  | some (c, b, _) => some (c, b)
  | none =>
    match e.acc, e.cmd with
    | some id, _ => (s.accs.find? (fun a => a.id == id && !a.sh)).map (fun a => (a.core, a.bank))
    | _, some (g, id) => (s.cmdOf g id).bind (fun k => if k.sh then none else some (k.core, k.bank))
    | _, _ => none

/-- The log entries of a refused packet: one for each cause (R364). A refusal that comes back when the bank of its context is
empty, its control block written out or the context gone, is dropped (DESIGN CHOICE, log 55). -/
def State.logCauses (s : State) (e : Posted) (causes : List Nat) : State :=
  (ascending (causes.filter (· != 0))).foldl (fun s cause =>
    let which := (List.range causes.length).filter (fun i => causes.getD i 0 == cause)
    let low := which.headD 0
    match s.storedBy e low with
    | none => s
    | some (c, b) =>
      match s.ctx c b with
      | none => s
      | some _ =>
        let (core, a) := elementAt e.pkt low
        s.logRefusal ⟨c, b, e.pkt.cls, cause, e.pkt.dstPkg, e.pkt.dstDie, core, a,
          which.foldl (fun m i => m + 2 ^ i) 0⟩) s

/-- A posted packet is acknowledged: its refusals are logged, and what waited for it goes on (R128, R353, R366). -/
def State.acknowledged (s : State) (d : Nat) (e : Posted) (causes : List Nat) : State :=
  let s := s.logCauses e causes
  let s := s.modDie d (fun k => { k with posted := k.posted.filter (fun p => p.id != e.id) })
  let s := match e.cmd with
    | some (g, id) => (s.modCmd g id (fun k => { k with flying := k.flying - 1 })).cmdFinish g id
    | none => s
  let s := match e.acc with
    | some id => s.accDone id 0 false
    | none => s
  ((upFrom (16 * d) 16).foldl State.pump s).barrierPump

/-- A posted packet has timed out: it waits no more, and counts as acknowledged (R340, R343, R346). -/
def State.timedOut (s : State) (d : Nat) (e : Posted) (causes : List Nat) : State :=
  (s.unstall (fun p => isPosted p && p.srcPkg == s.pkgNum && p.srcDie == d && p.dstPkg == e.pkt.dstPkg
    && p.dstDie == e.pkt.dstDie && p.seq == e.pkt.seq)).acknowledged d e causes

/-- A wake has not been acknowledged: recorded, and not sent again (R343). -/
def State.wakeLost (s : State) (d : Nat) (e : Posted) : State :=
  (s.dieRec d 0x56 (reqWord s.pkgNum d 0 4) e.pkt.addr 0x0B).timedOut d e []

/-- ACKNOWLEDGEMENT_PACKET (R343, R353, R362, R364). The acknowledgement of a wake refuses nothing, but where no table
had a route for it (log 73). -/
def execAcknowledgementPacket (s : State) : Out :=
  .next (s.onPacket (fun p s =>
    let d := p.dstDie
    let s := s.hear d p.srcPkg
    match (s.die d).posted.find? (fun e =>
        e.pkt.dstPkg == p.srcPkg && e.pkt.dstDie == p.srcDie && e.pkt.seq == p.ack) with
    | none => s
    | some e =>
      if e.pkt.type == 11 && p.causes.any (· != 0) then s.wakeLost d e else s.acknowledged d e p.causes))

/-- POSTED_PACKET_TIMEOUT (R346, R365): the packet counts as acknowledged with every element refused for cause 4. -/
def execPostedPacketTimeout (s : State) : Out :=
  let d := s.ev.die
  .next (match (s.die d).posted.find? (fun e => e.id == s.ev.n) with
  | none => s
  | some e => s.timedOut d e (wholeRefusal e.pkt))

/-- WAKE_ACK_TIMEOUT (R343): recorded, and not sent again. -/
def execWakeAckTimeout (s : State) : Out :=
  let d := s.ev.die
  .next (match (s.die d).posted.find? (fun e => e.id == s.ev.n) with
  | none => s
  | some e => s.wakeLost d e)

/-- A packet of this package is still to be sent: no timeout has ended it (R343, R346). -/
def State.wanted (s : State) (p : Packet) : Bool :=
  let k := s.die p.srcDie
  if isPosted p then k.posted.any (fun e => e.pkt.dstPkg == p.dstPkg && e.pkt.dstDie == p.dstDie && e.pkt.seq == p.seq)
  else if p.type = 4 || p.type = 6 then k.tagUse.any (fun e => e.1 == p.tag) && k.tagAge.get 0 p.tag == p.age
  else true

/-- PACKET_RESEND (R344, R345, R361): a returned packet is sent again once its back-off has passed, and its lantern is
free. With `n` 0 it has just come back. -/
def execPacketResend (s : State) : Out :=
  .next (match s.ev.pkt with
  | none => s
  | some p =>
    if s.ev.n = 0 && (isPosted p || p.type = 4 || p.type = 6) && p.busy != 0 && p.srcPkg == s.pkgNum then s.returned p
    else
      let d := p.srcDie
      let s := match (List.range 64).find? (fun i =>
          let l := (s.die d).lantern i
          p.type == 2 && l.state == 2 && l.pkg == p.dstPkg && l.die == p.dstDie && l.opened == p.seq) with
        | some i => s.setLantern d i {}
        | none => s
      if s.wanted p then s.sendPacket p else s)

/-- The remote writes of a die's cores that are due enter their lanterns: they count in the cycle before (R357). -/
def State.enterDue (s : State) (d : Nat) : State :=
  (upFrom (16 * d) 16).foldl (fun s c =>
    ([0, 1] : List Nat).foldl (fun s b =>
      let now := (s.dueList c b false).filter (fun p => isRemote p.w)
      (s.modRegsOf c b false (fun r => { r with pend := r.pend.filter (fun p => !now.contains p) })).applyList c b false
        now now false) s) s

/-- LANTERN_BURN_DEADLINE (R358, R359): lantern `n` of the die is emitted when its deadline has come. -/
def execLanternBurnDeadline (s : State) : Out :=
  let d := s.ev.die
  let n := s.ev.n
  let u := s.enterDue d
  let l := (u.die d).lantern n
  .next (if l.state == 1 && decide (l.deadline ≤ s.cue) then (u.emit d n).barrierPump else u)

/-! ### Global accesses within the package -/

/-- An access performed at its physical address (R110, R118, R220, R223). -/
def State.accPerform (s : State) (a : Acc) : State :=
  let d := dieOf a.core
  let r := s.agent a.core a.bank (if a.sh then 3 else 0)
  let read := fun (n : Nat) =>
    let ((v, mark), s) := s.agentRead d r a.sh a.pa n
    (s.accDone a.id v mark).barrierPump
  match a.op with
  | .load _ n => read n
  | .watch _ => read 4
  | .store n data mark => ((s.agentWrite d r a.sh a.pa (toLe n data) mark).accDone a.id 0 false).barrierPump
  | .atomic _ op v w =>
    let ((old, mark), s) := s.agentAtomic d r a.pa op v w
    (s.accDone a.id old mark).barrierPump

/-- A store whose page is not present goes to the bounce buffer, and waits while that is full (R114, R115, R449); once
the pager has set the entry valid, it is sent to the page. -/
def State.accBounce (s : State) (a : Acc) : State :=
  let own := if a.sh then 5 else ((s.ctx a.core a.bank).getD {}).own
  match a.op with
  | .store n data mark =>
    let r := s.agent a.core a.bank (if a.sh then 3 else 0)
    match s.translate r (.scalar a.core) (dieOf a.core) a.root own a.va true with
    | (.ok pa, s) =>
      let b : Acc := { a with pa := pa, bounce := false, sent := false }
      ({ s with accs := s.accs.map (fun (e : Acc) => if e.id == a.id then b else e) } : State).pump a.core
    | _ =>
      match s.bounce r (dieOf a.core) a.va a.root ((toLe n data).map (fun b => (b, mark))) with
      | some s => (s.accDone a.id 0 false).barrierPump
      | none => s.at_ (s.cue + 1) .globalAccessComplete s.ev
  | _ => (s.accDone a.id 0 false).barrierPump

/-- GLOBAL_ACCESS_COMPLETE (R135, R201, R220, R223): access `n` performs within the package. -/
def execGlobalAccessComplete (s : State) : Out :=
  .next (match s.accs.find? (fun a => a.id == s.ev.n) with
  | none => s
  | some a => if a.bounce then s.accBounce a else s.accPerform a)

end Sys2Proof.Machine
end

