-- ==== Sys2Proof/Machine/Service.lean ====
section
/-!
DEFINITION. Presence transfers at their ends (R103, R105, R108), parks and exchanges at their points (R385, R387), waits
(R146 to R149), handlers (R378), RESUME (R399), fault records (R400, R402), errors and self-tests (R403 to R406), TAGSET
with zeros (R391), control registers as they take their values (R238 to R241, R386, R417).
-/
namespace Sys2Proof.Machine

/-! ### Presence transfers -/

/-- A pull of the control block of a context being started (R389). -/
def State.startPull (s : State) (c b : Nat) (ok : Bool) : State :=
  match (s.core c).starts.find? (fun t => t.bank == b) with
  | none => s.xferDone c b 0 false
  | some st =>
    let im := s.descImage ((s.ctx c b).getD {}).ctxdesc.toNat 0
    let s := s.modCore c (fun k => { k with xfers := k.xfers.filter (fun t => !(t.bank == b && t.block == 0)) })
    if st.unread then
      let desc := ((s.ctx c b).getD {}).ctxdesc.toNat
      (s.ctxRec c b false 0x4A 3 desc 0).startFails c b st.tok st.tokId 11
    else match (if ok then (s.underEntry im.addr (s.core c).xferRoute (fun s => (s.pullBytes c 0 im s.ev.bytes, s))).1 else none) with
    | none => ((s.xferRec c b im.addr (im.span 0)).ctxRec c b false 0x47 1 im.addr 0).startFails c b st.tok st.tokId 13
    | some bs => (s.startPulled c st bs).xferDone c b 0 false

/-- A port through which the image of a block is reached is down (R441). -/
def State.imageDown (s : State) (n : Nat) (im : Image) : Bool :=
  im.img && (upFrom 0 ((im.span n + 63) / 64)).any (fun i => s.portDown (im.addr + 64 * i))

/-- A port through which the image of a transfer, or the descriptor that would give it, is reached is down (R441). -/
def State.xferDown (s : State) (c b n : Nat) : Option Image → Bool
  | some im => (s.underEntry im.addr (s.core c).xferRoute (fun s => (s.imageDown n im, s))).1
  | none => s.descDown c b

/-- A transfer's accesses are made: of a scratchpad block once the banks of the block serve them (R92, R98), behind a
port that is down never (R346, R441). -/
def State.xferGo (s : State) (c b n : Nat) (im : Option Image) (e : Instr) (act : State → State) : State :=
  if s.ev.flag && s.xferDown c b n im then s.afterFabtmo c e { s.ev with flag := false }
  else if s.ev.flag && im.any (·.img) && decide (28 ≤ n) && !s.ev.granted then s.xferAsk c n e s.ev
  else act s

/-- BLOCK_PULL_END (R92, R98, R103, R105, R108, R389, R441, R442): block `n` of `bank` is lit, or dark again with a kindle
fault. -/
def execBlockPullEnd (s : State) : Out :=
  let c := s.ev.core
  let b := s.ev.bank
  let n := s.ev.n
  .next (
    if !(s.core c).xfers.any (fun t => t.bank == b && t.block == n && !t.out && t.started) then s
    else
      let s := { s with agenda := s.agenda.filter (fun (e : Nat × Instr × EvArg) =>
        !(e.2.1 == Instr.blockPullEnd && e.2.2.core == c && e.2.2.bank == b && e.2.2.n == n)) }
      if n = 0 then
        let im := s.descImage ((s.ctx c b).getD {}).ctxdesc.toNat 0
        s.xferGo c b 0 (some im) .blockPullEnd (fun s => s.startPull c b s.ev.flag)
      else
        let im := (s.imageOf c b n).getD ⟨((s.ctx c b).getD {}).ctxdesc.toNat, true, false, 0, 0xFF⟩
        let got := if s.ev.flag && (s.imageOf c b n).isSome then
          (s.underEntry im.addr (s.core c).xferRoute (fun s => (s.pullBytes c n im s.ev.bytes, s))).1 else none
        s.xferGo c b n (s.imageOf c b n) .blockPullEnd (fun s =>
          match got with
          | none =>
            let s := if n < 28 then s.descRec c b else s
            let s := if im.img then s.xferRec c b im.addr (im.span n) else s
            ((s.setPresence c b n .dark).kindleFault c b n im.addr).xferDone c b n false |>.settle c
          | some bs =>
            let douse := s.presence c b n == .kindling true
            let s := (((if im.img then s.putBlock c b n bs else s.zeroBlock c b n)).setPresence c b n .lit).xferDone c b n false
            if douse then s.douse c b n else s))

/-- BLOCK_WRITE_OUT_END (R92, R98, R103, R108, R387, R441, R442): block `n` of `bank` is dark, its image written, or lit
again with a record of cause 0x48. -/
def execBlockWriteOutEnd (s : State) : Out :=
  let c := s.ev.core
  let b := s.ev.bank
  let n := s.ev.n
  .next (
    if !(s.core c).xfers.any (fun t => t.bank == b && t.block == n && t.out && t.started) then s
    else if s.ev.m = 1 || s.blockBusy c b n then
      (s.modCore c (fun k => { k with xfers := k.xfers.map (fun (t : Xfer) =>
        if t.bank == b && t.block == n && t.out then { t with started := false } else t) })).startXfers c
    else
      let x := (s.ctx c b).getD {}
      let parking := x.life == .parking
      let found := s.ctxImage x n
      let im := found.getD ⟨x.ctxdesc.toNat, true, false, 0, 0xFF⟩
      let ok := s.ev.flag && found.isSome
      s.xferGo c b n found .blockWriteOutEnd (fun s =>
        let (bs, marked) := s.blockBytes c b n
        let out := if !ok then none else if im.img then
            let r := s.underEntry im.addr (s.core c).xferRoute (fun s =>
              match s.writeImage c b n im bs marked with
              | some u => (true, u)
              | none => (false, s))
            if r.1 then some r.2 else none
          else some s
        let s := match out with
          | some s =>
            let s := s.setPresence c b n .dark
            if 28 ≤ n then s.modCore c (fun k => { k with spImg := k.spImg.put (n - 28) im }) else s
          | none =>
            let s := if found.isSome then s.xferRec c b im.addr (im.span n) else s.descRec c b
            let s := (s.setPresence c b n .lit).ctxRec c b parking 0x48 1 im.addr n
            if parking then s.modCore c (fun k => { k with
              parks := k.parks.map (fun (q : Park) => if q.bank == b && q.phase == 1 then { q with failed := true } else q) })
            else s
        (s.xferDone c b n true).parkPump c))

/-- TAGSET_CLEAR_COMPLETE (R98, R106, R391): the first block of TAGSET `n` that is not zeroed yet asks for its bank, a
block as one request (log 62); once that serves it, the block is zeroed and takes its tag. -/
def execTagsetClearComplete (s : State) : Out :=
  let c := s.ev.core
  .next (match (s.core c).tagWaits.find? (fun w => w.clr && w.tokId == s.ev.n) with
  | none => s
  | some w =>
    match w.blocks with
    | [] => (s.modCore c (fun k => { k with tagWaits := k.tagWaits.filter (· != w) })).shDone c w.tok w.tokId 0
    | n :: rest =>
      if !s.ev.granted then s.portAsk c (65536 * n) portZero false .tagsetClearComplete s.ev
      else
        let s := s.modCore c (fun k =>
          let k := k.touchWrite n
          { k with
            sp := k.sp.filter (fun e => spBlock e.1 != n)
            spMarks := k.spMarks.filter (fun e => spBlock (4 * e.1) != n)
            otag := k.otag.put n w.tag
            tagWaits := k.tagWaits.map (fun e => if e == w then { w with blocks := rest } else e) })
        let s := ((s.startXfers c).tagPump c).blockTokens c
        let again : EvArg := { core := c, n := w.tokId }
        if rest.isEmpty then s.at_ s.cue .tagsetClearComplete again else s.later .tagsetClearComplete again)

/-! ### Parks and exchanges -/

/-- A park of a bank has its point in this cycle (R387, R407). -/
def State.parkDue (s : State) (c : Nat) (p : Park) (x : Ctx) : Bool :=
  (s.core c).parkNow p || (!x.hnd && x.entry.isNone && x.rpCue == x.lcue s.cue)

/-- PARK_POINT (R77, R387, R395, R407): a park of `bank` reaches its point. -/
def execParkPoint (s : State) : Out :=
  let c := s.ev.core
  let b := s.ev.bank
  .next ((s.core c).parks.foldl (fun s p =>
    if p.bank != b || p.phase != 0 then s
    else match s.ctx c b with
      | none => (s.modCore c (fun k => { k with parks := k.parks.filter (· != p) })).shDone c p.tok p.tokId 10
      | some x =>
        match x.entry with
        | some (t, _) => if t ≤ s.cue then s else s.at_ t .parkPoint { core := c, bank := b }
        | none =>
          if x.life == .parking && (s.core c).parks.any (fun q => q.bank == b && q.phase != 0) then s
          else if s.parkDue c p x then s.parkAt c p else s) s)

/-- CONTROL_BLOCK_WRITE_OUT (R387, R441, R451): the control block of `bank` is written out and the bank is empty, or the
park fails, through a port that is down once that has timed out. Without an image its write-out is skipped (R108). -/
def execControlBlockWriteOut (s : State) : Out :=
  let c := s.ev.core
  let b := s.ev.bank
  let u := ((s.keepRefusals c b).keepRecs c b).descTouch c b
  .next (match (s.core c).parks.find? (fun p => p.bank == b && p.phase == 2), u.ctx c b with
  | some p, some x =>
    let s := u
    let found := s.ctxImage x 0
    let im := found.getD ⟨x.ctxdesc.toNat, true, false, 0, 0xFF⟩
    if s.ev.flag && (match found with | some im => s.imageDown 0 im | none => s.descDown c b) then
      s.afterFabtmo c .controlBlockWriteOut { s.ev with flag := false }
    else
    let (i, s) := s.fresh
    let rest := fun (s : State) => s.modCore c (fun k => { k with parks := k.parks.filter (· != p) })
    let out := if found.isNone then none else if im.img then s.writeImage c b 0 im (ctlImage x.script.level (x.lcue s.cue) i) [] else some s
    match out with
    | none =>
      let s := (if found.isSome then (rest s).xferRec c b im.addr (im.span 0) else (rest s).descRec c b).ctxRec c b true 0x48 1 im.addr 0
      ((s.modCtx c b (fun x => { x with life := .live, held := some ⟨0x48, .restart⟩ })).giveRecs c b).shDone c p.tok p.tokId 13
    | some s =>
      let kept : Ctx := { x with
        held := none, frozen := none, booked := []
        regs := { x.regs with latch := none, staging := none } }
      let s := rest (if im.img then { s with ctlImages := s.ctlImages.put i kept } else s)
      let s := ((s.rebank c b deadBank).modCore c (·.setBank b none)).modCore c (fun k => { k with
        wlive := if x.own < 4 then k.wlive &&& ~~~ BitVec.ofNat 4 (2 ^ x.own) else k.wlive })
      let others := (s.core c).parks.filter (fun q => q.bank == deadBank)
      let s := s.modCore c (fun k => { k with parks := k.parks.filter (fun q => q.bank != deadBank) })
      let s := others.foldl (fun s q => s.shDone c q.tok q.tokId 10) s
      ((s.shDone c p.tok p.tokId 0).settle c).tryExchange c
  | _, _ => s)

/-- BANK_EXCHANGE (R384, R385, R405): 16 cycles after its start the banks have exchanged roles. -/
def execBankExchange (s : State) : Out :=
  let c := s.ev.core
  .next (
    if !timeCome s.cue (s.core c).exchange then s
    else
      let b := 1 - s.stageOf c
      let s := s.modCore c (fun k => { k with exchange := none, stage := b })
      let s := s.modCtx c b (fun x => match x.waitv with
        | some w => if w.woken then { x with waitv := none } else x
        | none => x)
      let done := (s.core c).parks.filter (fun p => p.phase == 3)
      let s := s.modCore c (fun k => { k with parks := k.parks.filter (fun p => p.phase != 3) })
      let s := done.foldl (fun s p => s.shDone c p.tok p.tokId 0) s
      (((s.spare c).releaseToks c).settle c).tryExchange c)

/-- HANDLER_START (R378, R379): the end of trap entry. -/
def execHandlerStart (s : State) : Out := .next ((s.entryEnd s.ev.core s.ev.bank).settle s.ev.core)

/-! ### Waits -/

/-- What WAITV asks for; an exposed one is an illegal encoding whatever its guard (R163, R236; log 59). -/
def waitvForm (d : BitVec 5) (xa : BitVec 3) (cls : BitVec 4) (s : State) : Form :=
  { s.sgForm (s.x xa.toNat).toNat 4 true false with
    illegal := !s.interlocked || s.badClass cls
    reads := [codeX xa.toNat, codeG d.toNat]
    consumed := [codeX xa.toNat, codeG d.toNat], addrRegs := [codeX xa.toNat] }

/-- The read of WAITV joins the memory path (R146), and the context, or the stagehand, waits for it. -/
def State.watch (s : State) (va : Nat) (o : Xlate) (cls : Nat) (expect : Word) : State :=
  let id := s.nextId
  let w : Wait := {
    va := va, pa := (match o with | .ok pa => pa | _ => 0), expect := expect, cls := cls, begun := s.cue
    interval := 16, pollAt := s.cue, entry := false, woken := false, read := some id }
  let s := s.addAcc va o cls 0 (.watch expect) none
  if s.cur.sh then s.modCore s.cur.core (fun k => { k with shWatch := some (w, s.cur.word) })
  else s.modMe (fun x => { x with waitv := some w })

/-- WAITV (R146 to R149, R235). -/
def execWaitv (h : SHdr) (d : BitVec 5) (xa : BitVec 3) (cls : BitVec 4) (s : State) : Out :=
  let va := (s.x xa.toNat).toNat
  s.scalar h (waitvForm d xa cls s)
    (fun s =>
      let expect := s.g d.toNat
      let (o, s) := s.xlate va false
      (s.watch va o (s.classOf cls) expect).pump s.cur.core)

/-- WAITV_WAKE (R85, R147): a write to the watched block, or a spurious wake. -/
def execWaitvWake (s : State) : Out := .next (s.wakeCtx s.ev.core s.ev.bank)

/-- WAITV_POLL (R147): a read of the watched word starts; the next interval is twice as long, up to `2 ^ 16`. -/
def execWaitvPoll (s : State) : Out :=
  let c := s.ev.core
  let b := s.ev.bank
  .next (match s.waitOf c b with
  | none => s
  | some w =>
    if w.woken || w.entry || s.cue < w.pollAt then s
    else
      let i := min 65536 (2 * w.interval)
      let (id, s) := s.fresh
      let sh := b == shBank
      let root := if sh then (s.core c).shroot.toNat else ((s.ctx c b).getD {}).ptroot.toNat
      let again := w.read.isNone
      let s := s.setWait c b (some { w with interval := i, pollAt := s.cue + i, read := if again then some id else w.read })
      let a : Acc := ⟨id, c, if sh then s.stageOf c else b, sh, 0, w.cls, w.va, w.pa, root, .watch w.expect, false, false⟩
      let s := s.at_ (s.cue + i) .waitvPoll s.ev
      if again then ({ s with accs := s.accs ++ [a] } : State).pump c else s)

/-- WAIT_BUDGET_SPENT (R149): the wait that began at house cue `n` has lasted its budget. -/
def execWaitBudgetSpent (s : State) : Out :=
  let c := s.ev.core
  let b := s.ev.bank
  .next (match (s.ctx c b).bind (·.waitv) with
  | none => s
  | some w =>
    if w.woken || w.begun != s.ev.n then s else s.ctxRec c b false 0x4B 0 w.va (s.cue - w.begun))

/-! ### Held contexts and records -/

/-- Pulls of a context that failed start again, and all of one that starts with its blocks (R399). -/
def State.pullAgain (s : State) (c b : Nat) : State :=
  match s.ctx c b with
  | none => s
  | some x =>
    let touched := fun (n : Nat) => match x.frozen with
      | some (.blocks l) => l.contains n
      | _ => false
    let s := s.modCtx c b (fun x => { x with unlit := [] })
    let s := x.unlit.foldl (fun s n => s.kindle c b n (touched n)) s
    if (s.core c).starts.any (fun t => t.bank == b && t.eager) then
      (upFrom 1 155).foldl (fun s n => s.kindle c b n false) s
    else s

/-- RESUME (R394, R399): the held context of the bank that `value` names goes on. -/
def execResume (s : State) : Out :=
  let c := s.ev.core
  let b := s.ev.value.toNat % 2
  .next (match (s.ctx c b).bind (·.held) with
  | none => s
  | some _ => (((((s.unhold c b).unstick c b).pullAgain c b).tryStart c).settle c))

/-- FBOWNER_WRITE (R386, R419). -/
def execFbownerWrite (s : State) : Out :=
  .next (s.modDie s.ev.die (fun k => { k with fbowner := s.ev.value.toNat % 16 }))

/-- FAULT_RECORD_ENTER (R400): the oldest record held outside the buffer enters it when there is room. -/
def execFaultRecordEnter (s : State) : Out :=
  let d := s.ev.die
  let s := s.drainHeldRecs d
  .next (
    if (s.die d).fbheld.isEmpty || 256 ≤ (s.die d).fbuf.length then s
    else s.at_ s.cue .faultRecordEnter { die := d })

/-- SHSLEEP_LIMIT (R402). -/
def execShsleepLimit (s : State) : Out :=
  let c := s.ev.core
  .next (if timeCome s.cue (s.core c).shLimit then s.wakeSh c else s)

/-! ### Errors and self-tests -/

/-- The location code of the 32-bit word at an address of a unit of R406, for the units that carry SEC-DED and belong to
a context: 2 latches, 3 accumulator store, 7 spill store. -/
def unitCode (unit addr : Nat) : Option Nat :=
  if unit = 2 then some (codeLatch (addr / 4))
  else if unit = 3 then some (codeTile (addr / 4))
  else if unit = 7 then some (codeSpill (addr / 4))
  else none

/-- A 64-bit word found with a multi-bit error: both its 32-bit words are poisoned (R403), of a bank's context or of a
stagehand's spill store. Units 4 and 5 are the scratchpad. DESIGN CHOICE (log 70): 8, which R406 reserves, stands for the
cluster SRAM, by physical address. -/
def State.poisonPair (s : State) (c b : Nat) (sh : Bool) (unit addr : Nat) : State :=
  let a := addr / 8 * 8
  if unit = 4 || unit = 5 then
    s.modCore c (fun k => { k with spMarks := (k.spMarks.put (a / 4) true).put (a / 4 + 1) true })
  else if unit = 8 then
    { s with physMarks := (s.physMarks.put (s.physKey a / 4) true).put (s.physKey (a + 4) / 4) true }
  else match unitCode unit a with
    | some n => s.modRegsOf c b (sh && unit == 7) (fun r => (r.setMark n true).setMark (n + 1) true)
    | none => s

/-- A register poisoned whole: every lane of a vector register (R396, R404). -/
def Regs.poisonReg (r : Regs) (code : Nat) : Regs :=
  if 64 ≤ code && code < 96 then (List.range 128).foldl (fun r l => r.setMark (codeLane (code - 64) l) true) r
  else r.setMark code true

/-- A parity error in a register of a bank's context (R404), named by its location code, with 0x200 added for a
stagehand's (log 70): rewritten from the operand log with a freeze of 8 cycles, or poisoned. -/
def State.parity (s : State) (c b a : Nat) : Bool × State :=
  let sh := decide (0x200 ≤ a)
  let code := a % 0x200
  if (s.core c).oplog.contains (logCode b sh code) then
    (true, (s.modCtx c b (fun x =>
      if x.frozen.isSome then x else { x.halt s.cue with frozen := some (.until (s.cue + 8) [] none) })).settle c)
  else (false, s.modRegsOf c b sh (·.poisonReg code))

/-- `REQ` of an agent that meets an error of core `c`'s memories: a fabric interface and a front end name the die, the host
and the boot controller the package (R401). -/
def State.metBy (s : State) (c kind : Nat) : Nat :=
  if kind ≤ 3 then s.reqOf c kind else reqWord s.pkgNum (if kind = 4 ∨ kind = 7 then dieOf c else 0) 0 kind

/-- ERROR_SELF_TEST (R403 to R405): an error of unit `n` of the core is met: `m` 0 a corrected one at address `value`, 1 a
multi-bit one there, 2 a parity error of register `value`; in the context of `bank`, or with `flag` in the stagehand's
spill store; `width` is the kind of the agent that met it (R401), a stagehand's own error kind 3 of bank 0. The unit's
self-test starts within `2 ^ 16` cycles; the record waits for its end (log 40). -/
def execErrorSelfTest (s : State) : Out :=
  let c := s.ev.core
  let unit := s.ev.n
  let a := s.ev.value.toNat
  let sh := if s.ev.m < 2 then s.ev.flag && unit == 7 else decide (0x200 ≤ a)
  let b := if sh then 0 else s.ev.bank
  let who := whoByte c b false + 64
  let kind := if sh then 3 else s.ev.width % 8
  let test := fun (s : State) (cause addr detail : Nat) =>
    let (w, s) := s.popDelay
    let (i, s) := s.fresh
    s.startTest c unit (s.cue + min w 65536) 0 i (some ⟨cause, who, s.metBy c kind, addr, detail, s.cue⟩)
  .next (
    if s.ev.m = 0 then test (s.modCore c (fun k => { k with errcnt := k.errcnt + 1 })) 0x50 a unit
    else if s.ev.m = 1 then test (s.poisonPair c s.ev.bank sh unit a) 0x51 a unit
    else
      let (ok, s) := s.parity c s.ev.bank a
      test s 0x52 0 (a + b2n ok * 2 ^ 63))

/-- SELF_TEST_END (R405, R406): `flag` for a sparing that takes effect; else the class found; a lasting unit is spared at the
next context boundary, the record of the error that the test followed enters, the token of a SELFTEST completes. -/
def execSelfTestEnd (s : State) : Out :=
  let c := s.ev.core
  .next (if s.ev.flag then s.spareNow c else match (s.core c).selftests.find? (fun t => t.tokId == s.ev.m && t.left == 0) with
  | none => s
  | some t =>
    let class_ := min 2 (Config.selfTestClass s.freeIx).toNat
    let s := ({ s with freeIx := s.freeIx + 1 } : State).modCore c (fun k => { k with
      stres := BitVec.ofNat 32 (t.unit % 16 * 16 + class_)
      sparing := if class_ = 2 then k.sparing ++ [t.unit] else k.sparing
      selftests := k.selftests.filter (fun u => u.tokId != s.ev.m) })
    match t.record with
    | some r => s.pushRec (dieOf c) (some c) { r with who := r.who + b2n (class_ == 2) * 128 }
    | none => s.shDone c t.tok t.tokId 0)

/-! ### Control registers (R238) -/

/-- What follows a change of the frame table (R80). -/
def State.framesChanged (s : State) (c : Nat) : State :=
  (((s.nextEdge c).releaseToks c).settle c).tryExchange c

/-- A stagehand register takes a value (R241, R386, R417); those that act bring about their event. -/
def State.putShCreg (s : State) (c n : Nat) (v : DWord) : State :=
  let d := dieOf c
  let w : Word := v.setWidth 32
  let core := fun (f : Core → Core) => s.modCore c f
  let cp := fun (f : State → State) => if s.isCp c then f s else s
  if 0x90 ≤ n && n ≤ 0x9F then
    (core (fun k => { k with frametab := k.frametab.put (n - 0x90) (v.setWidth 16) })).framesChanged c
  else if 0xE0 ≤ n && n ≤ 0xE7 then core (fun k => { k with wsave := k.wsave.put ((n - 0xE0) / 2) v })
  else if 0xE8 ≤ n && n ≤ 0xEF then core (fun k => { k with wepoch := k.wepoch.put ((n - 0xE8) / 2) v })
  else match n with
    | 0x80 => core (fun k => { k with share := w })
    | 0x81 => (core (fun k => { k with framectl := w })).framesChanged c
    | 0x82 => (core (fun k => { k with framebase := v })).framesChanged c
    | 0xA8 => if bitAt w.toNat 31 then s.modDie d (fun k => { k with fbovf := false }) else s
    | 0xAA => s.at_ s.cue .fbownerWrite { die := d, value := v }
    | 0xAB => s.at_ s.cue .resume { core := c, value := v }
    | 0xBA => core (fun k => { k with errcnt := w })
    | 0xD0 => core (fun k => { k with shroot := v })
    | 0xD2 => core (fun k => { k with shbank := w })
    | 0xD6 => cp (fun s =>
        let a : EvArg := { core := c, die := d, n := bits w.toNat 11 8 }
        match w.toNat % 4 with
        | 1 => s.at_ s.cue .qadvAdvance a
        | 2 => s.at_ s.cue .qadvError a
        | 3 => s.at_ s.cue .qadvYield a
        | _ => s)
    | 0xD8 => cp (fun s => s.at_ s.cue .qlaunchWrite { core := c, die := d, value := v })
    | 0xDB => cp (fun s =>
        if 2 ^ 12 ≤ w.toNat && decide (w.toNat ≤ 2 ^ 28) then s.modDie d (fun k => { k with armlead := w }) else s)
    | 0xDC => core (fun k => { k with shcode := v })
    | _ => s

/-- BTGT_WRITE (R170, R240): a b register is written as a PBR at the issue of its CWR writes it. -/
def execBtgtWrite (s : State) : Out :=
  let c := s.ev.core
  let b := s.ev.bank
  let sh := s.ev.flag
  let t := (if sh then s.cue else ((s.ctx c b).getD {}).line s.cue) - 1
  .next ((s.modRegsOf c b sh (·.putBtgt s.ev.n s.ev.value t)).modCore c (·.logReg b sh (codeB (s.ev.n - 0x50))))

/-- YCTL_WRITE (R46, R240): `POINT` is written, bits 9:8 are cleared by ones. -/
def execYctlWrite (s : State) : Out := .next (s.modCtx s.ev.core s.ev.bank (·.putYctl s.ev.n s.ev.value))

/-- A control register takes its value. -/
def State.putCreg (s : State) (c b : Nat) (sh : Bool) (n : Nat) (v : DWord) : State :=
  if sh && cregSh n && n != 0xA0 then s.putShCreg c n v
  else if sh && cregOwn n then s.modRegsOf c b true (·.putCreg n v)
  else match s.ctx c b with
    | none => s
    | some x =>
      if sh && n == 0x48 && x.ftabAt == s.cue + 1 then s
      else
        let s := s.setCtx c b (x.putCreg n v)
        match cregCode n with
        | some m => s.modCore c (·.logReg b false m)
        | none => s

/-- The value a control-register write leaves: the low half stays when the high half is written alone (R238). -/
def State.cregFull (s : State) (c b : Nat) (sh : Bool) (n : Nat) (v : DWord) (hi : Bool) : DWord :=
  if hi then
    let old := if sh && n != 0xA0 && cregSh n then s.shCreg c n else s.ctxCreg c b ((s.ctx c b).getD {}) n
    BitVec.ofNat 64 (v.toNat / 2 ^ 32 * 2 ^ 32 + old % 2 ^ 32)
  else v

/-! ### Register pages -/

/-- A barrier of a launch that core `c` is a member of is pending (R372). -/
def State.castPending (s : State) (c : Nat) : Bool :=
  s.launches.any (fun l => l.state == .running && l.members.any (fun m => m.core == c && !m.left)
    && (l.sceneAt.isSome || !l.reports.isEmpty || l.members.any (fun m => m.arrived.isSome)))

/-- A write of a register page that is discarded and recorded with cause 0x56. -/
def State.discard56 (s : State) (d pa n : Nat) (r : Requester) : State := s.agentRec d 0x56 r pa n

/-- A write of a core's private page that is discarded with a record: a cast register while a launch of
the cast is armed (R372), a queue register while `QSTAT.STATE` is 2 (R410). -/
def State.privRefuses (s : State) (c off : Nat) : Bool :=
  (decide (0x0900 ≤ off && off < 0x0910) && s.castPending c)
    || (decide (c % 16 = 0 && 0x4000 ≤ off && off < 0x5000 && off % 64 < 0x10)
      && (((s.die (dieOf c)).queues.get {} ((off - 0x4000) / 64)).state == 2))

/-- A 32-bit word of a core's private page is written. -/
def State.putPrivWord (s : State) (c off v : Nat) : State :=
  let w : Word := BitVec.ofNat 32 v
  let d := dieOf c
  if 0x0800 ≤ off && off < 0x0860 then s.modCore c (fun k => { k with keys := k.keys.writeN off (toLe 4 v) })
  else if 0x0900 ≤ off && off < 0x0910 && off % 4 = 0 then
    if off = 0x0900 then
      let s := s.modCore c (fun k => { k with castctl := w &&& 1 ||| (if bitAt v 1 then k.castctl &&& 1 else 0) })
      if bitAt v 1 then s.at_ s.cue .leave { core := c } else s
    else if off = 0x0904 then s.modCore c (fun k => { k with castid := w })
    else if off = 0x0908 then s.modCore c (fun k => { k with castroot := w &&& 0x1FFF })
    else s.modCore c (fun k => { k with castcnt := w })
  else if c % 16 = 0 && 0x4000 ≤ off && off < 0x5000 && off % 64 < 0x10 then
    let q := (off - 0x4000) / 64
    let u := (s.die d).queues.get {} q
    let u := if off % 64 < 8 then { u with base := putHalf u.base off 4 v } else { u with root := putHalf u.root off 4 v }
    s.modDie d (fun k => { k with queues := k.queues.put q u })
  else s

/-- A register of a die's shared page is written; `n` bytes. DESIGN CHOICE (log 64): a value of FFQSIZE or a base of
FFQBASE or BOUNCEBASE that R116 does not admit is stored as written. -/
def State.putShared (s : State) (d off n v : Nat) : State :=
  let e := off / 8 * 8
  let die := fun (f : Die → Die) => s.modDie d f
  if e = 0x000 then die (fun k => { k with ffqbase := putHalf k.ffqbase off n v })
  else if e = 0x008 then die (fun k => { k with ffqsize := putHalf k.ffqsize off n v })
  else if e = 0x018 then die (fun k => { k with ffqtail := putHalf k.ffqtail off n v })
  else if e = 0x020 then die (fun k => { k with bouncebase := putHalf k.bouncebase off n v })
  else if off = 0x100 then
    let w := v % 2 ^ 32
    if 2 ^ 16 ≤ w && w ≤ 2 ^ 30 then die (fun k => { k with fabtmo := BitVec.ofNat 32 w }) else s
  else s

/-- A write to a register page by its physical address (R116, R118, R119, R348, R372, R410). -/
def State.regPageWrite (s : State) (r : Requester) (ok : Bool) (pa n v : Nat) : State :=
  let bad := fun (d : Nat) => s.agentRec d 0x54 r pa (reqNum r)
  match s.place pa with
  | .corePriv c off =>
    if !ok || !regWidthOk off n then bad (dieOf c)
    else if s.privRefuses c off then s.discard56 (dieOf c) pa off r
    else
      let s := s.putPrivWord c off (v % 2 ^ 32)
      if n = 8 then s.putPrivWord c (off + 4) (v / 2 ^ 32 % 2 ^ 32) else s
  | .coreShared c off => if regWidthOk off n then s else bad (dieOf c)
  | .dieShared d off => if regWidthOk off n then s.putShared d off n v else bad d
  | _ => s

/-- BOUNCETAIL_WRITE (R449): the pager consumes records up to the value written, never past `BOUNCEHEAD`. A value beyond
the ring is discarded too (DESIGN CHOICE, log 64: the manual names those not aligned and those past the head). -/
def execBouncetailWrite (s : State) : Out :=
  let d := s.ev.die
  let k := s.die d
  let w := putHalf k.bouncetail s.ev.n s.ev.width s.ev.value.toNat
  let v := w.toNat
  let by_ := (v + ringSize - k.bouncetail.toNat % ringSize) % ringSize
  .next (
    if v % 32 != 0 || ringSize ≤ v || k.bounceUsed < by_ then s
    else s.setDie d { k with bouncetail := w })

/-- WKEY_WRITE (R433, R447): a world key is not written while the world is live; a write zeroes the world's
measurement. -/
def execWkeyWrite (s : State) : Out :=
  let c := s.ev.core
  let w := (s.ev.n - 0x0860) / 16
  .next (
    if bitAt (s.core c).wlive.toNat w then
      s.pushRec (dieOf c) none ⟨0x4F, c % 16, reqNum s.ev.req, 0, 0, s.cue⟩
    else
      ({ s with wmeas := s.wmeas.del w } : State).modCore c (fun k => { k with
        keys := k.keys.writeN s.ev.n (toLe s.ev.width s.ev.value.toNat) }))

end Sys2Proof.Machine
end

