-- ==== Sys2Proof/Machine/Queues.lean ====
section
/-!
DEFINITION. Queues (R409 to R423): kicks, wakes and repairs, arbitration, packet boundaries, messages; function-level reset
(R431). Links and routes (R340, R347, R349, R441, R442, R447).
-/
namespace Sys2Proof.Machine

/-! ### Queues -/

def State.queue (s : State) (d q : Nat) : Queue := (s.die d).queues.get {} q
def State.setQueue (s : State) (d q : Nat) (u : Queue) : State :=
  s.modDie d (fun k => { k with queues := k.queues.put q u })

def Queue.en (u : Queue) : Bool := bitAt u.ctl.toNat 0
def Queue.prio (u : Queue) : Nat := bits u.ctl.toNat 2 1
def Queue.kmeth (u : Queue) : Bool := bitAt u.ctl.toNat 3
def Queue.size (u : Queue) : Nat := 2 ^ bits u.ctl.toNat 8 4
def Queue.slice (u : Queue) : Nat := bits u.ctl.toNat 19 12 * 4096
def Queue.vec (u : Queue) : Nat := bits u.ctl.toNat 30 20

/-- The command processor of a die wakes (R419). -/
def State.wakeCp (s : State) (d : Nat) : State := s.wakeSh (16 * d + (s.die d).fbowner)

/-- Queues of a die in state 2 at a level, ascending. -/
def State.readyAt (s : State) (d lvl : Nat) : List Nat :=
  (List.range 64).filter (fun q => (s.queue d q).state == 2 && (s.queue d q).prio == lvl)

/-- The slice of the current queue that is left (R416). -/
def State.sliceLeft (s : State) (d : Nat) : Nat := (s.die d).slice - (s.cue - (s.die d).sliceAt)

/-- The queue after the last one served at a level, wrapping. -/
def nextQueue (last : Option Nat) (l : List Nat) : Option Nat :=
  match last with
  | some n => (l.find? (fun q => decide (n < q))).or l.head?
  | none => l.head?

/-- The choice of R416 at a boundary, or when no queue is current. -/
def State.chooseQueue (s : State) (d : Nat) : State :=
  match (List.range 4).find? (fun lvl => !(s.readyAt d lvl).isEmpty) with
  | none => s.modDie d (fun k => { k with curQ := none })
  | some lvl =>
    let k := s.die d
    let stays := match k.curQ with
      | some q => (s.readyAt d lvl).contains q && decide (0 < s.sliceLeft d)
      | none => false
    if stays then s
    else
      let last := (k.lastServed.find? (fun e => e.1 == lvl)).map (·.2)
      match nextQueue last (s.readyAt d lvl) with
      | none => s
      | some q =>
        let n := (s.queue d q).slice
        (s.modDie d (fun k => { k with
          curQ := some q, slice := n, sliceAt := s.cue, lastServed := k.lastServed.put lvl q })).at_ (s.cue + n)
          .sliceExpiry { die := d }

/-- A packet boundary (R416, R418). -/
def State.boundaryOf (s : State) (d : Nat) : State := (s.modDie d (fun k => { k with inPacket := false })).chooseQueue d

/-- A queue enters its error state with a cause (R421): its message, and a packet boundary. One that was disabled while
its packet was in progress stays in state 0 (R412). -/
def State.queueError (s : State) (d q cause : Nat) : State :=
  let u := s.queue d q
  let v := if u.en then { u with state := 3, ecause := cause } else u
  ((s.setQueue d q v).at_ s.cue .msixMessage { die := d, n := u.vec }).boundaryOf d

/-- `(a - b) mod 2^32`. -/
def idxDiff (a b : Nat) : Nat := (a + 2 ^ 32 - b % 2 ^ 32) % 2 ^ 32

/-- A kick or wake with an index (R413): `wake` for the route of the wake register. -/
def State.kickQueue (s : State) (d q width : Nat) (value : DWord) (wake : Bool) : State :=
  let u := s.queue d q
  let n := value.toNat % 2 ^ 32
  if width != 8 || value.toNat / 2 ^ 32 != 0 || !u.en || u.kmeth != wake then s
  else if u.size < idxDiff n u.rd.toNat || u.size < idxDiff n u.wr.toNat then
    if u.state = 3 then s else s.queueError d q 3
  else
    let u := { u with wr := BitVec.ofNat 32 n }
    if u.state = 1 && n != u.rd.toNat then
      let s := s.setQueue d q { u with state := 2 }
      (if (s.die d).curQ.isNone then s.chooseQueue d else s).wakeCp d
    else s.setQueue d q u

/-- The host as a requester: `priv` through its privileged BAR (R118, R401). -/
def State.hostReq (s : State) : Requester := { kind := 5, pkg := s.pkgNum }

/-- Offset in BAR2 of a register of queue `q` of die `d` (R408). -/
def queuePage (d q off : Nat) : Nat := 4096 * (64 * d + q) + off

/-- An access of a queue page whose width R119 does not allow is recorded (R409): with its offset in BAR2 (DESIGN CHOICE,
log 65). -/
def State.pageBad (s : State) (d q off : Nat) : State :=
  s.dieRec d 0x54 (reqNum s.hostReq) (queuePage d q off) (reqNum s.hostReq)

/-- The host port is up: a stopped boot leaves it down (R446), and so does a module that holds in reset (R448). -/
def State.hostUp (s : State) : Bool := s.bootCode == 0 && !s.tripped

/-- KICK (R409, R413). -/
def execKick (s : State) : Out :=
  .next (
    if !s.hostUp then s
    else if regWidthOk 0 s.ev.width then s.kickQueue s.ev.die s.ev.n s.ev.width s.ev.value false
    else s.pageBad s.ev.die s.ev.n 0)

/-- WAKE_REGISTER (R413, R414). -/
def execWakeRegister (s : State) : Out := .next (s.kickQueue s.ev.die s.ev.n s.ev.width s.ev.value true)

/-- QREPAIR (R419, R422). -/
def execQrepair (s : State) : Out :=
  let d := s.ev.die
  let q := s.ev.n
  let u := s.queue d q
  let r := s.ev.value.toNat % 2 ^ 32
  .next (
    if !s.hostUp then s
    else if !regWidthOk 8 s.ev.width then s.pageBad d q 8
    else if u.state = 3 && decide (idxDiff u.wr.toNat r ≤ u.size) then
      (s.setQueue d q { u with rd := BitVec.ofNat 32 r, ecause := 0, state := 1 }).wakeCp d
    else s)

/-- The physical address of a register of queue `q` (R110, R410). -/
def State.queueReg (s : State) (d q off : Nat) : Nat :=
  s.pkgNum * 2 ^ 41 + 0x100000000 + d * 0x1000000 + 0x4000 + 64 * q + off

/-- `QCTL` values that R411 refuses. -/
def qctlBad (v : Nat) : Bool :=
  bitAt v 31 || bits v 11 9 != 0 || decide (bits v 8 4 < 4) || decide (16 < bits v 8 4)
    || (bitAt v 0 && bits v 19 12 == 0)

/-- QCTL_WRITE (R410, R411, R423). -/
def execQctlWrite (s : State) : Out :=
  let d := s.ev.die
  let q := s.ev.n
  let u := s.queue d q
  let v := s.ev.value.toNat % 2 ^ 32
  let old := u.ctl.toNat
  let off_ := fun (s : State) =>
    let s := s.setQueue d q { u with ctl := BitVec.ofNat 32 v, state := 0, ecause := 0 }
    if (s.die d).curQ == some q && !(s.die d).inPacket then s.chooseQueue d else s
  .next (
    if u.en && v + 1 == old then off_ s
    else if u.state = 2 || qctlBad v then s.discard56 d (s.queueReg d q 0x10) (0x4000 + 64 * q + 0x10) s.ev.req
    else if !bitAt v 0 then off_ s
    else if u.en then s.setQueue d q { u with ctl := BitVec.ofNat 32 v }
    else s.setQueue d q { u with ctl := BitVec.ofNat 32 v, rd := 0, wr := 0, state := 1, ecause := 0 })

/-! ### The boundary operations of the command processor -/

/-- QCUR_READ (R416): a packet of the current queue is in progress. -/
def execQcurRead (s : State) : Out :=
  .next (s.modDie s.ev.die (fun k => { k with inPacket := k.inPacket || k.curQ.isSome }))

/-- QADV_ADVANCE (R418): `QRD` moves on; the packet's message follows its writes. -/
def execQadvAdvance (s : State) : Out :=
  let d := s.ev.die
  .next (match (s.die d).curQ with
  | none => s
  | some q =>
    let u := s.queue d q
    let irq := bitAt (s.preadNum (u.base.toNat + 64 * (u.rd.toNat % u.size) + 1) 1) 0
    let rd := u.rd + 1
    let s := s.setQueue d q { u with rd := rd, state := if u.state = 2 && rd == u.wr then 1 else u.state }
    let s := if irq then s.at_ s.cue .msixMessage { core := s.ev.core, die := d, n := u.vec, m := s.nextId } else s
    s.boundaryOf d)

/-- QADV_ERROR (R418, R421). -/
def execQadvError (s : State) : Out :=
  let d := s.ev.die
  .next (match (s.die d).curQ with
  | none => s
  | some q => s.queueError d q s.ev.n)

/-- QADV_YIELD (R418). -/
def execQadvYield (s : State) : Out :=
  let d := s.ev.die
  .next (match (s.die d).curQ with
  | none => s
  | some _ => s.boundaryOf d)

/-- SLICE_EXPIRY (R416): the slice has run out; the next boundary acts on it. -/
def execSliceExpiry (s : State) : Out :=
  let d := s.ev.die
  .next (
    if (s.die d).curQ.isSome && s.sliceLeft d == 0 then s.modDie d (fun k => { k with slice := 0, sliceAt := s.cue })
    else s)

/-- A word of the MSI-X table (R440): a vector is masked until its control word says otherwise (PRESUMED, log 65). -/
def State.msixWord (s : State) (i : Nat) : Word := s.msixTab.get (if i % 4 = 3 then 1 else 0) i

/-- The vector is masked. -/
def State.msixMasked (s : State) (v : Nat) : Bool := (s.msixWord (4 * v + 3)).getLsbD 0

/-- A message of a vector leaves, or its pending bit is set while the vector is masked (R408, R440). -/
def State.msixSend (s : State) (v : Nat) : State :=
  if s.msixMasked v then { s with msixPend := v :: s.msixPend.filter (· != v) } else { s with msix := v :: s.msix }

/-- A word of the MSI-X table is written: a pending message of a vector no longer masked leaves. -/
def State.msixPut (s : State) (i : Nat) (w : Word) : State :=
  let s := { s with msixTab := s.msixTab.put i w }
  let v := i / 4
  if s.msixPend.contains v && !s.msixMasked v then
    { s with msixPend := s.msixPend.filter (· != v), msix := v :: s.msix }
  else s

/-- The 32-bit word at an offset of BAR4 (R440): the table, then the pending bits; none elsewhere. -/
def State.msixAt (s : State) (off : Nat) : Option Nat :=
  if off < 0x8000 then some (s.msixWord (off / 4)).toNat
  else if off < 0x8100 then
    some (packElems 1 ((upFrom ((off - 0x8000) * 8) 32).map (fun v => b2n (s.msixPend.contains v))))
  else none

/-! ### The host's BARs (R408) -/

/-- The 32-bit word at an offset of a queue page (R409). -/
def State.queueWord (s : State) (d q off : Nat) : Option Nat :=
  let u := s.queue d q
  match off with
  | 0x000 => some u.wr.toNat
  | 0x004 => some 0
  | 0x008 => some u.rd.toNat
  | 0x00C => some ((s.die d).qstat q)
  | _ => none

/-- A read of the host through a BAR: what it returns. -/
def State.barRead (s : State) (bar off n : Nat) : Nat × State :=
  let ones := 2 ^ (8 * n) - 1
  if bar = 0 then s.regRead s.hostReq true (s.pkgNum * 2 ^ 41 + 0x100000000 + off) n
  else if bar = 2 then
    let d := off / 4096 / 64
    let q := off / 4096 % 64
    if regWidthOk off n then (pageValue (s.queueWord d q) (off % 4096) n, s) else (ones, s.pageBad d q (off % 4096))
  else (if regWidthOk off n then pageValue s.msixAt off n else ones, s)

/-- A write of the host through a BAR; one to `KICK` or `QREPAIR` is that event. -/
def State.barWrite (s : State) (bar off n v : Nat) : State :=
  if bar = 0 then s.regStore s.hostReq true (s.pkgNum * 2 ^ 41 + 0x100000000 + off) n v
  else if bar = 2 then
    let d := off / 4096 / 64
    let q := off / 4096 % 64
    let a : EvArg := { die := d, n := q, width := n, value := BitVec.ofNat 64 v }
    if off % 4096 < 8 && !regWidthOk off n then s.pageBad d q (off % 4096)
    else if off % 4096 = 0 then s.at_ s.cue .kick a
    else if off % 4096 = 8 then s.at_ s.cue .qrepair a
    else if regWidthOk off n then s else s.pageBad d q (off % 4096)
  else if regWidthOk off n && decide (off < 0x8000) then
    let s := s.msixPut (off / 4) (BitVec.ofNat 32 v)
    if n = 8 then s.msixPut (off / 4 + 1) (BitVec.ofNat 32 (v / 2 ^ 32)) else s
  else s

/-- An access of the host through BAR `die` at offset `n` of `width` bytes (R408): a read when `flag`, else a write of
`value`. -/
def State.hostAccess (s : State) : State :=
  if !s.hostUp then s
  else if s.ev.flag then
    let (v, s) := s.barRead s.ev.die s.ev.n s.ev.width
    { s with hostReads := v :: s.hostReads }
  else s.barWrite s.ev.die s.ev.n s.ev.width s.ev.value.toNat

/-- REGISTER_WRITE (R119, R238, R408): control register `n` of `core` and `bank` when `flag`, `width` 1 for a stagehand's
write; an access of the host through a BAR when `m` is 2; else the register at physical address `n`. -/
def execRegisterWrite (s : State) : Out :=
  .next (
    if s.ev.m = 2 then s.hostAccess
    else if s.ev.flag then
      let sh := s.ev.width == 1
      s.putCreg s.ev.core s.ev.bank sh s.ev.n (s.cregFull s.ev.core s.ev.bank sh s.ev.n s.ev.value (s.ev.m == 1))
    else s.regPageWrite s.ev.req (s.ev.m == 1) s.ev.n s.ev.width s.ev.value.toNat)

/-- MSIX_MESSAGE (R418, R421, R430): the message of vector `n` is sent once what the command processor of `core` issued
before number `m` has performed. -/
def execMsixMessage (s : State) : Out :=
  let c := s.ev.core
  let m := s.ev.m
  let open_ := s.accs.any (fun a => a.sh && a.core == c && decide (a.id < m))
    || (s.cmdsOf c).any (fun k => k.sh && decide (k.id < m))
  .next (if open_ then s.at_ (s.cue + 1) .msixMessage s.ev else s.msixSend s.ev.n)

/-- FUNCTION_LEVEL_RESET (R431). -/
def execFunctionLevelReset (s : State) : Out :=
  .next { s with
    dies := s.dies.map (fun (e : Nat × Die) => (e.1, { e.2 with
      queues := [], curQ := none, inPacket := false, slice := 0, lastServed := [] }))
    agenda := s.agenda.filter (fun e => e.2.1 != .msixMessage)
    msixTab := []
    msixPend := []
    launches := s.launches.map (fun (l : Launch) => { l with done := noWord, irq := false }) }

/-! ### Links and routes -/

/-- A link of a die is down and recorded (R340). -/
def State.linkLost (s : State) (d link : Nat) : State :=
  if bitAt (s.die d).linkdn.toNat link then s
  else
    let s := s.modDie d (fun k => { k with linkdn := k.linkdn ||| BitVec.ofNat 32 (2 ^ link) })
    s.dieRec d 0x55 (reqWord s.pkgNum d 0 4) 0 (s.die d).linkdn.toNat

/-- Packets that waited for a route are tried again on every die. -/
def State.retryAll (s : State) : State := (List.range 8).foldl State.retryStalled s

/-- LINK_DOWN (R340). -/
def execLinkDown (s : State) : Out := .next (s.linkLost s.ev.die s.ev.n)

/-- LINK_ESTABLISH (R349, R447): link `n` comes up with the key that the shared secret gives, or stays down; a module that
holds in reset establishes none (R448). -/
def execLinkEstablish (s : State) : Out :=
  let d := s.ev.die
  let n := s.ev.n
  let l := 8 * d + n
  .next (
    if s.tripped then s
    else if s.ev.flag then
      let s := s.modDie d (fun k => { k with linkdn := k.linkdn &&& ~~~ BitVec.ofNat 32 (2 ^ n) })
      ({ s with
        linkKeys := if n < 2 then s.linkKeys else s.linkKeys.put l ((sm3 s.ev.bytes).take 16)
        linkCount := if n < 2 then s.linkCount else s.linkCount.put l 0
        linkRxKeys := if n < 2 then s.linkRxKeys else s.linkRxKeys.put l ((sm3 s.ev.bytes).take 16)
        linkRxEpoch := if n < 2 then s.linkRxEpoch else s.linkRxEpoch.put l 0 } : State).retryAll
    else s.linkLost d n)

/-- FLIT_CRC_FAILURE (R340, R349): `flag` when the flit failed before; the 16th successive failure takes the link
down. -/
def execFlitCrcFailure (s : State) : Out :=
  let d := s.ev.die
  let n := s.ev.n
  let fails := (if s.ev.flag then (s.die d).crcFails.get 0 n else 0) + 1
  let s := s.modDie d (fun k => { k with crcFails := k.crcFails.put n fails })
  .next (if fails = 16 then s.at_ s.cue .linkDown { die := d, n := n } else s)

/-- A CXL port that is down, recorded on the die of the port (R441, log 8). -/
def State.cxlLost (s : State) (port : Nat) : State :=
  let d := portDie port
  let s := { s with cxlDown := port :: s.cxlDown.filter (· != port) }
  s.dieRec d 0x55 (reqWord s.pkgNum d 0 4) 0 (s.die d).linkdn.toNat

/-- CXL_PORT_DOWN (R441). -/
def execCxlPortDown (s : State) : Out := .next (s.cxlLost s.ev.n)

/-- The physical address of a register of a die's shared page (R110). -/
def State.sharedReg (s : State) (d off : Nat) : Nat :=
  s.pkgNum * 2 ^ 41 + 0x100000000 + d * 0x1000000 + 0x200000 + off

/-- RTSEL_WRITE (R347, R348). -/
def execRtselWrite (s : State) : Out :=
  let d := s.ev.die
  let v := s.ev.value.toNat % 2 ^ 32
  .next (
    if (s.die d).rtold != 0 || 2 ≤ v then s.discard56 d (s.sharedReg d 0x120) 0x120 s.ev.req
    else s.modDie d (fun k => { k with rtsel := BitVec.ofNat 32 v }.countOld))

/-- RTAB_WRITE (R347, R348): offset `n` from `RTAB0`. -/
def execRtabWrite (s : State) : Out :=
  let d := s.ev.die
  let n := s.ev.n
  let k := s.die d
  .next (
    if !s.ev.flag && (n / 1024 == k.rtsel.toNat || k.rtold != 0) then
      s.discard56 d (s.sharedReg d (0x1000 + n)) (0x1000 + n) s.ev.req
    else
      let cells := (upFrom n s.ev.width).zip (toLe s.ev.width s.ev.value.toNat)
      (s.setDie d { k with rtab := cells.foldl (fun (t : Tab Byte) e => t.put e.1 e.2) k.rtab }).retryAll)

/-- POOL_ROUTE_WRITE (R442): the write at offset `n` takes effect in the next cycle. -/
def execPoolRouteWrite (s : State) : Out :=
  let e := s.ev.n / 8
  let new := putHalf (s.poolRoute.get 0 e) s.ev.n s.ev.width s.ev.value.toNat
  let v := new.toNat
  .next (
    if !s.ev.flag then s.at_ (s.cue + 1) .poolRouteWrite { s.ev with flag := true }
    else if 6 < bits v 31 28 || !(([0, 1, 2, 4, 8, 16] : List Nat).contains (setBits 16 v).length) then
      s.discard56 0 (s.pkgNum * 2 ^ 41 + 0x100006000 + s.ev.n) (0x6000 + s.ev.n) s.ev.req
    else { s with poolRoute := s.poolRoute.put e new })

end Sys2Proof.Machine
end

