-- ==== Sys2Proof/Machine/Arming.lean ====
section
/-!
DEFINITION. Arming a LAUNCH (R48 to R53, R426 to R430, R447, R448, R450): what the front end reads, the causes of refusal in
their order, eligible cores, the rounds of arming.
-/
namespace Sys2Proof.Machine

/-! ### The packet and the script -/

/-- The LAUNCH payload (R426). -/
structure LPacket where
  irq : Bool
  script : Nat
  args : Nat
  desc : Nat
  done : Nat
  pkgs : Nat
  database : Nat
  launchid : Nat
  arglen : Nat
  coremask : Nat
  diemask : Nat
  lfl : Nat
  rsvd : Nat
deriving DecidableEq, Repr

/-- A little-endian field of a byte list. -/
def leAt (bs : List Byte) (off n : Nat) : Nat := ofLe ((bs.drop off).take n)

def LPacket.ofBytes (b : List Byte) : LPacket :=
  { irq := bitAt (leAt b 1 1) 0, script := leAt b 8 8, args := leAt b 16 8, desc := leAt b 24 8, done := leAt b 32 8
    pkgs := leAt b 40 8, database := leAt b 48 4, launchid := leAt b 52 4, arglen := leAt b 56 2
    coremask := leAt b 58 2, diemask := leAt b 60 1, lfl := leAt b 61 1, rsvd := leAt b 62 2 }

def LPacket.phys (p : LPacket) : Bool := bitAt p.lfl 0

/-- Dies and cores named (R427), ascending. -/
def LPacket.dies (p : LPacket) : List Nat := setBits 8 p.diemask
def LPacket.cores (p : LPacket) : List Nat := setBits 16 p.coremask

/-- The script header (R48). -/
structure SHead where
  magic : Nat
  level : Nat
  world : Nat
  dext : Nat
  cext : Nat
  pext : Nat
  flags : Nat
  rdepth : Nat
  loopoff : Nat
  fmtoff : Nat
  winoff : Nat
  entoff : Nat
  length : Nat
  rsvd : Bool
deriving DecidableEq, Repr

def SHead.ofBytes (b : List Byte) : SHead :=
  { magic := leAt b 0 4, level := leAt b 4 1, world := leAt b 5 1, dext := leAt b 6 1, cext := leAt b 7 1
    pext := leAt b 8 2, flags := leAt b 10 2, rdepth := leAt b 12 4, loopoff := leAt b 16 4, fmtoff := leAt b 20 4
    winoff := leAt b 24 4, entoff := leAt b 28 4, length := leAt b 32 4
    rsvd := ((b.drop 36).take 92).any (· != 0) || decide (4 ≤ leAt b 10 2) }

def SHead.uniform (h : SHead) : Bool := bitAt h.flags 0
/-- Owner of the launch's contexts (R106, R429). -/
def SHead.own (h : SHead) : Nat := if h.world < 4 then h.world else 4
/-- Entries of the entry table (R49). -/
def SHead.entries (h : SHead) : Nat := if h.uniform then 1 else h.pext * h.dext * h.cext

/-- Cause 5 of R428, the script's address apart. -/
def SHead.bad5 (h : SHead) : Bool :=
  let tab := fun (off n : Nat) => off % 8 != 0 || decide (h.length < off + n)
  h.dext = 0 || 8 < h.dext || h.cext = 0 || 16 < h.cext || h.pext = 0 || 1024 < h.pext
    || h.rdepth = 0 || 2 ^ 20 < h.rdepth || h.length % 128 != 0
    || tab h.loopoff 288 || tab h.fmtoff 516 || tab h.winoff 512 || tab h.entoff (16 * h.entries)

/-! ### What the front end reads (R450) -/

/-- The physical address of a front-end access; none when it fails. -/
def State.frontAddr (s : State) (d : Nat) (phys : Bool) (root own va : Nat) (wr : Bool) : Option Nat × State :=
  if phys then (some va, s)
  else match s.translate (s.frontEnd d) .none d root own va wr with
    | (.ok pa, s) => (some pa, s)
    | (.bad pte _, s) => (none, s.walkRec d (s.frontEnd d) pte)
    | (_, s) => (none, s)

/-- Pieces of a run of bytes, none across a 64 KiB boundary. -/
def pagePieces (va : Nat) : Nat → Nat → List (Nat × Nat)
  | 0, _ => []
  | fuel + 1, n =>
    if n = 0 then []
    else
      let k := min n (65536 - va % 65536)
      (va, k) :: pagePieces (va + k) fuel (n - k)

/-- Bytes read by the front end; none when a part cannot be read. -/
def State.frontRead (s : State) (d : Nat) (phys : Bool) (root own va n : Nat) : Option (List Byte) × State :=
  (pagePieces va (n / 65536 + 2) n).foldl (fun acc (a, k) =>
    match acc with
    | (none, s) => (none, s)
    | (some bs, s) =>
      match s.frontAddr d phys root own a false with
      | (some pa, s) =>
        if s.readable pa k then (some (bs ++ toLe k (s.peek pa k)), s) else (none, s.unpopRec d (s.frontEnd d) pa k)
      | (none, s) => (none, s)) (some [], s)

/-- What arming has read. -/
structure Loaded where
  head : SHead
  image : List Byte
  args : List Byte
  pkgs : List Nat
deriving DecidableEq, Repr

/-- Whether a run of image descriptors can be read. -/
def State.descsRead (s : State) (d : Nat) (phys : Bool) (root own va : Nat) : Nat → Bool × State
  | 0 => (true, s)
  | n + 1 =>
    match s.frontRead d phys root own (va + 4096 * n) 4096 with
    | (none, s) => (false, s)
    | (some _, s) => s.descsRead d phys root own va n

/-- The extents of a header are in their ranges (R48). -/
def SHead.extentsOk (h : SHead) : Bool :=
  decide (1 ≤ h.dext ∧ h.dext ≤ 8) && decide (1 ≤ h.cext ∧ h.cext ≤ 16) && decide (1 ≤ h.pext ∧ h.pext ≤ 1024)

/-- The parts of a LAUNCH read in order: the header from a page of any world, then everything under the world it
names, the descriptors last (R450), and the owner that the header names. The first part that fails is cause 1, before any
cause of refusal beside it (R428). A header without its magic says nothing of what follows it, and extents out of range
count no descriptors and no packages: these are then not read. While the header cannot be read the launch counts as open
(DESIGN CHOICE, log 65). -/
def State.loadLaunch (s : State) (d : Nat) (p : LPacket) (root : Nat) : (Option Loaded × Nat) × State :=
  match s.frontRead d p.phys root 5 p.script 128 with
  | (none, s) => ((none, 4), s)
  | (some hb, s) =>
    let h := SHead.ofBytes hb
    let own := h.own
    let magic := h.magic == 0x324B4852
    let (img, s) := s.frontRead d p.phys root own p.script (if magic then max 128 h.length else 128)
    let (args, s) := s.frontRead d p.phys root own p.args (if p.arglen ≤ 4096 then p.arglen else 0)
    let many := magic && decide (1 < h.pext) && decide (h.pext ≤ 1024)
    let (pk, s) := s.frontRead d p.phys root own p.pkgs (if many then 2 * h.pext else 0)
    let (descs, s) := s.descsRead d p.phys root own p.desc (if magic && (h.uniform || h.extentsOk) then h.entries else 0)
    match img, args, pk with
    | some img, some args, some pk =>
      let l := if many then (List.range h.pext).map (fun i => leAt pk (2 * i) 2 % 1024) else [s.pkgNum]
      ((if descs then some ⟨h, img, args, l⟩ else none, own), s)
    | _, _, _ => ((none, own), s)

/-- The page of `DONE` passes the checks of R450; a physical address has none to pass. -/
def State.doneOk (s : State) (d : Nat) (p : LPacket) (root own : Nat) : Bool × State :=
  if p.done % 8 != 0 then (false, s)
  else if p.phys then (true, s)
  else
    let (a, s) := s.frontAddr d false root own p.done true
    (a.isSome, s)

/-! ### Refusal (R428) -/

/-- Cast cores of this package, by die and core: none unless the cast has it as a member (R427). -/
def State.castCores (s : State) (p : LPacket) (l : Loaded) : List Nat :=
  if l.pkgs.contains s.pkgNum then p.dies.flatMap (fun d => p.cores.map (fun c => 16 * d + c)) else []

/-- A word of a table of the image. -/
def Loaded.word (l : Loaded) (off i : Nat) : Nat := leAt l.image (off + 4 * i) 4

def Loaded.loopW (l : Loaded) (j w : Nat) : Nat := l.word l.head.loopoff (12 * j + w)
def Loaded.winW (l : Loaded) (n w : Nat) : Nat := l.word l.head.winoff (8 * n + w)
/-- Word `w` of entry `e`: `SENT`, `VENT`, `MENT`, reserved (R49). -/
def Loaded.entW (l : Loaded) (e w : Nat) : Nat := l.word l.head.entoff (4 * e + w)

/-- Two cores' frame tables differ (R50): the table is the sixteen entries (R80). -/
def Core.framesDiffer (k j : Core) : Bool :=
  !(List.range 16).all (fun i => k.frametab.get 0 i == j.frametab.get 0 i)

/-- Cause 10: worlds and frame tables (R50, R428). -/
def State.worldBad (s : State) (w : Nat) (cores : List Nat) : Bool :=
  match cores with
  | [] => false
  | c0 :: _ =>
    let k0 := s.core c0
    let has := fun (k : Core) => (List.range (k.framectl.toNat % 32)).any (fun i =>
      bits (k.frametab.get 0 i).toNat 14 12 == w)
    cores.any (fun c =>
      let k := s.core c
      !has k || k.framesDiffer k0 || bitAt k.wlive.toNat w)

/-- Every one of some cores is exposed: a die exposes those of the lowest numbers (DESIGN CHOICE, log 49: R2 gives a
count). -/
def State.allExposed (s : State) (cores : List Nat) : Bool :=
  cores.all (fun c => decide (c % 16 < s.exposed.get 16 (dieOf c)))

/-- Scratchpad block 0 of one of some cores is not the launch's (cause 11). -/
def State.foreignTag (s : State) (own : Nat) (cores : List Nat) : Bool := cores.any (fun c => (s.core c).tag 0 != own)

/-- What the cast cores of a package alone decide of causes 6, 10 and 11 (R428). -/
def State.coresRefuse (s : State) (h : SHead) (cores : List Nat) : Bool :=
  !s.allExposed cores || (decide (h.world < 4) && s.worldBad h.world cores) || s.foreignTag h.own cores

/-- What the cast cores of other member packages say of a launch (R428, R429): a free value, for how a front end reaches
them is left open (log 50). -/
def State.otherCast (s : State) (l : Loaded) : BitVec 4 × State :=
  if l.pkgs.any (· != s.pkgNum) then (Config.otherCast s.freeIx, { s with freeIx := s.freeIx + 1 }) else (0, s)

/-- The first cause of R428 from 2 to 12 that holds, 0 for none; `o` says what holds of cast cores of other packages. -/
def State.refusalCause (s : State) (d : Nat) (p : LPacket) (l : Loaded) (o : BitVec 4) : Nat :=
  let h := l.head
  let cores := s.castCores p l
  if h.magic != 0x324B4852 then 2
  else if h.level != 2 then 3
  else if 4 ≤ h.world && h.world ≤ 0xFE then 4
  else if p.script % 128 != 0 || h.bad5 then 5
  else if p.dies.length != h.dext || p.cores.length != h.cext || !s.allExposed cores || o.getLsbD 0 then 6
  else if h.rsvd || (List.range h.entries).any (fun e => l.entW e 3 != 0) || 2 ≤ p.lfl || p.rsvd != 0 then 7
  else if !loopTableOk l.loopW h.dext h.cext || (List.range h.entries).any (fun e => l.entW e 0 == 0xFFFFFFFF) then 8
  else if !(List.range 16).all (fun n => winValid (l.winW n)) then 9
  else if h.world < 4 && (s.worldBad h.world cores || o.getLsbD 1) then 10
  else if 4096 < p.arglen || s.foreignTag h.own cores || o.getLsbD 2 then 11
  else if (1 < h.pext && !p.phys)
      || l.pkgs.any (fun q => q != s.pkgNum && (s.routeOut (d / 2 * 2) q (bitAt (s.die (d / 2 * 2)).rtsel.toNat 0)).isNone)
    then 12
  else 0

/-! ### Eligible cores (R429) -/

/-- The launch bank of a core. -/
def Core.launchBank (k : Core) (world : Nat) : Nat :=
  if world < 4 then 0 else if k.framesWorlds then 1 else if k.bank0.isNone then 0 else 1

def Core.eligible (k : Core) (world : Nat) : Bool :=
  let b := k.launchBank world
  (k.bank b).isNone && (match k.bank (1 - b) with | some x => !x.runnable | none => true)

/-! ### The rounds of arming (R429) -/

/-- The start of the first frame of a world at or after a house cue. -/
def Core.worldFrame (k : Core) (w t0 : Nat) : Nat → Nat → Nat
  | 0, t => t
  | fuel + 1, t =>
    let (o, st, en) := k.frameAt t
    if o == w && decide (t0 ≤ st) then st else if en ≤ t then t else k.worldFrame w t0 fuel en

/-- T0 of a round (R429). -/
def State.armT0 (s : State) (c world lead : Nat) : Nat :=
  if world < 4 then
    let k := s.core c
    let st := k.worldFrame world (s.cue + lead) 64 (s.cue + lead)
    let gap := st = 0 || (k.frameAt (st - 1)).1 != world
    ceil8 (st + (if gap then 16384 else 0))
  else ceil8 (s.cue + lead)

/-- The context that a launch places at a cast position (R53, R429). -/
def armCtx (l : Launch) (p : LPacket) (ld : Loaded) (pp dd cc : Nat) : Ctx :=
  let h := ld.head
  let e := if h.uniform then 0 else (pp * h.dext + dd) * h.cext + cc
  let entry := fun (w : Nat) =>
    let n := ld.entW e w
    if n = 0xFFFFFFFF then ({} : Stream) else { present := true, line := n }
  let tab := fun (n : Nat) (f : Nat → Nat) =>
    (List.range n).foldl (fun (t : Tab Word) i => if f i = 0 then t else t.put i (BitVec.ofNat 32 (f i))) []
  let lev := (List.range 6).foldl (fun (t : Tab Level) j =>
    match bits (ld.loopW j 0) 1 0 with
    | 2 => t.put j { idx := spatialDigit ld.loopW j cc }
    | 3 => t.put j { idx := spatialDigit ld.loopW j dd }
    | _ => t) []
  let x : Ctx := {
    life := .starting
    own := h.own
    script := {
      base := p.script, phys := p.phys, length := h.length, level := h.level, world := h.world, uniform := h.uniform
      ilk := bitAt h.flags 1, rdepth := h.rdepth, dext := h.dext, cext := h.cext, pext := h.pext }
    regs := { g := [(30, BitVec.ofNat 32 p.database), (31, 0x1000)], str := entry 0 }
    vs := entry 1
    ms := entry 2
    looptab := tab 72 (ld.word h.loopoff)
    wintab := tab 128 (ld.word h.winoff)
    levels := lev
    castpos := BitVec.ofNat 32 (pp * 256 + dd * 16 + cc)
    ptroot := BitVec.ofNat 64 l.root
    ctxdesc := BitVec.ofNat 64 (p.desc + 4096 * e)
    descVa := !p.phys
    launch := some l.id }
  x.setFtab ((ld.image.drop h.fmtoff).take 516)

/-- A front end sets one of its cast cores (R429 step 2). -/
def State.armCore (s : State) (l : Launch) (p : LPacket) (ld : Loaded) (m : Member) : State :=
  let v := m.pos
  let c := m.core
  let total := ld.head.pext * ld.head.dext * ld.head.cext
  let s := s.setCtx c m.bank (armCtx l p ld (bits v 17 8) (bits v 6 4) (bits v 3 0))
  let s := s.modCore c (fun k => { k with
    castctl := 1, castid := l.launchid, castroot := BitVec.ofNat 32 (l.rootDie * 1024 + l.rootPkg)
    wlive := if l.world < 4 then k.wlive ||| BitVec.ofNat 4 (2 ^ l.world) else k.wlive })
  let s := s.portWrite c (cellsOf 0x1000 ld.args) ((wordsOf 0x1000 ld.args.length).map (fun w => (w, false)))
  if l.rootPkg == s.pkgNum then
    s.modCore (16 * l.rootDie) (fun k => { k with castcnt := BitVec.ofNat 32 total })
  else s

/-- `QLSTAT` shows a refusal (R428). -/
def State.refused (s : State) (l : Launch) (cause : Nat) : State :=
  s.modDie l.die (fun k => { k with qlstat := BitVec.ofNat 32 (3 + cause * 256) })

/-- A launch is no more. -/
def State.dropLaunch (s : State) (l : Launch) : State :=
  { s with launches := s.launches.filter (fun e => e.id != l.id) }

/-- A launch is refused by the front end of its queue's die (R428, R430). -/
def State.refuseLaunch (s : State) (l : Launch) (cause : Nat) : State :=
  ((s.refused l cause).dropLaunch l).finish l l.die cause true

/-- A launch is refused by the front end of its root die (R429 step 4). -/
def State.giveUp (s : State) (l : Launch) (cause : Nat) : State :=
  ((if l.queue.isSome then s.refused l cause else s).dropLaunch l).finish l l.rootDie cause true

/-- The cast cores of this package are set for a start at `t0`, and its dies report (R429 steps 2 to 4). -/
def State.armAt (s : State) (l : Launch) (p : LPacket) (ld : Loaded) (t0 : Nat) : State :=
  let l := { l with
    state := .arming, t0 := t0, reports := [], sent := [], sceneAt := none
    image := if l.world < 4 then sm3 ld.image else [] }
  let s := s.modLaunch l.id (fun _ => l)
  let s := l.members.foldl (fun s m => s.armCore l p ld m) s
  let s := if l.packages.contains s.pkgNum then l.dies.foldl (fun s d => s.report l d 1) s else s
  s.at_ (t0 - 256) .armingAbandon { n := l.id, m := l.round }

/-- A round of arming whose root is this package (R429): T0 by the front end of the root die, and the deadline of go. -/
def State.armRound (s : State) (l : Launch) (p : LPacket) (ld : Loaded) : State :=
  let c0 := match l.members with | m :: _ => m.core | [] => 0
  let t0 := s.armT0 c0 ld.head.world (s.die l.rootDie).armlead.toNat
  let s := (s.armAt l p ld t0).at_ (t0 - 512) .armingGoDeadline { n := l.id, m := l.round }
  if l.queue.isSome then s.modDie l.die (fun k => { k with qlstat := 1 }) else s

/-- The members of a cast on this package (R427). -/
def State.castMembers (s : State) (p : LPacket) (ld : Loaded) : List Member :=
  let w := ld.head.world
  match (List.range ld.pkgs.length).find? (fun i => ld.pkgs.getD i 0 == s.pkgNum) with
  | none => []
  | some pp =>
    ((List.range p.dies.length).zip p.dies).flatMap (fun (dd, d) =>
      ((List.range p.cores.length).zip p.cores).map (fun (cc, c) =>
        ⟨16 * d + c, (s.core (16 * d + c)).launchBank w, pp * 256 + dd * 16 + cc, none, false⟩))

/-- A launch's record before arming. -/
def newLaunch (id d : Nat) (queue : Option Nat) (u : Queue) (p : LPacket) (packet : List Byte) (pkgNum : Nat) : Launch :=
  { id := id, launchid := BitVec.ofNat 32 p.launchid, die := d, queue := queue, vec := u.vec, irq := p.irq, phys := p.phys
    root := u.root.toNat, done := p.done, world := 0xFF, pext := 1, packages := [pkgNum], rootPkg := pkgNum, rootDie := d
    packet := packet, state := .arming, round := 1, t0 := 0, reports := [], sent := [], heard := [], dies := p.dies
    image := [], members := [], lost := 0, mixed := false, told := [], sceneAt := none, plain := false, last := false }

/-- A LAUNCH of another package's queue reaches this member package (R429 step 2, log 50), in `bytes` its packet, in `n`
its `QROOT`, in `width` its vector, in `m` T0 when the root is elsewhere: the cast cores here are set. A package whose
cores are not eligible or that one of causes 6, 10 and 11 turns away, that cannot read a part, or whose power delays
arming (R448), does not report. -/
def State.armElsewhere (s : State) : State :=
  let d := s.ev.die
  let p := LPacket.ofBytes s.ev.bytes
  match s.loadLaunch d p s.ev.n with
  | ((none, _), s) => s
  | ((some ld, _), s) =>
    let w := ld.head.world
    let ms := s.castMembers p ld
    let root := ld.pkgs.headD s.pkgNum
    if s.overPower || ms.isEmpty || s.coresRefuse ld.head (ms.map (·.core))
        || !ms.all (fun m => (s.core m.core).eligible w) then s
    else
      match s.launches.find? (fun l => l.launchid.toNat == p.launchid && l.state == .arming && l.rootPkg == root) with
      | some l => if root == s.pkgNum then s else s.armAt { l with members := ms, round := l.round + 1 } p ld s.ev.m
      | none =>
        let (id, s) := s.fresh
        let l := { newLaunch id d none {} p s.ev.bytes s.pkgNum with
          vec := s.ev.width, root := s.ev.n, world := w, pext := ld.head.pext, packages := ld.pkgs, rootPkg := root
          rootDie := p.dies.headD d, members := ms }
        let s : State := { s with launches := s.launches ++ [l] }
        if root == s.pkgNum then s.armRound l p ld else s.armAt l p ld s.ev.m

/-- The front end can read what arming reads of the LAUNCH packet at `a` (R450). -/
def State.launchReads (s : State) (d a root : Nat) : Bool :=
  let p := LPacket.ofBytes (toLe 64 (s.peek a 64))
  s.readable a 64 && match s.loadLaunch d p root with
    | ((some _, own), s) => (s.doneOk d p root own).1
    | _ => false

/-- Only a CXL port that is down keeps it from that (R441). -/
def State.launchDown (s : State) (d a root : Nat) : Bool :=
  !s.cxlDown.isEmpty && !s.launchReads d a root && s.portsUp.launchReads d a root

/-- QLAUNCH_WRITE (R426 to R429, R441, R448, R450): the LAUNCH packet at `value` is refused, waits, or is armed; `flag` for a
launch of another package's queue. A launch whose root is another package is armed here when that package's round reaches
this one. A read through a CXL port that is down times out first; `m` is then one more than the queue current at the write,
0 for none. -/
def execQlaunchWrite (s : State) : Out :=
  let d := s.ev.die
  let a := s.ev.value.toNat
  if s.ev.flag then .next s.armElsewhere else
  let s := s.modDie d (fun k => { k with qlaunch := s.ev.value })
  let packet := toLe 64 (s.peek a 64)
  let p := LPacket.ofBytes packet
  let q := if s.ev.granted then (if s.ev.m = 0 then none else some (s.ev.m - 1)) else (s.die d).curQ
  let u := match q with | some q => s.queue d q | none => {}
  let (id, s) := s.fresh
  let l := newLaunch id d q u p packet s.pkgNum
  .next (
    if s.overPower then s.modDie d (fun k => { k with qlstat := 4 })
    else if !s.ev.granted && s.launchDown d a u.root.toNat then
      s.afterFabtmo (16 * d) .qlaunchWrite { s.ev with granted := true, m := match q with | some q => q + 1 | none => 0 }
    else if q.isNone then
      s.refuseLaunch { l with irq := false, done := if p.phys && s.readable a 64 then p.done else noWord } 12
    else if !s.readable a 64 then (s.unpopRec d (s.frontEnd d) a 64).refuseLaunch { l with done := noWord } 1
    else match s.loadLaunch d p l.root with
      | ((none, own), s) =>
        let l := { l with world := own }
        let (ok, s) := s.doneOk d p l.root own
        s.refuseLaunch { l with done := if ok then p.done else noWord } 1
      | ((some ld, own), s) =>
        let l := { l with world := ld.head.world }
        let (ok, s) := s.doneOk d p l.root own
        if !ok then s.refuseLaunch { l with done := noWord } 1
        else
          let (o, s) := s.otherCast ld
          let cause := s.refusalCause d p ld o
          if cause != 0 then s.refuseLaunch l cause
          else
            let root := ld.pkgs.headD s.pkgNum
            let here := root == s.pkgNum
            let ms := s.castMembers p ld
            if o.getLsbD 3 || !ms.all (fun m => (s.core m.core).eligible ld.head.world) then s.modDie d (fun k => { k with qlstat := 4 })
            else
              let l := { l with
                pext := ld.head.pext, packages := ld.pkgs, rootPkg := root, rootDie := p.dies.headD d
                members := if here then ms else [] }
              let s : State := { s with launches := s.launches ++ [l] }
              if here then s.armRound l p ld else s.modDie d (fun k => { k with qlstat := 1 }))

/-- ARMING_GO_DEADLINE (R429): at T0 − 512 of round `m` the root of launch `n` sends go when every cast
die has reported, or withholds it; `flag` when a root elsewhere has sent go for a launch of a queue here. -/
def execArmingGoDeadline (s : State) : Out :=
  .next (match s.launchOf s.ev.n with
  | none => s
  | some l =>
    if s.ev.flag then
      if l.rootPkg == s.pkgNum || l.state != .arming then s
      else (s.becomeArmed l).modDie l.die (fun k => { k with qlstat := 2 })
    else if l.state == .arming && l.round == s.ev.m && l.owed.isEmpty then s.sendGo l else s)

/-- Cast cores without go empty their launch banks (R429 step 4). -/
def State.emptyCast (s : State) (l : Launch) : State :=
  l.members.foldl (fun s m =>
    match s.memberCtx l m with
    | none => s
    | some _ => (s.emptyBank m.core m.bank).modCore m.core (fun k => { k with
        wlive := if l.world < 4 then k.wlive &&& ~~~ BitVec.ofNat 4 (2 ^ l.world) else k.wlive })) s

/-- ARMING_ABANDON (R52, R428, R429): cast cores without go empty their launch banks; the round is repeated by the root, or
the launch is refused after the fourth; `flag` when a root elsewhere has refused it. A round that is repeated reads the parts
of the launch again, and refuses it with cause 1 when they cannot then be read (DESIGN CHOICE, log 80). -/
def execArmingAbandon (s : State) : Out :=
  .next (match s.launchOf s.ev.n with
  | none => s
  | some l =>
    if s.ev.flag then
      if l.rootPkg == s.pkgNum || l.state != .arming then s else ((s.emptyCast l).refused l 13).dropLaunch l
    else if l.state != .arming || l.round != s.ev.m then s
    else
      let s := s.emptyCast l
      if l.rootPkg != s.pkgNum then s
      else if 4 ≤ l.round then s.giveUp l 13
      else
        let p := LPacket.ofBytes l.packet
        match s.loadLaunch l.rootDie p l.root with
        | ((none, _), s) => s.giveUp l 1
        | ((some ld, _), s) => s.armRound { l with round := l.round + 1 } p ld)

end Sys2Proof.Machine
end

