-- ==== Sys2Proof/Machine/Sm2.lean ====
section
/-!
DEFINITION. The check of an SM2 signature over an SM3 digest (R443, R444, R447). The manual names the algorithm and does not
lay it out: the curve and the check are those of the standard (PRESUMED, log 11). A public key and a signature are 64
bytes, two numbers with the most significant byte first.
-/
namespace Sys2Proof.Machine

/-- The prime of the field, the order of the base point, the constant `b` of the curve; `a` is `p - 3`. -/
def sm2P : Nat := 0xFFFFFFFEFFFFFFFFFFFFFFFFFFFFFFFFFFFFFFFF00000000FFFFFFFFFFFFFFFF
def sm2N : Nat := 0xFFFFFFFEFFFFFFFFFFFFFFFFFFFFFFFF7203DF6B21C6052B53BBF40939D54123
def sm2B : Nat := 0x28E9FA9E9D9F5E344D5A9E4BCF6509A7F39789F515AB8F92DDBCBD414D940E93

/-- A point in Jacobian coordinates; `z = 0` for the point at infinity. -/
structure JPoint where
  x : Nat
  y : Nat
  z : Nat
deriving DecidableEq, Repr

/-- The base point. -/
def sm2G : JPoint :=
  ⟨0x32C4AE2C1F1981195F9904466A39C9948FE30BBFF2660BE1715A4589334C74C7,
    0xBC3736A2F4F6779C59BDCEE36B692153D0A9877CC62A474002DF32E52139F0A0, 1⟩

def fmul (a b : Nat) : Nat := a * b % sm2P
def fadd (a b : Nat) : Nat := (a + b) % sm2P
def fsub (a b : Nat) : Nat := (a + sm2P - b) % sm2P

/-- Twice a point. -/
def JPoint.dbl (p : JPoint) : JPoint :=
  let d := fmul p.z p.z
  let g := fmul p.y p.y
  let b := fmul p.x g
  let a := fmul 3 (fmul (fsub p.x d) (fadd p.x d))
  let x := fsub (fmul a a) (fmul 8 b)
  let t := fadd p.y p.z
  ⟨x, fsub (fmul a (fsub (fmul 4 b) x)) (fmul 8 (fmul g g)), fsub (fsub (fmul t t) g) d⟩

/-- The sum of two points. -/
def JPoint.add (p q : JPoint) : JPoint :=
  if p.z = 0 then q
  else if q.z = 0 then p
  else
    let pz := fmul p.z p.z
    let qz := fmul q.z q.z
    let u := fmul p.x qz
    let v := fmul p.y (fmul q.z qz)
    let h := fsub (fmul q.x pz) u
    let r := fsub (fmul q.y (fmul p.z pz)) v
    if h = 0 then (if r = 0 then p.dbl else ⟨1, 1, 0⟩)
    else
      let h2 := fmul h h
      let h3 := fmul h h2
      let w := fmul u h2
      let x := fsub (fsub (fmul r r) h3) (fmul 2 w)
      ⟨x, fsub (fmul r (fsub w x)) (fmul v h3), fmul (fmul p.z q.z) h⟩

/-- A multiple of a point, from the bits of `k` below bit `n`. -/
def JPoint.mulBits (p : JPoint) (k : Nat) : Nat → JPoint → JPoint
  | 0, acc => acc
  | n + 1, acc => p.mulBits k n (if bitAt k n then acc.dbl.add p else acc.dbl)

/-- `k` times a point. -/
def JPoint.mul (p : JPoint) (k : Nat) : JPoint := p.mulBits k 256 ⟨1, 1, 0⟩

/-- A power in the field, from the bits of the exponent below bit `n`. -/
def fpow (a e : Nat) : Nat → Nat → Nat
  | 0, acc => acc
  | n + 1, acc => fpow a e n (if bitAt e n then fmul (fmul acc acc) a else fmul acc acc)

/-- The affine first coordinate of a point. -/
def JPoint.affX (p : JPoint) : Nat := fmul p.x (fpow (fmul p.z p.z) (sm2P - 2) 256 1)

/-- The point lies on the curve. -/
def sm2OnCurve (x y : Nat) : Bool :=
  decide (x < sm2P) && decide (y < sm2P)
    && fmul y y == fadd (fsub (fmul x (fmul x x)) (fmul 3 x)) sm2B

/-- An SM2 signature over a digest verifies under a public key. -/
def sm2Verify (key digest sig : List Byte) : Bool :=
  let px := ofBe (key.take 32)
  let py := ofBe (key.drop 32)
  let r := ofBe (sig.take 32)
  let s := ofBe (sig.drop 32)
  let t := (r + s) % sm2N
  let q := (sm2G.mul s).add (JPoint.mul ⟨px, py, 1⟩ t)
  key.length == 64 && sig.length == 64 && sm2OnCurve px py
    && r != 0 && decide (r < sm2N) && s != 0 && decide (s < sm2N) && t != 0 && q.z != 0
    && (ofBe digest + q.affX) % sm2N == r

end Sys2Proof.Machine
end

