-- ==== Sys2Proof/Machine/Board.lean ====
section
/-!
DEFINITION. The module: resets of cores, dies and the package (R373), the boot steps (R444 to R446), alignment of house cues
(R370), power and temperature (R448), the management sideband and attestation (R443, R447).
-/
namespace Sys2Proof.Machine

/-! ### Resets -/

/-- A core is reset (R373): its cast core leaves, its banks empty, its registers take their reset values, and it is held in
reset. -/
def State.resetCore (s : State) (c : Nat) : State :=
  let s := s.launches.foldl (fun s l =>
    match l.members.find? (fun m => m.core == c && !m.left) with
    | some m => match s.launchOf l.id with
      | some l => s.leaveCast l m
      | none => s
    | none => s) s
  let s := (s.emptyBank c 0).emptyBank c 1
  let s := { s with
    accs := s.accs.filter (fun a => a.core != c)
    fences := s.fences.filter (fun a => a.core != c)
    tokWaits := s.tokWaits.filter (fun a => a.core != c)
    ports := s.ports.filter (fun r => !(r.core == c && r.act.isNone)) }
  let s := s.modDie (dieOf c) (fun k => { k with pool := k.pool.filter (fun e => e.2.core != c) })
  s.setCore c { outOfService := true, shcode := (s.core c).shcode }

/-- The cores of a die. -/
def dieCores (d : Nat) : List Nat := upFrom (16 * d) 16

/-- The registers of a die at their reset values, `FABTMO` and `ARMLEAD` as the configuration record gives them (R445). -/
def Flash.die (f : Flash) : Die := { fabtmo := f.cfgFabtmo, armlead := f.cfgArmlead }

/-- DIE_RESET (R373): core `core` when `flag`, else die `die` with its cores, enters reset, or leaves it when `n` is 1; while
the module holds in reset all of it stays there (R448). -/
def execDieReset (s : State) : Out :=
  let cs := if s.ev.flag then [s.ev.core] else dieCores s.ev.die
  .next (
    if s.tripped then s
    else if s.ev.n = 1 then cs.foldl (fun s c => s.modCore c (fun k => { k with outOfService := false })) s
    else
      let s := cs.foldl State.resetCore s
      if s.ev.flag then s
      else
        let me := pairKey s.pkgNum s.ev.die
        let s := { s with dies := s.dies.map (fun (e : Nat × Die) =>
          (e.1, { e.2 with seqOut := e.2.seqOut.del me, seqIn := e.2.seqIn.del me })) }
        s.setDie s.ev.die s.flash.die)

/-- Every cast core leaves; completion words are not written (R448). -/
def State.allLeave (s : State) : State :=
  let s := { s with launches := s.launches.map (fun (l : Launch) => { l with done := noWord, irq := false }) }
  s.launches.foldl (fun s l => l.members.foldl (fun s m =>
    if m.left then s else match s.launchOf l.id with
      | some l => s.leaveCast l m
      | none => s) s) s

/-- What the world outside the package brings about, by itself or as a packet of another package. -/
def outsideEvent (pkg : Nat) (i : Instr) (a : EvArg) : Bool :=
  (match a.pkt with | some p => p.srcPkg != pkg | none => a.req.kind == 5 || a.req.pkg != pkg) ||
  match i with
  | .kick | .qrepair => true
  | .registerWrite => a.m == 2
  | .qlaunchWrite | .armingGoDeadline | .armingAbandon => a.flag
  | .packageReset | .dieReset | .functionLevelReset | .errorSelfTest | .linkDown | .linkEstablish => true
  | .flitCrcFailure | .cxlPortDown | .powerLimitExceeded | .powerLimitCleared | .thermalWarning => true
  | .thermalTrip | .thermalTripRelease | .mctpControl | .pldmBaseDiscovery | .pldmPlatformMonitoring => true
  | .getVersion | .getCapabilities | .negotiateAlgorithms | .getDigests | .getCertificate => true
  | .getMeasurements | .unsupportedMessage => true
  | _ => false

/-- A byte of this package's cluster SRAM (R110). -/
def ownSram (pkg a : Nat) : Bool := decide (pkg * 2 ^ 41 ≤ a) && decide (a < pkg * 2 ^ 41 + 0x100000000)

/-- The package with every register, table and store of its own at its reset value (log 5, log 43). Host memory, the pool,
the flash, the identity store's minimum version, what has left the package and what comes from outside stand. -/
def State.cold (s : State) : State :=
  { State.reset with
    phys := s.phys.filter (fun c => !ownSram s.pkgNum c.1)
    physMarks := s.physMarks.filter (fun c => !ownSram s.pkgNum (4 * c.1))
    pkgNum := s.pkgNum
    exposed := s.exposed
    msix := s.msix
    outbox := s.outbox
    mailbox := s.mailbox
    flash := s.flash
    minVersion := s.minVersion
    rootDigest := s.rootDigest
    hostReads := s.hostReads
    linkOut := s.linkOut
    overPower := s.overPower
    ctlImages := s.ctlImages
    agenda := (s.agenda.filter (fun e => outsideEvent s.pkgNum e.2.1 e.2.2)).map (fun e => (e.1 - s.cue, e.2))
    delays := s.delays
    freeIx := s.freeIx
    nextId := s.nextId
    ev := s.ev }

/-! ### Boot (R446) -/

/-- Steps that may be skipped. -/
def optionalStep (n : Nat) : Bool := n == 6 || n == 8 || n == 10

/-- A byte of the step record. -/
def Flash.step (f : Flash) (n : Nat) : Nat := (f.record.get 0xFF (n - 1)).toNat
def Flash.setStep (f : Flash) (n v : Nat) : Flash := { f with record := f.record.put (n - 1) (BitVec.ofNat 8 v) }

/-- Done or skipped. -/
def stepOver (v : Nat) : Bool := v == 0x3F || v == 0x0F || v == 0x07

/-- The signature of the configuration record fails: it is under the vendor root key, which comes with the record and
whose digest the identity store holds (R444). -/
def Flash.cfgForged (f : Flash) (root : List Byte) : Bool :=
  sm3 f.cfgKey != root || !sm2Verify f.cfgKey (sm3 f.cfgBytes) f.cfgSig

/-- The signature of the image fails: it is under the key that the record names (R444). -/
def Flash.imgForged (f : Flash) : Bool := !sm2Verify f.imgKey (sm3 f.imgBytes) f.imgSig

/-- Verification refuses the record or the image (R444). -/
def Flash.refused (f : Flash) (root : List Byte) (min n : Nat) : Bool :=
  (n == 1 && (f.cfgForged root || decide (f.cfgVersion < min)))
    || (n == 2 && (f.imgForged || decide (f.imgVersion < min)))

/-- A byte of the SPI flash (R444): the step record, the configuration record and the image at their offsets; ones where
nothing stands. -/
def Flash.byteAt (f : Flash) (a : Nat) : Byte :=
  if a < 0x1000 then f.record.get 0xFF a
  else if a < 0x10000 then f.cfgBytes.getD (a - 0x1000) 0xFF
  else f.imgBytes.getD (a - 0x10000) 0xFF

/-- One step: its state afterwards and the code that stops the boot. -/
def Flash.runStep (f : Flash) (root : List Byte) (min n : Nat) : Nat × Option Nat :=
  let v := f.step n
  if v = 0xFF then
    if f.failPrimary.contains n || f.refused root min n then (0x7F, some (0x20 + n)) else (0x3F, none)
  else if v = 0x7F then
    if f.failAlternate.contains n || f.refused root min n then (0x1F, some (0x20 + n)) else (0x0F, none)
  else if v = 0x1F then
    if optionalStep n then (0x07, none) else (0x1F, some (0x10 + n))
  else (v, none)

/-- The steps in order, until one stops the boot. -/
def Flash.runSteps (f : Flash) (root : List Byte) (min : Nat) : List Nat → Flash × Option Nat
  | [] => (f, none)
  | n :: ns =>
    match f.runStep root min n with
    | (v, some code) => (f.setStep n v, some code)
    | (v, none) => (f.setStep n v).runSteps root min ns

/-- The flash as a boot begins: a record of which every step is done or skipped is erased. -/
def Flash.begun (f : Flash) : Flash :=
  if (upFrom 1 10).all (fun n => stepOver (f.step n)) then { f with record := [] } else f

/-- The boot: the record after it and the code of a stopped boot. -/
def Flash.boot (f : Flash) (root : List Byte) (min : Nat) : Flash × Option Nat := f.begun.runSteps root min (upFrom 1 10)

/-- A step is done. -/
def Flash.done (f : Flash) (n : Nat) : Bool := f.step n == 0x3F || f.step n == 0x0F

/-- The stagehand of a core starts the firmware at `SENT` of its first entry (R49, log 6). -/
def State.startCp (s : State) (c : Nat) : State :=
  let f := s.flash
  let h := SHead.ofBytes f.imgBytes
  let line := if h.magic = 0x324B4852 then leAt f.imgBytes h.entoff 4 else 0
  s.modCore c (fun k => { k with
    shAwake := true
    sh := { k.sh with str := { present := true, line := line, prev := s.cue, atRef := true } } })

/-- The rack and hall links in `LINKDN`, bits 5:2. -/
def farLinks : Nat := 0x3C

/-- What a step that is done leaves (R445, R446): the record's registers; cluster SRAM tested, hence at its reset
contents; the core count of each die that the test finds (R2); the pool routes and the ports that may train; the firmware
and the command processors. Spare maps are out of sight (R2), `LINKDN` and `bootCode` say what steps 5, 7 and 8 train, and
step 10 aligns this package alone, which has one house cue (log 71). -/
def State.stepEffect (s : State) (n : Nat) : State :=
  let f := s.flash
  if n = 1 then
    (List.range 8).foldl (fun (s : State) d => s.setDie d f.die) { s with pkgNum := f.cfgPkg, i3c := f.cfgI3c }
  else if n = 3 then
    { s with
      phys := s.phys.filter (fun c => !ownSram s.pkgNum c.1)
      physMarks := s.physMarks.filter (fun c => !ownSram s.pkgNum (4 * c.1)) }
  else if n = 4 then
    { s with
      exposed := (List.range 8).foldl (fun (t : Tab Nat) d => t.put d (16 - min 16 (Config.coresLost s.freeIx d))) []
      freeIx := s.freeIx + 1 }
  else if n = 6 then
    { s with
      poolRoute := f.cfgPool
      cxlDown := (List.range 16).filter (fun p => !bitAt f.cfgPorts p) }
  else if n = 9 then
    let at8 := f.step 9 == 0x0F
    let s := { s with phys := s.phys.replace f.imgAddr f.imgBytes }
    let s := (List.range 128).foldl (fun (s : State) c =>
      s.modCore c (fun k => { k with shcode := BitVec.ofNat 64 f.imgAddr })) s
    (List.range 8).foldl (fun (s : State) d =>
      (s.modDie d (fun k => { k with fbowner := if at8 then 8 else 0 })).startCp (16 * d + if at8 then 8 else 0)) s
  else s

/-- What stands of a step that an earlier boot has done, which is not run again: its registers, routes and firmware
(log 71); the memory that step 3 tested and the core counts that step 4 found are as they were. -/
def State.stepStands (s : State) (n : Nat) : State := if n = 3 ∨ n = 4 then s else s.stepEffect n

/-- The enabled ports whose training failed: step 6 was begun and is not done (R441, R446). -/
def Flash.untrained (f : Flash) : List Nat :=
  let v := f.step 6
  if v = 0x7F || v = 0x1F || v = 0x07 then setBits 16 f.cfgPorts else []

/-- Rack and hall links are not established: step 8 is not done. They stay down until they are (R447; DESIGN CHOICE,
log 71). -/
def State.unlink (s : State) : State :=
  if s.flash.done 8 then s
  else (List.range 8).foldl (fun (s : State) d =>
    s.modDie d (fun k => { k with linkdn := k.linkdn ||| BitVec.ofNat 32 farLinks })) s

/-- The boot of a package held in reset. A port that fails training is recorded (R441). -/
def State.bootUp (s : State) : State :=
  let old := s.flash.begun
  let (f, code) := s.flash.boot s.rootDigest s.minVersion
  let s := { s with flash := f, cxlDown := List.range 16 }
  let done := (upFrom 1 10).filter f.done
  let s := (done.foldl (fun s n => if old.done n then s.stepStands n else s.stepEffect n) s).unlink
  let s := f.untrained.foldl State.cxlLost s
  match code with
  | none => { s with bootCode := 0, minVersion := max s.minVersion f.imgVersion }
  | some code => { s with bootCode := code }

/-- PACKAGE_RESET (R373, R446): cast cores leave, the package takes its reset values, and the boot steps run; while the
module holds in reset nothing boots (R448). -/
def execPackageReset (s : State) : Out :=
  .next (
    if s.tripped then s
    else s.allLeave.cold.bootUp)

/-! ### Alignment (R370) -/

/-- ALIGNC_COMPLETE: `CUE` takes the largest among the reachable packages of scope `width`, never moving backward; token `n`
of core `core` completes, failed with cause 4 unless every package was reached (`flag`). -/
def execAligncComplete (s : State) : Out :=
  let t := if s.ev.width = 0 then s.cue else max s.cue (Config.otherCues s.freeIx)
  let s := { s with cue := t, freeIx := s.freeIx + 1 }
  .next (s.shDone s.ev.core s.ev.n s.ev.m (if s.ev.flag then 0 else 4))

/-! ### Power and temperature (R448) -/

/-- POWER_LIMIT_EXCEEDED: the power averaged over 10 ms, `n` watts, exceeds the configured limit (R445). -/
def execPowerLimitExceeded (s : State) : Out :=
  .next { s with overPower := s.overPower || decide (s.flash.cfgPower < s.ev.n) }

/-- POWER_LIMIT_CLEARED: it no longer does. -/
def execPowerLimitCleared (s : State) : Out :=
  .next { s with overPower := s.overPower && decide (s.flash.cfgPower < s.ev.n) }

/-- A message leaves by the sideband: its head and what the manual does not lay out as free bytes, then the data that
the manual names (R443, log 42). -/
def State.answer (s : State) (about data : List Byte) : State :=
  { s with mailbox := (Config.sidebandBody s.freeIx about ++ data) :: s.mailbox, freeIx := s.freeIx + 1 }

/-- THERMAL_WARNING: a PLDM event for die `die`. -/
def execThermalWarning (s : State) : Out := .next (s.answer [] [BitVec.ofNat 8 s.ev.die])

/-- THERMAL_TRIP: every core stops and leaves its cast, and the module holds in reset. -/
def execThermalTrip (s : State) : Out :=
  let t := s.allLeave.cold
  .next { t with
    tripped := true
    cores := (List.range 128).map (fun c => (c, ({ outOfService := true } : Core))) }

/-- THERMAL_TRIP_RELEASE: the module leaves reset, and boots. -/
def execThermalTripRelease (s : State) : Out :=
  .next (if s.tripped then ({ s with tripped := false } : State).at_ s.cue .packageReset {} else s)

/-! ### The sideband (R443, R447) -/

/-- MCTP_CONTROL. -/
def execMctpControl (s : State) : Out := .next (s.answer s.ev.bytes [])

/-- PLDM_BASE_DISCOVERY: type 0. -/
def execPldmBaseDiscovery (s : State) : Out := .next (s.answer s.ev.bytes [])

/-- A sensor's reading (R448): the temperature of a die, the power of the module, inlet temperature and flow of the
coolant, as free values. -/
def State.sensors (s : State) : List Byte := (List.range 11).flatMap (fun i => toLe 4 (Config.sensor s.freeIx i).toNat)

/-- PLDM_PLATFORM_MONITORING: type 2: the sensors, then the boot status of R446, its code and the ten states. -/
def execPldmPlatformMonitoring (s : State) : Out :=
  .next (s.answer s.ev.bytes
    (s.sensors ++ [BitVec.ofNat 8 s.bootCode] ++ (upFrom 1 10).map (fun n => BitVec.ofNat 8 (s.flash.step n))))

/-- GET_VERSION: SPDM 1.2. -/
def execGetVersion (s : State) : Out := .next (s.answer s.ev.bytes [0x12])

/-- GET_CAPABILITIES. -/
def execGetCapabilities (s : State) : Out := .next (s.answer s.ev.bytes [])

/-- NEGOTIATE_ALGORITHMS: signatures by SM2 and digests by SM3 only, as SPDM names them (PRESUMED, log 42). -/
def execNegotiateAlgorithms (s : State) : Out := .next (s.answer s.ev.bytes (toLe 4 0x200 ++ toLe 4 0x40))

/-- GET_DIGESTS: the SM3 digest of the certificate chain. -/
def execGetDigests (s : State) : Out := .next { s with mailbox := sm3 Config.certificate :: s.mailbox }

/-- GET_CERTIFICATE. -/
def execGetCertificate (s : State) : Out := .next { s with mailbox := Config.certificate :: s.mailbox }

/-- A field of a report, cut or filled with zeros to its size. -/
def sized (n : Nat) (l : List Byte) : List Byte := (l ++ List.replicate n 0).take n

/-- The attestation report (R447). -/
def State.attestation (s : State) (nonce : List Byte) : List Byte :=
  sized 32 nonce ++ sm3 s.flash.imgBytes ++ sm3 s.flash.cfgBytes
    ++ (List.range 4).flatMap (fun w => sized 32 (s.wmeas.get [] w))
    ++ toLe 4 (s.feature 4).toNat ++ toLe 4 (s.feature 5).toNat
    ++ toLe 4 s.flash.imgVersion ++ toLe 4 0

/-- GET_MEASUREMENTS (R447): the report and the identity key's signature over its SM3 digest. -/
def execGetMeasurements (s : State) : Out :=
  let r := s.attestation s.ev.bytes
  .next { s with mailbox := (r ++ Config.sm2Sign s.freeIx (sm3 r)) :: s.mailbox, freeIx := s.freeIx + 1 }

/-- The unsupported-command response of a message's protocol, by its MCTP message type (PRESUMED, log 42): SPDM's error
and its code, else the completion code of MCTP control and PLDM. -/
def unsupportedCode (bytes : List Byte) : List Byte := if (bytes.headD 0).toNat % 128 = 5 then [0x7F, 0x07] else [0x05]

/-- Every other message: the unsupported-command response of its protocol. -/
def execUnsupportedMessage (s : State) : Out := .next (s.answer s.ev.bytes (unsupportedCode s.ev.bytes))

end Sys2Proof.Machine
end

