-- ==== Sys2Proof/Machine/Matrix.lean ====
section
/-!
DEFINITION. The words of the matrix stream (R314 to R338): operands and their bank rows, dense steps and
summation by parts, latches, tiles, the format table, tokens. A word's scratchpad accesses fill every bank
of a group in each of their cycles but the last, so no program write falls between them and they read what
the issue cycle shows (log 15).
-/
namespace Sys2Proof.Machine

/-! ### Addresses (R172, R315, R316, R319) -/

/-- An operand address as R172 sums it. -/
def State.matSum (s : State) (base : Nat) (inc : BitVec 36) (isc : BitVec 2) : Int :=
  (List.range 6).foldl (fun (a : Int) j =>
    a + sext (bits inc.toNat (6 * j + 5) (6 * j)) 6 * (s.me.index j : Nat) * ((128 * 8 ^ isc.toNat : Nat) : Int)) base

/-- `a_addr`, exact. -/
def State.aAddr (s : State) (w : MWord) : Int := s.matSum (128 * w.abase.toNat) w.ainc w.aisc
/-- `b_addr`, exact. -/
def State.bAddr (s : State) (w : MWord) : Int := s.matSum (0x400000 + 128 * w.bbase.toNat) w.binc w.bisc

/-- An extent of `n` bytes leaves the 4 MiB of its group: the address of the operand (R316). -/
def leaves (lo : Nat) (a : Int) (n : Nat) : Option Nat :=
  if a < lo || (lo : Int) + 0x400000 < a + n then some (wrap a 32) else none

/-- An exact address as an address of core-local memory; one below zero lies in no block. -/
def spAddr (a : Int) : Nat := if a < 0 then 0x800000 else a.toNat

/-- Bank rows in ascending order, 32 in a cycle from issue (R319). -/
def matRows (rows : List Nat) : List Access := ((List.range rows.length).zip rows).map (fun (k, r) => ⟨k / 32, r, false⟩)

/-- The bank rows of `n` bytes. -/
def runRows (a n : Nat) : List Nat := upFrom (a / 128) (n / 128)

/-- A scratchpad operand of a matrix word: its address, the first byte past its extent, the addresses of the
stored rows of its full shape, bytes of a row. -/
structure MOperand where
  addr : Int
  extent : Nat
  rows : List Nat
  len : Nat

/-- Rows of an A operand (R315, R333, R334). -/
def State.aOperand (s : State) (w : MWord) (len : Nat) : MOperand :=
  let a := s.aAddr w
  { addr := a, extent := 128 * w.astr.toNat * 63 + len, len := len
    rows := (List.range 64).map (fun i => spAddr (a + (128 * w.astr.toNat * i : Nat))) }

/-- What an operand of group A asks for of R319: its group, its bank rows. -/
def MOperand.formA (o : MOperand) : Form :=
  match leaves 0 o.addr o.extent with
  | some a => { outside := some a }
  | none => { rows := matRows (ascending (o.rows.flatMap (fun r => runRows r o.len))) }

/-- `n` bytes of group B. -/
def State.bForm (s : State) (w : MWord) (n : Nat) : Form :=
  let b := s.bAddr w
  match leaves 0x400000 b n with
  | some a => { outside := some a }
  | none => { rows := matRows (runRows b.toNat n) }

/-! ### Valid counts (R318) -/

def State.nRows (s : State) (w : MWord) : Nat := min (s.me.nAt w.nr.toNat) 64
def State.nCols (s : State) (w : MWord) : Nat := min (s.me.nAt w.nc.toNat) 64

/-- The valid elements, in ascending row and then column. -/
def State.validTile (s : State) (w : MWord) : List (Nat × Nat) :=
  let cols := List.range (s.nCols w)
  (List.range (s.nRows w)).flatMap (fun i => cols.map (fun j => (i, j)))

/-- Key of an element of the word's tile. -/
def tkey (w : MWord) (i j : Nat) : Nat := 4096 * w.tile.toNat + 64 * i + j

/-- Some element is valid. -/
def State.anyValid (s : State) (w : MWord) : Bool := s.nRows w != 0 && s.nCols w != 0

/-! ### What a word touches (R323) -/

/-- The bytes of 128-byte chunks read; a chunk outside the scratchpad holds none (R316 refuses its word later). -/
def chunkForm (chunks : List Nat) : Form :=
  let chunks := chunks.filter (fun a => decide (a < 0x800000))
  { touch := distinct (chunks.map blockOf)
    bytes := chunks.map (fun a => (a, 128))
    blocks := chunks.map (fun a => (a, 128)) }

/-- Lowest of the poisoned words among those that a test selects by word number. -/
def State.dirtyWord (s : State) (sel : Nat → Bool) : Option (Nat × Nat) :=
  ((s.core s.cur.core).spMarks.find? (fun e => e.2 && sel e.1)).map (fun e => (4 * e.1, 0))

/-- Word number `n` holds bytes of operand `o` that elements with index below `cnt` need: whole stored rows,
or of every stored row the elements that R317 delivers to them. -/
def MOperand.needs (o : MOperand) (tr : Bool) (width cnt n : Nat) : Bool :=
  ((List.range 64).zip o.rows).any (fun (r, a) =>
    decide (a ≤ 4 * n) && decide (4 * n < a + o.len)
      && (if tr then
            let per := 32 / width
            let q := (4 * n - a) / 4
            decide (cnt != 0) && (upFrom (q * per) per).any (fun e => decide (e % 64 < cnt))
          else decide (r < cnt)))

/-- The stored rows that `cnt` delivered rows need (R317, R318). -/
def MOperand.needed (o : MOperand) (tr : Bool) (cnt : Nat) : List Nat :=
  if tr then (if cnt = 0 then [] else o.rows) else o.rows.take cnt

/-! ### Tokens (R322) -/

/-- What every matrix word asks for: its tokens, no class 15 (R123), its occupancy (R320). -/
def matForm (w : MWord) (occ : Nat) : Form :=
  { illegal := w.cls == 15
    toks := ([w.tc0.toNat, w.tc1.toNat, w.tc2.toNat]).filter (· != 0)
    prod := w.tp.toNat
    consumed := countUse w.nr.toNat ++ countUse w.nc.toNat
    occ := occ }

/-- The token a word produces, complete `k` cycles after issue. -/
def State.matTok (s : State) (w : MWord) (k : Nat) : State :=
  if w.tp = 0 then s
  else
    let (i, s) := s.fresh
    (s.modRegs (·.produce w.tp.toNat i)).addPend 2 k (.tok w.tp.toNat i)

/-! ### The format table (R42, R43, R31) -/

/-- The slot a word selects; none when `FTHDR` is contrary to R43. -/
def State.fmtSlot (s : State) (w : MWord) : Option Nat :=
  let h := s.me.fthdr.toNat
  let lev := bits h 10 8
  if lev = 7 || bits h 31 11 != 0 || bits h 7 6 != 0 then none
  else
    let row := (h % 64 + (if lev = 6 then 0 else s.me.index lev)) % 64
    some (s.me.ftab.get 0 (4 * row + w.slot.toNat)).toNat

/-- The 8-bit types of R31. -/
def quarterTy (t : ElemTy) : Bool := t.isQ8 || t == .i8 || t == .n8

/-- The pairs of R31 without records. -/
def pairOk (a b : ElemTy) : Bool :=
  (quarterTy a && quarterTy b) || (a == .bf16 && b == .bf16) || (a == .f16 && b == .f16) || (a.isI4 && b.isI4)

/-- A slot's A type and B type. -/
def slotA (v : Nat) : ElemTy := .ofCode (bits v 15 12)
def slotB (v : Nat) : ElemTy := .ofCode (bits v 11 8)

/-- A slot MDOT accepts (R325). -/
def denseSlot (v : Nat) : Bool := bits v 7 0 == 0 && pairOk (slotA v) (slotB v)
/-- A slot MSBP accepts (R327). -/
def recSlot (v : Nat) : Bool := bits v 5 0 == 0 && bitAt v 7 && bits v 11 8 == 0 && quarterTy (slotA v)
/-- Bytes of a record slot. -/
def slotZ (v : Nat) : Nat := if bitAt v 6 then 64 else 32

/-! ### Operands as delivered (R315, R317) -/

/-- Row `i` of an operand of width `w` from its 64 stored rows. -/
def delivered (tr : Bool) (w : Nat) (stored : List Nat) (i : Nat) : List Nat :=
  if tr then (List.range (1024 / w)).map (fun k => elemAt (stored.getD (k % 64) 0) w (64 * (k / 64) + i))
  else
    let r := stored.getD i 0
    (List.range (1024 / w)).map (fun k => elemAt r w k)

/-- Such a row as four groups of values. -/
def groupsOf (flush tr : Bool) (t : ElemTy) (stored : List Nat) (i : Nat) : List (List Fp) :=
  chunksOf (256 / t.width) 4 ((delivered tr t.width stored i).map (operandEl flush t))

/-- The stored rows of a scratchpad operand as numbers. -/
def State.stored (s : State) (rows : List Nat) : List Nat := rows.map (fun a => ofLe (s.spBytes 2 a 128))

/-- Latch number of `BSRC`, when it names one. -/
def bLatch (w : MWord) : Option Nat := if w.bsrc.toNat < 2 then none else some (w.bsrc.toNat - 2)

/-- `n` bytes of the B operand from offset `o`, as a number; of a latch that an MLATCH fills, the whole old latch until the
bytes stand (R330; DESIGN CHOICE, log 15). -/
def State.bBytes (s : State) (w : MWord) (o n : Nat) : Nat :=
  match (bLatch w) with
  | some k => ofLe (s.me.klatch.readN (16384 * k + o) n)
  | none => ofLe (s.spBytes 2 ((s.bAddr w).toNat + o) n)

/-! ### Steps (R325 to R329) -/

/-- The overwrite bit: `OVW`, or a tile that MRETZ left fresh (R326, R332). -/
def State.ovOf (s : State) (w : MWord) : Bool := w.ovw || s.me.armed.getLsbD w.tile.toNat

/-- A word whose update follows takes a fresh tile's flag: it is used up at issue and reads as 0 after the
update (R332). -/
def State.useFresh (s : State) (w : MWord) : State :=
  let t := w.tile.toNat
  if s.me.armed.getLsbD t then
    (s.modMe (fun x => { x with armed := x.armed &&& ~~~ BitVec.ofNat 16 (2 ^ t) })).addPend 2 12 (.freshClr t)
  else s

/-- What a step asks for besides its slot: `recs` is 0 for a plain B operand, else the bytes of a record. -/
def State.stepForm (s : State) (w : MWord) (ta tb : ElemTy) (recs : Nat) : Form :=
  let a := s.aOperand w 128
  let nr := s.nRows w
  let nc := s.nCols w
  let any := s.anyValid w
  let col := if recs = 0 then 128 else 4 * recs
  let size := 64 * col
  let b := (s.bAddr w).toNat
  let plain : MOperand := { addr := s.bAddr w, extent := 8192, len := 128, rows := (List.range 64).map (fun j => spAddr (s.bAddr w + (128 * j : Nat))) }
  let used := if recs = 0 then plain.needed w.btr nc else (List.range (nc * col / 128)).map (fun i => spAddr (s.bAddr w + (128 * i : Nat)))
  let bf : Form := match (bLatch w) with
    | some k => {
        touch := [26 + k]
        reads := [codeLatch k]
        consumed := if nc = 0 then [] else
          let tr := s.me.ktr.getLsbD k
          let o : MOperand := { addr := 0, extent := 0, len := 128, rows := (List.range 64).map (128 * ·) }
          ((List.range (size / 4)).filter (fun n =>
            if recs = 0 then o.needs tr tb.width nc n else decide (4 * n < nc * col))).map (fun n =>
              codeLatch (4096 * k + n)) }
    | none => { (s.bForm w size).join (chunkForm used) with
        poisoned := s.dirtyWord (fun n =>
          if recs = 0 then plain.needs w.btr tb.width nc n
          else decide (b ≤ 4 * n) && decide (4 * n < b + nc * col)) }
  let af := { a.formA.join (chunkForm (a.needed w.atr nr)) with
    poisoned := s.dirtyWord (a.needs w.atr ta.width nr) }
  let ov := s.ovOf w
  Form.joinAll [matForm w 4, af, bf, {
    wtouch := if any then [10 + w.tile.toNat] else []
    consumed := if any && !ov then (s.validTile w).map (fun (i, j) => codeTile (tkey w i j)) else [] }]

/-- A step's update, `gs i j` its group results (R33, R321). -/
def State.stepUpdate (s : State) (w : MWord) (gs : Nat → Nat → List Nat) : State :=
  let s' :=
    if s.anyValid w then
      (s.useFresh w).addPend 2 12 (.tileAcc w.tile.toNat (s.ovOf w) s.flush
        ((s.validTile w).map (fun (i, j) => (tkey w i j, (gs i j).map (BitVec.ofNat 32)))))
    else s
  s'.matTok w 12

/-- The B operand of a step is transposed: the flag of its latch, or the word's bit (R317). -/
def State.bTransposed (s : State) (w : MWord) : Bool :=
  match bLatch w with | some k => s.me.ktr.getLsbD k | none => w.btr
/-- The four groups of row `i` of A and of column `j` of B. -/
def State.aGroups (s : State) (w : MWord) (ta : ElemTy) : List (List (List Fp)) :=
  (List.range (s.nRows w)).map (groupsOf s.flush w.atr ta (s.stored (s.aOperand w 128).rows))
def State.bGroups (s : State) (w : MWord) (tb : ElemTy) (tr : Bool) : List (List (List Fp)) :=
  (List.range (s.nCols w)).map (groupsOf s.flush tr tb ((List.range 64).map (fun j => s.bBytes w (128 * j) 128)))
/-- The group results of MDOT for element `(i, j)`, from the groups of all rows and columns (R326). -/
def dotResults (flush : Bool) (ga gb : List (List (List Fp))) (i j : Nat) : List Nat :=
  ((ga.getD i []).zip (gb.getD j [])).map (fun (a, b) => denseGroup flush a b)

/-- MDOT (R325, R326). -/
def execMdot (w : MWord) (s : State) : Out :=
  match s.fmtSlot w with
  | none => s.engine 2 { illegal := true } id
  | some v =>
    if !denseSlot v then s.engine 2 { illegal := true } id
    else
      let tr := s.bTransposed w
      s.engine 2 (s.stepForm w (slotA v) (slotB v) 0) (fun s =>
        let ga := s.aGroups w (slotA v)
        let gb := s.bGroups w (slotB v) tr
        s.stepUpdate w (dotResults s.flush ga gb))

/-- The record of column `j` and group `g` (R315). -/
def State.bRecord (s : State) (w : MWord) (z j g : Nat) : Nat := s.bBytes w (4 * z * j + z * g) z

/-- What MSBP asks for with slot `v`: the first record of another size is the record-format fault (R329). -/
def msbpForm (w : MWord) (v : Nat) (s : State) : Form :=
  let z := slotZ v
  let f := s.stepForm w (slotA v) .n8 z
  let bad := (List.range (s.nCols w)).findSome? (fun j =>
    ((List.range 4).find? (fun g => recSize (recCode (s.bRecord w z j g)) != some z)).map (fun g =>
      (0x0D, j, recCode (s.bRecord w z j g))))
  { f with last := if f.outside.isSome then none else bad }

/-- The records of every column. -/
def State.bRecords (s : State) (w : MWord) (z : Nat) : List (List Nat) :=
  (List.range (s.nCols w)).map (fun j => (List.range 4).map (s.bRecord w z j))
/-- The group results of MSBP for element `(i, j)`, from the groups of all rows and the records (R328). -/
def partsResults (flush : Bool) (ga : List (List (List Fp))) (rs : List (List Nat)) (i j : Nat) : List Nat :=
  ((ga.getD i []).zip (rs.getD j [])).map (fun (a, r) => roundF32 flush (recValue flush r a))

/-- The latch that MSBP names holds transposed data (R327). -/
def State.latchTransposed (s : State) (w : MWord) : Bool :=
  match bLatch w with | some k => s.me.ktr.getLsbD k | none => false

/-- MSBP (R327 to R329). -/
def execMsbp (w : MWord) (s : State) : Out :=
  match s.fmtSlot w with
  | none => s.engine 2 { illegal := true } id
  | some v =>
    if !recSlot v || s.latchTransposed w then s.engine 2 { illegal := true } id
    else s.engine 2 (msbpForm w v s) (fun s =>
      let ga := s.aGroups w (slotA v)
      let rs := s.bRecords w (slotZ v)
      s.stepUpdate w (partsResults s.flush ga rs))

/-! ### Latches, tiles, the format table (R330 to R335) -/

/-- What MLATCH asks for. -/
def mlatchForm (w : MWord) (s : State) : Form :=
  let k := w.bsrc.toNat - 2
  .joinAll [matForm w 4, s.bForm w 16384,
    chunkForm ((List.range 128).map (fun i => spAddr (s.bAddr w + (128 * i : Nat)))),
    { wtouch := [26 + k], reads := [codeLatch k] }]

/-- MLATCH (R330): carries poison. -/
def execMlatch (w : MWord) (s : State) : Out :=
  let k := w.bsrc.toNat - 2
  let b := (s.bAddr w).toNat
  s.engine 2 (mlatchForm w s) (fun s =>
      let marks := (s.core s.cur.core).spMarks.filter (fun e => decide (b ≤ 4 * e.1) && decide (4 * e.1 < b + 16384))
      let clear := (List.range 4096).map (fun n => (n, false))
      (s.addPend 2 4 (.latch k (s.spBytes 2 b 16384) w.btr (clear ++ marks.map (fun e => (e.1 - b / 4, e.2))))).matTok w 4)

/-- A tile update that sets elements (R331, R333). -/
def State.tileSets (s : State) (w : MWord) (els : List (Nat × Word)) (marks : List (Nat × Bool)) : State :=
  let s' := if els.isEmpty then s else (s.useFresh w).addPend 2 12 (.tileSet w.tile.toNat els marks)
  s'.matTok w 12

/-- What MZERO asks for. -/
def mzeroForm (w : MWord) (s : State) : Form :=
  (matForm w 1).join { wtouch := if s.anyValid w then [10 + w.tile.toNat] else [] }

/-- MZERO (R331). -/
def execMzero (w : MWord) (s : State) : Out :=
  s.engine 2 (mzeroForm w s) (fun s =>
    s.tileSets w ((s.validTile w).map (fun (i, j) => (tkey w i j, 0))) [])

/-- MRET (R332). -/
def execMret (w : MWord) (s : State) : Out := s.engine 2 (matForm w 1) (fun s => s.matTok w 16)

/-- MRETZ (R332). -/
def execMretz (w : MWord) (s : State) : Out :=
  s.engine 2 (matForm w 1) (fun s => (s.addPend 2 1 (.fresh w.tile.toNat)).matTok w 16)

/-- The 128-byte chunks of stored rows that hold the elements of the valid tile, of `size` bytes each. -/
def State.tileChunks (s : State) (w : MWord) (size : Nat) : List Nat :=
  let rows := if w.atr then s.nCols w else s.nRows w
  let cols := if w.atr then s.nRows w else s.nCols w
  if cols = 0 then []
  else ((s.aOperand w (64 * size)).rows.take rows).flatMap (fun r =>
    if 128 < cols * size then [r, r + 128] else [r])

/-- Address of the stored element of tile element `(i, j)`. -/
def State.cellAddr (s : State) (w : MWord) (size i j : Nat) : Nat :=
  let a := (s.aAddr w).toNat
  let (r, c) := if w.atr then (j, i) else (i, j)
  a + 128 * w.astr.toNat * r + size * c

/-- What MLDT asks for. -/
def mldtForm (w : MWord) (s : State) : Form :=
  .joinAll [matForm w 4, (s.aOperand w 256).formA, chunkForm (s.tileChunks w 4),
    { wtouch := if s.anyValid w then [10 + w.tile.toNat] else [] }]

/-- MLDT (R333): carries poison. -/
def execMldt (w : MWord) (s : State) : Out :=
  s.engine 2 (mldtForm w s) (fun s =>
      let els := s.validTile w
      s.tileSets w
        (els.map (fun (i, j) => (tkey w i j, BitVec.ofNat 32 (ofLe (s.spBytes 2 (s.cellAddr w 4 i j) 4)))))
        (els.map (fun (i, j) => (tkey w i j, s.spMarkOf 2 (s.cellAddr w 4 i j)))))

/-- The writes of a tile store in their cycles (R319, R320): element addresses in the order in which they
take effect, their bytes and marks. -/
def State.tileWrites (s : State) (size : Nat) (rows : List Nat) (els : List (Nat × List Byte × Bool)) : State :=
  (List.range 4).foldl (fun s c =>
    let mine := (rows.drop (32 * c)).take 32
    let now := els.filter (fun e => mine.contains (e.1 / 128))
    if now.isEmpty then s
    else s.addPend 2 (c + 1) (.sp size (now.flatMap (fun e => cellsOf e.1 e.2.1)) (now.map (fun e => (e.1 / 4, e.2.2))))) s

/-- What a tile store asks for: element bytes, and whether its elements are read as operands (R334). -/
def storeForm (w : MWord) (occ size : Nat) (consumes : Bool) (s : State) : Form :=
  let els := s.validTile w
  let chunks := (s.tileChunks w size).filter (fun a => decide (a < 0x800000))
  .joinAll [matForm w occ, (s.aOperand w (64 * size)).formA, {
      touch := if els.isEmpty then [] else [10 + w.tile.toNat]
      wtouch := distinct (chunks.map blockOf)
      reads := if els.isEmpty then [] else [codeTile (4096 * w.tile.toNat)]
      blocks := chunks.map (fun a => (a, 128))
      consumed := if consumes then els.map (fun (i, j) => codeTile (tkey w i j)) else [] }]

/-- The bank rows of a tile store, ascending. -/
def State.storeRows (s : State) (w : MWord) (size : Nat) : List Nat :=
  let o := s.aOperand w (64 * size)
  ascending (o.rows.flatMap (fun r => runRows r o.len))

/-- A tile store (R334), with the conversion of its elements. -/
def storeTile (w : MWord) (occ size : Nat) (consumes : Bool) (f : Bool → Nat → Nat) (s : State) : Out :=
  let rows := s.storeRows w size
  let els := s.validTile w
  s.engine 2 (storeForm w occ size consumes s) (fun s =>
    (s.tileWrites size rows (els.map (fun (i, j) =>
      (s.cellAddr w size i j, toLe size (f s.flush (s.view 2 (tkey w i j)).toNat),
        !consumes && s.regs.mark (codeTile (tkey w i j)))))).matTok w occ)

/-- MSTT (R334): carries poison. -/
def execMstt (w : MWord) (s : State) : Out := storeTile w 4 4 false (fun _ v => v) s

/-- MSTTB (R334). -/
def execMsttb (w : MWord) (s : State) : Out :=
  storeTile w 2 2 true (fun flush v => toFloat flush .bf16 .rne false false (operandEl flush .f32 v)) s

/-- MSTTH (R334). -/
def execMstth (w : MWord) (s : State) : Out :=
  storeTile w 2 2 true (fun flush v => toFloat flush .f16 .rne false false (operandEl flush .f32 v)) s

/-- What MFTLD asks for. -/
def mftldForm (w : MWord) (s : State) : Form :=
  let b := (s.bAddr w).toNat
  .joinAll [matForm w 1, s.bForm w 640, chunkForm ((List.range 5).map (fun i => spAddr (s.bAddr w + (128 * i : Nat)))),
    { poisoned := s.dirtyWord (fun n => decide (b ≤ 4 * n) && decide (4 * n < b + 516)) }]

/-- MFTLD (R335). -/
def execMftld (w : MWord) (s : State) : Out :=
  let b := (s.bAddr w).toNat
  s.engine 2 (mftldForm w s) (fun s =>
    (s.addPend 2 1 (.ftab (s.spBytes 2 b 516))).matTok w 1)

/-! ### Tokens and padding (R336, R337) -/

/-- MTOK (R336). -/
def execMtok (w : MWord) (s : State) : Out := s.engine 2 (matForm w 1) (fun s => s.matTok w 1)

/-- MNOP (R337). -/
def execMnop (_stamp : BitVec 20) (s : State) : Out := s.engine 2 {} id

end Sys2Proof.Machine
end

