-- ==== Sys2Proof/Machine/ScalarAlu.lean ====
section
/-!
DEFINITION. Integer, multiply and divide, compare, predicate, address and constant words of the scalar
stream (R203 to R211, R214, R215).
-/
namespace Sys2Proof.Machine

/-! ### Shared operations -/

/-- A word of two g operands that writes a g register (R203). -/
def alu3 (op : Word → Word → Word) (k : Nat) (h : SHdr) (d a b : BitVec 5) (s : State) : Out :=
  s.scalar h
    { reads := [codeG a.toNat, codeG b.toNat], writes := [codeG d.toNat]
      consumed := [codeG a.toNat, codeG b.toNat] }
    (fun s => s.gwrite d.toNat (op (s.g a.toNat) (s.g b.toNat)) k)

/-- A divide: a zero divisor is the arithmetic fault (R207). -/
def divide (op : Word → Word → Word) (h : SHdr) (d a b : BitVec 5) (s : State) : Out :=
  s.scalar h
    { reads := [codeG a.toNat, codeG b.toNat], writes := [codeG d.toNat]
      fault := if s.g b.toNat = 0 then some (0x0B, 0, 0) else none
      consumed := [codeG a.toNat, codeG b.toNat] }
    (fun s => s.gwrite d.toNat (op (s.g a.toNat) (s.g b.toNat)) 18)

/-- A word of a g operand and an immediate that writes a g register (R205). -/
def aluImm (op : Word → Word → Word) (imm : Word) (h : SHdr) (d a : BitVec 5) (s : State) : Out :=
  s.scalar h
    { reads := [codeG a.toNat], writes := [codeG d.toNat], consumed := [codeG a.toNat] }
    (fun s => s.gwrite d.toNat (op (s.g a.toNat) imm) 1)

/-- A compare of two g operands (R208, R209). -/
def compare3 (op : State → Word → Word → Bool) (h : SHdr) (d : BitVec 3) (a b : BitVec 5) (s : State) : Out :=
  s.scalar h
    { reads := [codeG a.toNat, codeG b.toNat], writes := [codeP d.toNat]
      consumed := [codeG a.toNat, codeG b.toNat] }
    (fun s => s.pwriteP d.toNat (op s (s.g a.toNat) (s.g b.toNat)) 1)

/-- A compare with an immediate (R208, R209). -/
def compareImm (op : Word → Word → Bool) (imm : Word) (h : SHdr) (d : BitVec 3) (a : BitVec 5) (s : State) : Out :=
  s.scalar h
    { reads := [codeG a.toNat], writes := [codeP d.toNat], consumed := [codeG a.toNat] }
    (fun s => s.pwriteP d.toNat (op (s.g a.toNat) imm) 1)

/-- An f32 operand of a compare: R22 applies (R209). -/
def f32In (s : State) (v : Word) : Fp := operandEl s.flush .f32 v.toNat

/-- Predicate logic (R210). -/
def pred3 (op : Bool → Bool → Bool) (h : SHdr) (d a b : BitVec 3) (s : State) : Out :=
  s.scalar h
    { reads := [codeP a.toNat, codeP b.toNat], writes := [codeP d.toNat]
      consumed := [codeP a.toNat, codeP b.toNat] }
    (fun s => s.pwriteP d.toNat (op (s.p a.toNat) (s.p b.toNat)) 1)

/-- The sum and the difference of R204. -/
def opAdd (a b : Word) : Word := a + b
def opSub (a b : Word) : Word := a - b
def opAnd (a b : Word) : Word := a &&& b
def opOr (a b : Word) : Word := a ||| b
def opXor (a b : Word) : Word := a ^^^ b
def opAndn (a b : Word) : Word := a &&& ~~~b
/-- Shifts by bits 4:0 of the second operand (R204). -/
def opShl (a b : Word) : Word := a <<< (b.toNat % 32)
def opShr (a b : Word) : Word := a >>> (b.toNat % 32)
def opSra (a b : Word) : Word := a.sshiftRight (b.toNat % 32)
def opMin (a b : Word) : Word := if a.toInt ≤ b.toInt then a else b
def opMax (a b : Word) : Word := if b.toInt ≤ a.toInt then a else b
def opMinu (a b : Word) : Word := if a.toNat ≤ b.toNat then a else b
def opMaxu (a b : Word) : Word := if b.toNat ≤ a.toNat then a else b
/-- R206. -/
def opMul (a b : Word) : Word := a * b
def opMulh (a b : Word) : Word := BitVec.ofInt 32 (a.toInt * b.toInt / 2 ^ 32)
def opMulhu (a b : Word) : Word := BitVec.ofNat 32 (a.toNat * b.toNat / 2 ^ 32)
def opDiv (a b : Word) : Word := BitVec.ofInt 32 (a.toInt.tdiv b.toInt)
def opDivu (a b : Word) : Word := BitVec.ofNat 32 (a.toNat / b.toNat)
def opRem (a b : Word) : Word := BitVec.ofInt 32 (a.toInt.tmod b.toInt)
def opRemu (a b : Word) : Word := BitVec.ofNat 32 (a.toNat % b.toNat)
/-- The extended immediates of R205. -/
def immS (imm : BitVec 9) : Word := imm.signExtend 32
def immZ (imm : BitVec 9) : Word := imm.zeroExtend 32

/-! ### Integer (R203, R204) -/

/-- ADD (R204). -/
def execAdd (h : SHdr) (d a b : BitVec 5) (s : State) : Out := alu3 opAdd 1 h d a b s
/-- SUB (R204). -/
def execSub (h : SHdr) (d a b : BitVec 5) (s : State) : Out := alu3 opSub 1 h d a b s
/-- AND (R204). -/
def execAnd (h : SHdr) (d a b : BitVec 5) (s : State) : Out := alu3 opAnd 1 h d a b s
/-- OR (R204). -/
def execOr (h : SHdr) (d a b : BitVec 5) (s : State) : Out := alu3 opOr 1 h d a b s
/-- XOR (R204). -/
def execXor (h : SHdr) (d a b : BitVec 5) (s : State) : Out := alu3 opXor 1 h d a b s
/-- ANDN (R204). -/
def execAndn (h : SHdr) (d a b : BitVec 5) (s : State) : Out := alu3 opAndn 1 h d a b s
/-- SHL (R204). -/
def execShl (h : SHdr) (d a b : BitVec 5) (s : State) : Out := alu3 opShl 1 h d a b s
/-- SHR (R204). -/
def execShr (h : SHdr) (d a b : BitVec 5) (s : State) : Out := alu3 opShr 1 h d a b s
/-- SRA (R204). -/
def execSra (h : SHdr) (d a b : BitVec 5) (s : State) : Out := alu3 opSra 1 h d a b s
/-- MIN (R204). -/
def execMin (h : SHdr) (d a b : BitVec 5) (s : State) : Out := alu3 opMin 1 h d a b s
/-- MAX (R204). -/
def execMax (h : SHdr) (d a b : BitVec 5) (s : State) : Out := alu3 opMax 1 h d a b s
/-- MINU (R204). -/
def execMinu (h : SHdr) (d a b : BitVec 5) (s : State) : Out := alu3 opMinu 1 h d a b s
/-- MAXU (R204). -/
def execMaxu (h : SHdr) (d a b : BitVec 5) (s : State) : Out := alu3 opMaxu 1 h d a b s

/-! ### Multiply and divide (R206, R207) -/

/-- MUL (R206). -/
def execMul (h : SHdr) (d a b : BitVec 5) (s : State) : Out := alu3 opMul 3 h d a b s
/-- MULH (R206). -/
def execMulh (h : SHdr) (d a b : BitVec 5) (s : State) : Out := alu3 opMulh 3 h d a b s
/-- MULHU (R206). -/
def execMulhu (h : SHdr) (d a b : BitVec 5) (s : State) : Out := alu3 opMulhu 3 h d a b s
/-- DIV (R206, R207). -/
def execDiv (h : SHdr) (d a b : BitVec 5) (s : State) : Out := divide opDiv h d a b s
/-- DIVU (R206, R207). -/
def execDivu (h : SHdr) (d a b : BitVec 5) (s : State) : Out := divide opDivu h d a b s
/-- REM (R206, R207). -/
def execRem (h : SHdr) (d a b : BitVec 5) (s : State) : Out := divide opRem h d a b s
/-- REMU (R206, R207). -/
def execRemu (h : SHdr) (d a b : BitVec 5) (s : State) : Out := divide opRemu h d a b s

/-! ### Compares (R208, R209) -/

/-- CEQ (R209). -/
def execCeq (h : SHdr) (d : BitVec 3) (a b : BitVec 5) (s : State) : Out :=
  compare3 (fun _ x y => cmpEq x y) h d a b s
/-- CNE (R209). -/
def execCne (h : SHdr) (d : BitVec 3) (a b : BitVec 5) (s : State) : Out :=
  compare3 (fun _ x y => !cmpEq x y) h d a b s
/-- CLT (R209). -/
def execClt (h : SHdr) (d : BitVec 3) (a b : BitVec 5) (s : State) : Out :=
  compare3 (fun _ x y => cmpLt x y) h d a b s
/-- CLE (R209). -/
def execCle (h : SHdr) (d : BitVec 3) (a b : BitVec 5) (s : State) : Out :=
  compare3 (fun _ x y => cmpLe x y) h d a b s
/-- CLTU (R209). -/
def execCltu (h : SHdr) (d : BitVec 3) (a b : BitVec 5) (s : State) : Out :=
  compare3 (fun _ x y => cmpLtu x y) h d a b s
/-- CLEU (R209). -/
def execCleu (h : SHdr) (d : BitVec 3) (a b : BitVec 5) (s : State) : Out :=
  compare3 (fun _ x y => cmpLeu x y) h d a b s
/-- FCEQ (R209). -/
def execFceq (h : SHdr) (d : BitVec 3) (a b : BitVec 5) (s : State) : Out :=
  compare3 (fun t x y => fpEq (f32In t x) (f32In t y)) h d a b s
/-- FCLT (R209). -/
def execFclt (h : SHdr) (d : BitVec 3) (a b : BitVec 5) (s : State) : Out :=
  compare3 (fun t x y => fpLt (f32In t x) (f32In t y)) h d a b s
/-- FCLE (R209). -/
def execFcle (h : SHdr) (d : BitVec 3) (a b : BitVec 5) (s : State) : Out :=
  compare3 (fun t x y => fpLe (f32In t x) (f32In t y)) h d a b s
/-- FCUN (R209). -/
def execFcun (h : SHdr) (d : BitVec 3) (a b : BitVec 5) (s : State) : Out :=
  compare3 (fun t x y => fpUn (f32In t x) (f32In t y)) h d a b s
/-- CEQI (R209). -/
def execCeqi (h : SHdr) (d : BitVec 3) (a : BitVec 5) (imm : BitVec 9) (s : State) : Out :=
  compareImm cmpEq (immS imm) h d a s
/-- CLTI (R209). -/
def execClti (h : SHdr) (d : BitVec 3) (a : BitVec 5) (imm : BitVec 9) (s : State) : Out :=
  compareImm cmpLt (immS imm) h d a s

/-! ### Predicates (R210, R211) -/

/-- PAND (R210). -/
def execPand (h : SHdr) (d a b : BitVec 3) (s : State) : Out := pred3 (fun x y => x && y) h d a b s
/-- POR (R210). -/
def execPor (h : SHdr) (d a b : BitVec 3) (s : State) : Out := pred3 (fun x y => x || y) h d a b s
/-- PXOR (R210). -/
def execPxor (h : SHdr) (d a b : BitVec 3) (s : State) : Out := pred3 (fun x y => x != y) h d a b s
/-- PANDN (R210). -/
def execPandn (h : SHdr) (d a b : BitVec 3) (s : State) : Out := pred3 (fun x y => x && !y) h d a b s
/-- PNOT (R210). -/
def execPnot (h : SHdr) (d a : BitVec 3) (s : State) : Out :=
  s.scalar h
    { reads := [codeP a.toNat], writes := [codeP d.toNat], consumed := [codeP a.toNat] }
    (fun s => s.pwriteP d.toNat (!s.p a.toNat) 1)
/-- The word whose bit `k` is predicate `k` (R211). -/
def predWord (p : Nat → Bool) : Word :=
  BitVec.ofNat 32 (packElems 1 ((List.range 8).map (fun k => b2n (p k))))
/-- PSAVE (R211). -/
def execPsave (h : SHdr) (d : BitVec 5) (s : State) : Out :=
  s.scalar h
    { reads := (upFrom 1 7).map codeP, writes := [codeG d.toNat], consumed := (upFrom 1 7).map codeP }
    (fun s => s.gwrite d.toNat (predWord s.p) 1)
/-- PLOAD (R211). -/
def execPload (h : SHdr) (a : BitVec 5) (s : State) : Out :=
  s.scalar h
    { reads := [codeG a.toNat], writes := (upFrom 1 7).map codeP, consumed := [codeG a.toNat] }
    (fun s =>
      let v := (s.g a.toNat).truncate 8
      let (k, s) := s.latency 1
      s.addPend 0 k (.preds v))

/-! ### Address and constant words (R214, R215) -/

/-- XADD (R214). -/
def execXadd (h : SHdr) (d a : BitVec 3) (b : BitVec 5) (s : State) : Out :=
  s.scalar h
    { reads := [codeX a.toNat, codeG b.toNat], writes := [codeX d.toNat]
      consumed := [codeX a.toNat, codeG b.toNat] }
    (fun s => s.xwrite d.toNat (s.x a.toNat + (s.g b.toNat).signExtend 64) 1)
/-- XSET (R214): `GB` is the high half. -/
def execXset (h : SHdr) (d : BitVec 3) (a b : BitVec 5) (s : State) : Out :=
  s.scalar h
    { reads := [codeG a.toNat, codeG b.toNat], writes := [codeX d.toNat]
      consumed := [codeG a.toNat, codeG b.toNat] }
    (fun s => s.xwrite d.toNat (s.g b.toNat ++ s.g a.toNat) 1)
/-- A word that reads an x register and writes a g register (R214). -/
def xToG (f : DWord → Word) (h : SHdr) (d : BitVec 5) (a : BitVec 3) (s : State) : Out :=
  s.scalar h
    { reads := [codeX a.toNat], writes := [codeG d.toNat], consumed := [codeX a.toNat] }
    (fun s => s.gwrite d.toNat (f (s.x a.toNat)) 1)
/-- XLO (R214). -/
def execXlo (h : SHdr) (d : BitVec 5) (a : BitVec 3) (s : State) : Out := xToG (fun v => v.truncate 32) h d a s
/-- XHI (R214). -/
def execXhi (h : SHdr) (d : BitVec 5) (a : BitVec 3) (s : State) : Out :=
  xToG (fun v => v.extractLsb' 32 32) h d a s
/-- A word that reads an x register and writes an x register (R214). -/
def xToX (f : DWord → DWord) (h : SHdr) (d a : BitVec 3) (s : State) : Out :=
  s.scalar h
    { reads := [codeX a.toNat], writes := [codeX d.toNat], consumed := [codeX a.toNat] }
    (fun s => s.xwrite d.toNat (f (s.x a.toNat)) 1)
/-- XMOV (R214). -/
def execXmov (h : SHdr) (d a : BitVec 3) (s : State) : Out := xToX id h d a s
/-- XADDI (R214). -/
def execXaddi (h : SHdr) (d a : BitVec 3) (imm : BitVec 9) (s : State) : Out :=
  xToX (fun v => v + imm.signExtend 64) h d a s
/-- ADDI (R205). -/
def execAddi (h : SHdr) (d a : BitVec 5) (imm : BitVec 9) (s : State) : Out :=
  aluImm opAdd (immS imm) h d a s
/-- ANDI (R205). -/
def execAndi (h : SHdr) (d a : BitVec 5) (imm : BitVec 9) (s : State) : Out :=
  aluImm opAnd (immS imm) h d a s
/-- ORI (R205). -/
def execOri (h : SHdr) (d a : BitVec 5) (imm : BitVec 9) (s : State) : Out :=
  aluImm opOr (immZ imm) h d a s
/-- XORI (R205). -/
def execXori (h : SHdr) (d a : BitVec 5) (imm : BitVec 9) (s : State) : Out :=
  aluImm opXor (immZ imm) h d a s
/-- SHLI (R205). -/
def execShli (h : SHdr) (d a imm : BitVec 5) (s : State) : Out :=
  aluImm opShl (imm.zeroExtend 32) h d a s
/-- SHRI (R205). -/
def execShri (h : SHdr) (d a imm : BitVec 5) (s : State) : Out :=
  aluImm opShr (imm.zeroExtend 32) h d a s
/-- SRAI (R205). -/
def execSrai (h : SHdr) (d a imm : BitVec 5) (s : State) : Out :=
  aluImm opSra (imm.zeroExtend 32) h d a s
/-- LIU (R215). -/
def execLiu (h : SHdr) (d : BitVec 5) (imm : BitVec 14) (s : State) : Out :=
  s.scalar h { writes := [codeG d.toNat] } (fun s => s.gwrite d.toNat (imm.zeroExtend 32 <<< 18) 1)
/-- LIM (R215). -/
def execLim (h : SHdr) (d : BitVec 5) (imm : BitVec 14) (s : State) : Out :=
  s.scalar h
    { reads := [codeG d.toNat], writes := [codeG d.toNat], consumed := [codeG d.toNat] }
    (fun s => s.gwrite d.toNat ((s.g d.toNat &&& 0xFFFC000F) ||| (imm.zeroExtend 32 <<< 4)) 1)

end Sys2Proof.Machine
end

