-- ==== Sys2Proof/Machine/ScalarCtl.lean ====
section
/-!
DEFINITION. Control transfer and loops (R228 to R233), fences and waiting (R234 to R236), idle words
(R237), control registers (R238, R239), FEATQ and TLBINV (R242 to R244).
-/
namespace Sys2Proof.Machine

/-! ### Control transfer -/

/-- The cycle from which a transfer through a b register may issue (R170): three after its last write. -/
def Regs.branchFrom (r : Regs) (n : Nat) : Nat :=
  match r.bAt.get 0 n with
  | 0 => 0
  | t + 1 => t + 3

/-- A transfer's conditions (R170): exposed, an early one is the branch-timing fault; interlocked, it
waits. -/
def State.branchTiming (s : State) (n : Nat) : Option (Nat × Nat × Nat) :=
  if !s.interlocked && s.now < s.regs.branchFrom n then some (6, n, 0) else none
def State.branchWait (s : State) (n : Nat) : Option Nat :=
  if s.interlocked then some (s.regs.branchFrom n) else none

/-- The target fault of R170. -/
def State.targetFault (s : State) (t : Word) : Option (Nat × Nat × Nat) :=
  if s.targetOk s.code 0 t.toNat then none else some (7, 0, t.toNat)

/-- The transfer is made when the bundle is over. -/
def State.redirect (s : State) (t : Word) : State :=
  s.modRegs (fun r => { r with str := { r.str with redir := some t } })

/-- PBR (R228): written in its issue cycle. -/
def execPbr (h : SHdr) (bn : BitVec 3) (loff : BitVec 11) (slot : BitVec 5) (s : State) : Out :=
  s.scalar h { writes := [codeB bn.toNat] }
    (fun s =>
      let line := wrap ((s.cur.line : Int) + loff.toInt) 27
      (s.modRegs (fun r => (r.setB bn.toNat (targetWord line slot.toNat) s.now).setMark (codeB bn.toNat) false)).modCore
        s.cur.core (·.logReg (s.stageOf s.cur.core) s.cur.sh (codeB bn.toNat)))

/-- What a transfer through a b register asks for (R170). -/
def brForm (n : Nat) (s : State) : Form :=
  { xfer := (s.branchTiming n).or (s.targetFault (s.b n)), wait := s.branchWait n, waitReg := some n
    reads := [codeB n], consumed := [codeB n] }

/-- BR (R229). -/
def execBr (h : SHdr) (bn : BitVec 3) (s : State) : Out :=
  let t := s.b bn.toNat
  s.scalar h (brForm bn.toNat s) (·.redirect t)

/-- Frame units of the line a CALL transfers to (R155, R231). -/
def State.frameAtLine (s : State) (line : Nat) : Nat :=
  match s.lineHdr s.code line with
  | some h => h.frame % 2048
  | none => 0

/-- The stack limit in force (R232, R424). -/
def State.stackLimit (s : State) : Nat := if s.cur.sh then min s.regs.slim.toNat 4096 else s.regs.slim.toNat

/-- What CALL asks for: its frame lies within the stack limit (R155, R231, R232). DESIGN CHOICE (log 59): the spec gives
R155's fetch fault for a `FRAME` above 1,024 no place in R164's order; it stands after the faults that decide legality
and before branch timing. -/
def callForm (n : Nat) (s : State) : Form :=
  let r := s.regs
  let t := s.b n
  let f := s.frameAtLine (t.toNat / 32)
  let l := r.frameptr + r.framesz
  let stop := l + 16 + 16 * f
  let fetch := if 1024 < f then some (3, 0, t.toNat / 32) else none
  let stack := if s.stackLimit < stop then some (8, 0, stop) else none
  { xfer := (((fetch.or (s.branchTiming n)).or (s.targetFault t)).or stack)
    wait := s.branchWait n, waitReg := some n
    wtouch := if s.cur.sh || s.stackLimit < stop then [] else [6 + l / 4096 % 4]
    reads := [codeB n], writes := [codeB 7], consumed := [codeB n] }

/-- CALL (R231). The frame registers change with its word: SPL, SPS and CRD behind it in its bundle see the new frame
(DESIGN CHOICE, log 59). -/
def execCall (h : SHdr) (bn : BitVec 3) (s : State) : Out :=
  let r := s.regs
  let t := s.b bn.toNat
  let f := s.frameAtLine (t.toNat / 32)
  let l := r.frameptr + r.framesz
  s.scalar h (callForm bn.toNat s)
    (fun s =>
      let ret := targetWord s.regs.str.seqLine s.regs.str.seqSlot
      let t0 := s.now
      let s := s.modRegs (fun r =>
        let r := { r with
          spill := r.spill.writeN l (toLe 4 r.framesz ++ toLe 4 r.frameptr ++ toLe 8 0)
          frameptr := l + 16
          framesz := 16 * f }
        let r := (upFrom (l / 4) 4).foldl (fun (r : Regs) w => r.setMark (codeSpill w) false) r
        (r.setB 7 ret t0).setMark (codeB 7) false)
      (s.modCore s.cur.core (·.logReg (s.stageOf s.cur.core) s.cur.sh (codeB 7))).redirect t)

/-- What RET asks for. -/
def retForm (s : State) : Form :=
  { brForm 7 s with
    touch := if s.cur.sh || s.regs.frameptr = 0 then [] else [6 + (s.regs.frameptr - 16) / 4096 % 4] }

/-- RET (R231). -/
def execRet (h : SHdr) (s : State) : Out :=
  let t := s.b 7
  s.scalar h (retForm s)
    (fun s =>
      let s :=
        if s.regs.frameptr = 0 then s
        else s.modRegs (fun r => { r with
          framesz := ofLe (r.spill.readN (r.frameptr - 16) 4)
          frameptr := ofLe (r.spill.readN (r.frameptr - 12) 4) })
      s.redirect t)

/-- The level may start (R233); a stagehand has no levels (log 20). -/
def State.lstartOk (s : State) (j : Nat) : Bool :=
  let x := s.me
  !s.cur.sh && decide (j < 6) && loopEntryOk (x.loopWord j) && x.loopKind j == 1
    && !(x.levels.get {} j).active

/-- LSTART (R233): the level starts, iteration 0 in the next cycle; until then its index is what it was (R64). -/
def execLstart (h : SHdr) (lvl : BitVec 3) (s : State) : Out :=
  let j := lvl.toNat
  s.scalar h { sched := !s.lstartOk j }
    (fun s =>
      let e := s.now
      s.modMe (fun x => { x with
        levels := x.levels.put j
          { active := true, began := false, first := e + 1, start := e + 1, idx := x.index j
            count := x.loopCount j, period := x.loopPeriod j, ilk := x.loopIlk j
            starts := (x.levels.get {} j).starts + 1
            within := x.stack.filter (fun i => match x.loopBody i 0 with
              | some (f, l) => decide (f ≤ s.cur.line) && decide (s.cur.line ≤ l)
              | none => false) }
        stack := j :: x.stack }))

/-! ### Idle words -/

/-- NOP (R237). -/
def execNop (h : SHdr) (s : State) : Out := s.scalar h {} id

/-- IDLE (R169): no guard. The next word is timed from the count's end. -/
def execIdle (n : BitVec 3) (cnt : BitVec 20) (s : State) : Out :=
  s.scalar ⟨n, 0, false⟩ {}
    (fun s => s.modRegs (fun r => { r with str := { r.str with skip := cnt.toNat } }))

/-! ### Fences and waiting -/

/-- CFENCE (R126, R234). -/
def execCfence (h : SHdr) (scope : BitVec 2) (mask : BitVec 16) (s : State) : Out :=
  s.scalar h { illegal := !s.cur.sh && mask.getLsbD 15 }
    (fun s => (s.fence mask.toNat (decide (2 ≤ scope.toNat))).pump s.cur.core)

/-! ### Control registers -/

/-- The presence block that a control register of a program lies in: `YCTL` in block 5 (R101, R102). -/
def State.cregBlock (s : State) (n : Nat) : List Nat := if !s.cur.sh && 0x40 ≤ n && n ≤ 0x47 then [5] else []

/-- What CRD asks for. -/
def crdForm (d : BitVec 5) (n : Nat) (s : State) : Form :=
  { illegal := !cregListed n, touch := s.cregBlock n, writes := [codeG d.toNat] }

/-- CRD (R238): the value of the issue cycle; `QCUR` opens its packet (R416). -/
def execCrd (h : SHdr) (d : BitVec 5) (creg : BitVec 12) (s : State) : Out :=
  let n := creg.toNat
  s.scalar h (crdForm d n s)
    (fun s =>
      let (v, l) := s.crdValue s.cur.core s.cur.sh s.regs n
      let s := s.modRegs (fun r => { r with latch := l })
      let s :=
        if s.cur.sh && n == 0xD3 && s.isCp s.cur.core && (s.die (dieOf s.cur.core)).curQ.isSome then
          s.at_ s.cue .qcurRead { core := s.cur.core, die := dieOf s.cur.core }
        else s
      s.gwrite d.toNat v 1)

/-- What CWR asks for (R239). -/
def cwrForm (d : BitVec 5) (n : Nat) (s : State) : Form :=
  { illegal := !cregListed n, wtouch := s.cregBlock n, reads := [codeG d.toNat]
    fault := if s.cwrBad s.cur.core s.cur.sh s.regs n (s.g d.toNat) then some (0x0F, 0, n) else none
    consumed := [codeG d.toNat] }

/-- CWR (R238, R239): the new value applies from issue + 1. -/
def execCwr (h : SHdr) (d : BitVec 5) (creg : BitVec 12) (s : State) : Out :=
  let n := creg.toNat
  s.scalar h (cwrForm d n s)
    (fun s =>
      let (v, st) := s.cwrValue s.cur.core s.cur.sh s.regs n (s.g d.toNat)
      let hi := s.regs.cwrHalf n
      let s := s.modRegs (fun r => { r with staging := st })
      match v with
      | none => s
      | some w =>
        let e := if cregWide n then n / 2 * 2 else n
        let b := if s.cur.sh then (s.core s.cur.core).shbank.toNat % 2 * 0x1000 else 0
        s.addPend 0 1 (.creg (e + b) (BitVec.ofNat 64 w) hi false))

/-- FEATQ (R242). -/
def execFeatq (h : SHdr) (a : BitVec 5) (s : State) : Out :=
  s.scalar h { reads := [codeG a.toNat], writes := [codeG a.toNat], consumed := [codeG a.toNat] }
    (fun s => s.gwrite a.toNat (s.feature (s.g a.toNat).toNat) 1)

/-! ### TLBINV (R243, R244) -/

/-- Entries that stay. -/
def tlbKeep (mode va : Nat) (l : List TlbEntry) : List TlbEntry :=
  if mode = 0 then l.filter (fun e => !(decide (e.va ≤ va) && decide (va < e.va + e.size)))
  else if mode = 1 then l.filter (fun e => e.root != va)
  else []

/-- Whether a command has used a translation that TLBINV drops (R244, log 45). -/
def usesTlb (mode va : Nat) (k : Cmd) : Bool := (tlbKeep mode va k.used).length != k.used.length

/-- Entries dropped from a core's two TLBs. -/
def Core.dropTlb (k : Core) (mode va : Nat) : Core :=
  { k with tlb := tlbKeep mode va k.tlb, stlb := tlbKeep mode va k.stlb }

/-- What TLBINV asks for (R243). -/
def tlbinvForm (h : SHdr) (tp : BitVec 6) (xa : BitVec 3) (a : BitVec 5) (s : State) : Form :=
  let v := (s.g a.toNat).toNat
  { illegal := !s.cur.sh || (s.guard h && (v % 4 == 3 || bits v 31 3 != 0)), prod := tp.toNat
    reads := [codeG a.toNat, codeX xa.toNat], consumed := [codeG a.toNat, codeX xa.toNat] }

/-- TLBINV. -/
def execTlbinv (h : SHdr) (tp : BitVec 6) (xa : BitVec 3) (a : BitVec 5) (s : State) : Out :=
  let v := (s.g a.toNat).toNat
  let mode := v % 4
  let va := (s.x xa.toNat).toNat
  s.scalar h (tlbinvForm h tp xa a s)
    (fun s =>
      let c := s.cur.core
      let d := dieOf c
      let (i, s) := s.fresh
      let s := s.modRegs (·.produce tp.toNat i)
      let cs := if bitAt v 2 then upFrom (16 * d) 16 else [c]
      let waits := cs.flatMap (fun c => ((s.core c).cmds.filter (usesTlb mode va)).map (·.id))
      let waits := waits ++ (if bitAt v 2 then
        (((s.die d).pool.map (·.2)).filter (usesTlb mode va)).map (·.id) else [])
      let s := cs.foldl (fun s c => s.modCore c (·.dropTlb mode va)) s
      let s := if bitAt v 2 then
          s.modDie d (fun k => { k with ptlb := k.ptlb.map (fun e => (e.1, tlbKeep mode va e.2)) }) else s
      if waits.isEmpty then s.addPend 0 1 (.tok tp.toNat i)
      else { s with tokWaits := s.tokWaits ++ [TokWait.mk c 0 true tp.toNat i waits 0 0] })

end Sys2Proof.Machine
end

