-- ==== Sys2Proof/Machine/ScalarFp.lean ====
section
/-!
DEFINITION. Scalar FP32 words (R212, R213).
-/
namespace Sys2Proof.Machine

/-- An f32 result: `round_rne_f32` of R177. -/
def f32Out (s : State) (x : Fp) : Word := BitVec.ofNat 32 (roundF32 s.flush x)

/-- Division of R213: invalid cases give NaN, a finite value over zero gives an infinity. -/
def f32Div (flush : Bool) (x y : Fp) : Nat :=
  match x, y with
  | .nan, _ => fmtOf .f32 |>.nanEnc
  | _, .nan => fmtOf .f32 |>.nanEnc
  | .inf _, .inf _ => fmtOf .f32 |>.nanEnc
  | .inf n, .fin m _ _ => roundF32 flush (.inf (n != m))
  | .fin n _ _, .inf m => (fmtOf .f32).signBit (n != m)
  | .fin n a e, .fin m b g =>
    if b = 0 then
      if a = 0 then (fmtOf .f32).nanEnc else roundF32 flush (.inf (n != m))
    else
      let neg := n != m
      let num := a * 2 ^ (e - g).toNat
      let den := b * 2 ^ (g - e).toNat
      if flushesQ flush .f32 num den then (fmtOf .f32).signBit neg
      else roundFmtQ (fmtOf .f32) .rne false neg num den

/-- An FP32 word of two operands. -/
def fp3 (op : State → Fp → Fp → Word) (k : Nat) (h : SHdr) (d a b : BitVec 5) (s : State) : Out :=
  s.scalar h
    { reads := [codeG a.toNat, codeG b.toNat], writes := [codeG d.toNat]
      consumed := [codeG a.toNat, codeG b.toNat] }
    (fun s => s.gwrite d.toNat (op s (f32In s (s.g a.toNat)) (f32In s (s.g b.toNat))) k)

/-- An FP32 word of one operand. -/
def fp2 (op : State → Word → Word) (h : SHdr) (d a : BitVec 5) (s : State) : Out :=
  s.scalar h
    { reads := [codeG a.toNat], writes := [codeG d.toNat], consumed := [codeG a.toNat] }
    (fun s => s.gwrite d.toNat (op s (s.g a.toNat)) 4)

/-- FADD (R213). -/
def execFadd (h : SHdr) (d a b : BitVec 5) (s : State) : Out := fp3 (fun t x y => f32Out t (Fp.add .rne x y)) 4 h d a b s
/-- FSUB (R213). -/
def execFsub (h : SHdr) (d a b : BitVec 5) (s : State) : Out := fp3 (fun t x y => f32Out t (Fp.add .rne x y.negate)) 4 h d a b s
/-- FMUL (R213). -/
def execFmul (h : SHdr) (d a b : BitVec 5) (s : State) : Out := fp3 (fun t x y => f32Out t (Fp.mul x y)) 4 h d a b s
/-- FDIV (R213). -/
def execFdiv (h : SHdr) (d a b : BitVec 5) (s : State) : Out := fp3 (fun t x y => BitVec.ofNat 32 (f32Div t.flush x y)) 14 h d a b s
/-- FMIN (R213). -/
def execFmin (h : SHdr) (d a b : BitVec 5) (s : State) : Out := fp3 (fun t x y => f32Out t (Fp.minZ x y)) 4 h d a b s
/-- FMAX (R213). -/
def execFmax (h : SHdr) (d a b : BitVec 5) (s : State) : Out := fp3 (fun t x y => f32Out t (Fp.maxZ x y)) 4 h d a b s
/-- FMA (R213): one rounding; the addend is the old `GD`. -/
def execFma (h : SHdr) (d a b : BitVec 5) (s : State) : Out :=
  s.scalar h
    { reads := [codeG a.toNat, codeG b.toNat, codeG d.toNat], writes := [codeG d.toNat]
      consumed := [codeG a.toNat, codeG b.toNat, codeG d.toNat] }
    (fun s => s.gwrite d.toNat
      (f32Out s (Fp.add .rne (Fp.mul (f32In s (s.g a.toNat)) (f32In s (s.g b.toNat))) (f32In s (s.g d.toNat)))) 4)
/-- FABS (R213). -/
def execFabs (h : SHdr) (d a : BitVec 5) (s : State) : Out := fp2 (fun _ v => v &&& 0x7FFFFFFF) h d a s
/-- FNEG (R213). -/
def execFneg (h : SHdr) (d a : BitVec 5) (s : State) : Out := fp2 (fun _ v => v ^^^ 0x80000000) h d a s
/-- FCVTI (R213). -/
def execFcvti (h : SHdr) (d a : BitVec 5) (s : State) : Out := fp2 (fun t v => BitVec.ofNat 32 (convert t.flush .i32 .rne true (f32In t v))) h d a s
/-- FCVTIZ (R213). -/
def execFcvtiz (h : SHdr) (d a : BitVec 5) (s : State) : Out := fp2 (fun t v => BitVec.ofNat 32 (convert t.flush .i32 .rtz true (f32In t v))) h d a s
/-- FCVTF (R213). -/
def execFcvtf (h : SHdr) (d a : BitVec 5) (s : State) : Out := fp2 (fun t v => BitVec.ofNat 32 (convert t.flush .f32 .rne false (Fp.ofInt v.toInt))) h d a s

end Sys2Proof.Machine
end

