-- ==== Sys2Proof/Machine/Transc.lean ====
section
/-!
DEFINITION. The correctly rounded functions of R44 and R45. Rational results (VRCP, VRSQ by its
square, powers of two) are formed exactly. The others are irrational: they are formed in fixed point
with 256 fraction bits, whose error of less than 2^-240 decides no rounding to 8 significant bits
unless the exact value lies that near to a rounding boundary (log 9).
-/
namespace Sys2Proof.Machine

/-- Fixed-point scale: 256 fraction bits. -/
def fxOne : Int := 2 ^ 256

/-- `sum of r^k / k!` for `k` from `k0`, in fixed point; `term` is the current term. -/
def fxExpSum (r term : Int) : Nat → Nat → Int
  | 0, _ => 0
  | fuel + 1, k => term + fxExpSum r (term * r / fxOne / ((k : Int) + 1)) fuel (k + 1)

/-- `e^r` for `|r| < 1`. -/
def fxExp (r : Int) : Int := fxExpSum r fxOne 72 0

/-- `sum of z^(2k+1) / (2k+1)` in fixed point. -/
def fxAtanhSum (z2 term : Int) : Nat → Nat → Int
  | 0, _ => 0
  | fuel + 1, k => term / (2 * (k : Int) + 1) + fxAtanhSum z2 (term * z2 / fxOne) fuel (k + 1)

/-- `ln(num / den)` for a quotient from 1 to 2: `2 atanh((q - 1) / (q + 1))`. -/
def fxLn (num den : Nat) : Int :=
  let z := ((num : Int) - den) * fxOne / ((num : Int) + den)
  2 * fxAtanhSum (z * z / fxOne) z 96 0

/-- `ln 2`. -/
def fxLn2 : Int := fxLn 2 1

/-- `floor(sqrt n)` by its binary digits from digit `k - 1` down. -/
def isqrtBits (n : Nat) : Nat → Nat → Nat
  | 0, r => r
  | k + 1, r => if (r + 2 ^ k) * (r + 2 ^ k) ≤ n then isqrtBits n k (r + 2 ^ k) else isqrtBits n k r

/-- A quotient delivered at bf16 precision as f32 with bits 15:0 zero (R44). -/
def toBf16Q (flush neg : Bool) (num den : Nat) : Nat :=
  let f := fmtOf .bf16
  2 ^ 16 * (if flushesQ flush .bf16 num den then f.signBit neg else roundFmtQ f .rne false neg num den)

def f32Inf (neg : Bool) : Nat := 2 ^ 16 * ((fmtOf .bf16).signBit neg + (fmtOf .bf16).infEnc)
def f32Nan : Nat := (fmtOf .f32).nanEnc
def f32Zero (neg : Bool) : Nat := 2 ^ 16 * (fmtOf .bf16).signBit neg
def f32One (neg : Bool) : Nat := f32Zero neg + 0x3F800000

/-- `2^(k + f)` delivered, `f` from 0 to 1 in fixed point. -/
def exp2Fx (flush : Bool) (k : Int) (f : Int) : Nat :=
  toBf16Q flush false ((fxExp (f * fxLn2 / fxOne)).toNat * 2 ^ k.toNat) (2 ^ 256 * 2 ^ (-k).toNat)

/-- VEXP2 (R44, R45). -/
def fnExp2 (flush : Bool) : Fp → Nat
  | .nan => f32Nan
  | .inf n => if n then f32Zero false else f32Inf false
  | .fin n m e =>
    let num : Int := if n then -(numOf m e : Int) else numOf m e
    let den : Int := denOf e
    let k := num / den
    if 128 ≤ k then f32Inf false
    else if k < -300 then f32Zero false
    else exp2Fx flush k ((num - k * den) * fxOne / den)

/-- `e^-y` for `y = num / den` as a quotient: numerator, and the power of two of the denominator. -/
def expNeg (num den : Nat) : Nat × Nat :=
  let t : Int := (num : Int) * fxOne / den
  let k := t / fxLn2
  ((fxExp (-(t - k * fxLn2))).toNat, 256 + k.toNat)

/-- VSIG (R44, R45): `1 / (1 + e^-x)`. -/
def fnSig (flush : Bool) : Fp → Nat
  | .nan => f32Nan
  | .inf n => if n then f32Zero false else f32One false
  | .fin n m e =>
    if 200 * denOf e < numOf m e then (if n then f32Zero false else f32One false)
    else
      let (u, s) := expNeg (numOf m e) (denOf e)
      if n then toBf16Q flush false u (2 ^ s + u) else toBf16Q flush false (2 ^ s) (2 ^ s + u)

/-- VTANH (R44, R45): `(1 - e^-2x) / (1 + e^-2x)`; below 2^-12 the exact value lies strictly between
`x (1 - 2^-25)` and `x`, where one value decides the rounding. -/
def fnTanh (flush : Bool) : Fp → Nat
  | .nan => f32Nan
  | .inf n => f32One n
  | .fin n m e =>
    if m = 0 then f32Zero n
    else if numOf m e * 2 ^ 12 < denOf e then
      toBf16Q flush n (numOf m e * (2 ^ 30 - 1)) (denOf e * 2 ^ 30)
    else if 100 * denOf e < numOf m e then f32One n
    else
      let (u, s) := expNeg (2 * numOf m e) (denOf e)
      toBf16Q flush n (2 ^ s - u) (2 ^ s + u)

/-- VLOG2 (R44, R45). -/
def fnLog2 (flush : Bool) : Fp → Nat
  | .nan => f32Nan
  | .inf n => if n then f32Nan else f32Inf false
  | .fin n m e =>
    if m = 0 then f32Inf true
    else if n then f32Nan
    else
      let k : Int := m.log2 + e
      let v := k * fxOne + fxLn m (2 ^ m.log2) * fxOne / fxLn2
      toBf16Q flush (decide (v < 0)) v.natAbs (2 ^ 256)

/-- VRCP (R44, R45). -/
def fnRcp (flush : Bool) : Fp → Nat
  | .nan => f32Nan
  | .inf n => f32Zero n
  | .fin n m e =>
    if m = 0 then f32Inf n else toBf16Q flush n (denOf e) (numOf m e)

/-- VRSQ (R44, R45): `1 / sqrt x` from the integer square root of `2^600 / m`, a lower bound whose
last bit says that it is not exact. -/
def fnRsq (flush : Bool) : Fp → Nat
  | .nan => f32Nan
  | .inf n => if n then f32Nan else f32Zero false
  | .fin n m e =>
    if m = 0 then f32Inf n
    else if n then f32Nan
    else
      let (m', e') := if e % 2 = 0 then (m, e) else (2 * m, e - 1)
      let q := isqrtBits (2 ^ 600 / m') 301 0
      let v := 2 * q + (if q * q * m' = 2 ^ 600 then 0 else 1)
      let h := e' / 2
      toBf16Q flush false (v * 2 ^ (-h).toNat) (2 ^ 301 * 2 ^ h.toNat)

end Sys2Proof.Machine
end

