-- ==== Sys2Proof/Machine/VectorAlu.lean ====
section
/-!
DEFINITION. Vector arithmetic, bitwise words and shifts, clamp, compares and masks, select, and the correctly
rounded functions (R289 to R294, R299).
-/
namespace Sys2Proof.Machine

/-! ### Arithmetic (R289) -/

/-- An arithmetic result on exact values, delivered by R285. -/
def arith (w : VWord) (base : Nat) (old : Bool) (f : Fp → Fp → Fp → Fp) (s : State) : Out :=
  let t := w.etype
  let x := operandEl s.flush t
  elementwise w base true old (fun a b d => deliver s.flush t w.rnd w.sat (f (x a) (x b) (x d))) s

/-- VADD (R289). -/
def execVadd (w : VWord) (s : State) : Out := arith w 2 false (fun x y _ => Fp.add w.rnd x y) s
/-- VSUB (R289). -/
def execVsub (w : VWord) (s : State) : Out := arith w 2 false (fun x y _ => Fp.add w.rnd x y.negate) s
/-- VMUL (R289). -/
def execVmul (w : VWord) (s : State) : Out := arith w 4 false (fun x y _ => Fp.mul x y) s
/-- VFMA (R289). -/
def execVfma (w : VWord) (s : State) : Out := arith w 4 true (fun x y z => Fp.add w.rnd (Fp.mul x y) z) s
/-- VFMS (R289). -/
def execVfms (w : VWord) (s : State) : Out :=
  arith w 4 true (fun x y z => Fp.add w.rnd z (Fp.mul x y).negate) s
/-- VMIN (R289). -/
def execVmin (w : VWord) (s : State) : Out := arith w 2 false (fun x y _ => Fp.minZ x y) s
/-- VMAX (R289). -/
def execVmax (w : VWord) (s : State) : Out := arith w 2 false (fun x y _ => Fp.maxZ x y) s

/-- VABS (R289): the sign bit of a float is cleared as it stands. -/
def execVabs (w : VWord) (s : State) : Out :=
  let t := w.etype
  elementwise w 2 false false (fun a _ _ =>
    if t.isF then a % 2 ^ (t.width - 1)
    else deliver s.flush t .rne w.sat (Fp.ofInt (intOf t a).natAbs)) s

/-- VNEG (R289): the sign bit of a float is inverted as it stands. -/
def execVneg (w : VWord) (s : State) : Out :=
  let t := w.etype
  elementwise w 2 false false (fun a _ _ =>
    if t.isF then Nat.xor a (2 ^ (t.width - 1))
    else deliver s.flush t .rne w.sat (Fp.ofInt (-(intOf t a)))) s

/-- VMULH (R289): the high half of the exact product. -/
def execVmulh (w : VWord) (s : State) : Out :=
  let t := w.etype
  elementwise w 4 true false (fun a b _ =>
    wrap (intOf t a * intOf t b / ((2 ^ t.width : Nat) : Int)) t.width) s

/-! ### Bitwise words and shifts (R290) -/

/-- VAND (R290). -/
def execVand (w : VWord) (s : State) : Out := elementwise w 2 true false (fun a b _ => Nat.land a b) s
/-- VOR (R290). -/
def execVor (w : VWord) (s : State) : Out := elementwise w 2 true false (fun a b _ => Nat.lor a b) s
/-- VXOR (R290). -/
def execVxor (w : VWord) (s : State) : Out := elementwise w 2 true false (fun a b _ => Nat.xor a b) s
/-- VNOT (R290). -/
def execVnot (w : VWord) (s : State) : Out :=
  elementwise w 2 false false (fun a _ _ => 2 ^ w.etype.width - 1 - a) s
/-- VSHL (R290): the count is the low `log2 w` bits of B. -/
def execVshl (w : VWord) (s : State) : Out :=
  elementwise w 2 true false (fun a b _ => a * 2 ^ (b % w.etype.width) % 2 ^ w.etype.width) s
/-- VSHR (R290): arithmetic for signed types. -/
def execVshr (w : VWord) (s : State) : Out :=
  let t := w.etype
  elementwise w 2 true false (fun a b _ => wrap (intOf t a / ((2 ^ (b % t.width) : Nat) : Int)) t.width) s

/-! ### Clamp (R291) -/

/-- The clamp of R291 on exact values. -/
def clampFp (x lo hi : Fp) : Fp :=
  if x.isNan || lo.isNan || hi.isNan then .nan
  else if Fp.ltZ x lo then lo else if Fp.ltZ hi x then hi else x

/-- VCLAMP (R291). -/
def execVclamp (w : VWord) (s : State) : Out :=
  let t := w.etype
  let x := operandEl s.flush t
  elementwise w 2 true true (fun a b d => deliver s.flush t .rne false (clampFp (x d) (x a) (x b))) s

/-! ### Compares and masks (R292, R293) -/

/-- A write of bits of a mask register; m0 takes none (R278). -/
def State.maskWrite (s : State) (n lat : Nat) (val sel : Mask) : State :=
  if n = 0 then s else s.addDest 1 lat (.m n val sel)

/-- A condition of VCMP (R292). -/
def vcond (c : Nat) (x y : Fp) : Bool :=
  match c with
  | 0 => fpEq x y
  | 1 => !fpEq x y
  | 2 => fpLt x y
  | 3 => fpLe x y
  | 4 => fpLt y x
  | 5 => fpLe y x
  | _ => fpUn x y

/-- A mask from the lanes of a list. -/
def maskOf (l : List Nat) : Mask := BitVec.ofNat 128 (l.foldl (fun a i => a + 2 ^ i) 0)

/-- The elements that VCMP compares: the active ones at position `FN` div 8 of their lanes (R292). -/
def State.cmpEls (s : State) (w : VWord) : List Nat :=
  (s.activeEls w w.etype).filter (fun e => e % (32 / w.etype.width) == w.fn.toNat / 8)
/-- Their lanes, and the operands read there. -/
def State.cmpLanes (s : State) (w : VWord) : List Nat := lanesOf w.etype (s.cmpEls w)
def State.cmpA (s : State) (w : VWord) : Src := s.srcA w w.etype (s.cmpLanes w)
def State.cmpB (s : State) (w : VWord) : Src := s.srcB w w.etype (s.cmpLanes w)
/-- What VCMP asks for. -/
def vcmpForm (w : VWord) (s : State) : Form := .joinAll [maskForm w, (s.cmpA w).used, (s.cmpB w).used]

/-- VCMP (R292). -/
def execVcmp (w : VWord) (s : State) : Out :=
  let t := w.etype
  let a := s.cmpA w
  let b := s.cmpB w
  let hit := (s.cmpEls w).filter (fun e =>
    vcond (w.fn.toNat % 8) (elemVal s.flush t a.num e) (elemVal s.flush t b.num e))
  let lanes := s.cmpLanes w
  s.engine 1 (vcmpForm w s) (fun s =>
    (s.popAll [a, b]).maskWrite (maskNo w.d) (viewLat 2 [a, b]) (maskOf (lanesOf t hit)) (maskOf lanes))

/-- What mask logic asks for. -/
def maskLogicForm (w : VWord) : Form := .joinAll [maskForm w, maskUse w.a, maskUse w.b]

/-- Mask logic on whole masks (R293). -/
def maskLogic (w : VWord) (f : Mask → Mask → Mask) (s : State) : Out :=
  s.engine 1 (maskLogicForm w) (fun s =>
    s.maskWrite (maskNo w.d) 2 (f (s.mask (maskNo w.a)) (s.mask (maskNo w.b))) (BitVec.allOnes 128))

/-- VMAND (R293). -/
def execVmand (w : VWord) (s : State) : Out := maskLogic w (fun a b => a &&& b) s
/-- VMOR (R293). -/
def execVmor (w : VWord) (s : State) : Out := maskLogic w (fun a b => a ||| b) s
/-- VMXOR (R293). -/
def execVmxor (w : VWord) (s : State) : Out := maskLogic w (fun a b => a ^^^ b) s
/-- VMNOT (R293). -/
def execVmnot (w : VWord) (s : State) : Out := maskLogic w (fun a _ => ~~~ a) s

/-- VMCNT (R293). -/
def execVmcnt (w : VWord) (s : State) : Out :=
  let n := popCount 128 (s.mask (maskNo w.a)).toNat
  vecWrite w 2 w.etype [] (maskUse w.a) false ((s.activeEls w w.etype).map (fun e => (e, n))) s

/-! ### Select (R294) -/

/-- The sources of VSEL. -/
def State.selSrcs (s : State) (w : VWord) : Src × Src :=
  let lanes := lanesOf w.etype (s.validEls w w.etype)
  (s.srcA w w.etype lanes, s.srcB w w.etype lanes)
/-- The results of VSEL (R294): every valid element is written. -/
def State.selResults (s : State) (w : VWord) : List (Nat × Nat) :=
  let t := w.etype
  let (a, b) := s.selSrcs w
  (s.validEls w t).map (fun e =>
    (e, elemAt (if selLane w (s.mask w.msk.toNat) (laneOf t e) then a else b).num t.width e))

/-- VSEL (R294). -/
def execVsel (w : VWord) (s : State) : Out :=
  vecWrite w 2 w.etype [(s.selSrcs w).1, (s.selSrcs w).2] {} false (s.selResults w) s

/-! ### Correctly rounded functions (R299, R44, R45) -/

/-- A function of R299 on f32 elements. -/
def transc (w : VWord) (f : Bool → Fp → Nat) (s : State) : Out :=
  elementwise w 8 false false (fun a _ _ => f s.flush (operandEl s.flush .f32 a)) s

/-- VEXP2 (R299). -/
def execVexp2 (w : VWord) (s : State) : Out := transc w fnExp2 s
/-- VLOG2 (R299). -/
def execVlog2 (w : VWord) (s : State) : Out := transc w fnLog2 s
/-- VSIG (R299). -/
def execVsig (w : VWord) (s : State) : Out := transc w fnSig s
/-- VTANH (R299). -/
def execVtanh (w : VWord) (s : State) : Out := transc w fnTanh s
/-- VRCP (R299). -/
def execVrcp (w : VWord) (s : State) : Out := transc w fnRcp s
/-- VRSQ (R299). -/
def execVrsq (w : VWord) (s : State) : Out := transc w fnRsq s

end Sys2Proof.Machine
end

