-- ==== Sys2Proof/Machine/VectorMem.lean ====
section
/-!
DEFINITION. Vector loads, stores, gathers, scatters and atomics (R302 to R307), and what they send through
windows (R284, R302, R352, R356, R357).
-/
namespace Sys2Proof.Machine

/-! ### Window elements -/

/-- An element on its way to a window address: address, operation, data. -/
structure WinEl where
  addr : Nat
  eop : Nat
  data : Word
deriving DecidableEq, Repr

/-- The relaxed bit of a word's elements through window `n` (R284). -/
def State.rlxOf (s : State) (w : VWord) (n : Nat) : Bool := if w.rlxo then w.rlxv else winRlx s.me n

/-- Runs of neighbours with one relaxed bit. -/
def groupRlx {α : Type} : List (Bool × α) → List (Bool × List α)
  | [] => []
  | (r, x) :: l =>
    match groupRlx l with
    | (q, xs) :: g => if q = r then (r, x :: xs) :: g else (r, [x]) :: (q, xs) :: g
    | [] => [(r, [x])]

/-- The refusals at the source of one word: one for each cause, with the lowest element's address and the
count (R364). -/
def State.refuse (s : State) (k cls : Nat) (l : List (Nat × Nat × Nat)) : State :=
  ([1, 5] : List Nat).foldl (fun s cause =>
    match l.filter (fun e => e.1 == cause) with
    | [] => s
    | (_, win, addr) :: r => s.addPend 1 k
        (.refused cause cls (winPkg s.me win) (winDie s.me win) (winCore s.me win) addr (r.length + 1))) s

/-- Elements of four bytes leave for lanterns, in order, in the cycle before `k` cycles after issue; those
refused at the source are logged (R352, R357). -/
def State.sendEls (s : State) (w : VWord) (k : Nat) (els : List WinEl) : State :=
  let x := s.me
  let res := els.map (fun e => (e, winResolve x e.addr 4))
  let ok := (res.filter (fun e => e.2.1 == 0)).map (fun (e, _, t) =>
    let n := winOf e.addr
    (s.rlxOf w n, (⟨n, winPkg x n, winDie x n, winCore x n, t, e.eop, e.data, 0⟩ : LElem)))
  let bad := (res.filter (fun e => e.2.1 != 0)).map (fun (e, c, t) => (c, winOf e.addr, t))
  let s := (groupRlx ok).foldl (fun s (r, l) => s.addPend 1 k (.lantern w.cls.toNat r false l)) s
  s.refuse k w.cls.toNat bad

/-- The pieces of a full store leave as packets; refused words are left out and logged (R302, R352). -/
def State.sendFull (s : State) (w : VWord) (k : Nat) (addr : List Nat) (num : Nat) : State :=
  let x := s.me
  let one := fun (j : Nat) =>
    let a := addr.getD j 0
    let n := winOf a
    let res := (List.range 32).map (fun i => winResolve x (a + 4 * i) 4)
    let mask := (List.range 32).foldl (fun m i => if (res.getD i (0, 0)).1 = 0 then m + 2 ^ i else m) 0
    ((s.rlxOf w n, (⟨n, winPkg x n, winDie x n, winCore x n, winBase x n + winOff a, mask,
        toLe 128 (num / 2 ^ (1024 * j))⟩ : Piece)),
      (res.filter (fun e => e.1 != 0)).map (fun (c, t) => (c, n, t)))
  let l := (List.range 4).map one
  let s := (groupRlx (l.map (·.1))).foldl (fun s (r, ps) => s.addPend 1 k (.full w.cls.toNat r ps)) s
  s.refuse k w.cls.toNat (l.flatMap (·.2))

/-- Windows of addresses, each with the packets it needs (R353). -/
def winNeeds (need : Nat) (addr : List Nat) : List (Nat × Nat) := (distinct (addr.map winOf)).map (fun n => (n, need))

/-- What the consumer of some lanes of an operand asks for: their poison (R397). -/
def laneUse (x : Src) : Form := { consumed := x.codes, poisoned := x.bad }

/-! ### VLD and VST (R302) -/

/-- The elements that VLD moves. -/
def State.loadResults (s : State) (w : VWord) : List (Nat × Nat) :=
  (s.activeEls w w.etype).map (fun e => (e, elemAt (s.actA w).num w.etype.width e))

/-- VLD (R302): carries poison. -/
def execVld (w : VWord) (s : State) : Out :=
  vecWrite w 4 w.etype [s.actA w] {} true (s.loadResults w) s

/-- The bytes of a lane that its active elements enable; a byte of two 4-bit elements is enabled by either. -/
def byteEnables (t : ElemTy) (act : List Nat) (lane : Nat) : Nat :=
  let mine := act.filter (fun e => laneOf t e == lane)
  (List.range 4).foldl (fun m b =>
    if mine.any (fun e => let lo := e * t.width / 8
        decide (lo ≤ 4 * lane + b) && decide (4 * lane + b < lo + max 1 (t.width / 8)))
    then m + 2 ^ b else m) 0

/-- Address of a lane of a kind 4 operand. -/
def State.laneAddr (s : State) (gb str off l : Nat) : Nat := (s.pieces gb str off).getD (l / 32) 0 + 4 * (l % 32)
/-- Region of the piece that a lane lies in. -/
def State.laneRegion (s : State) (gb str off l : Nat) : Region := regionOf ((s.pieces gb str off).getD (l / 32) 0)
/-- Every element is active and every piece lies in a window: the store is full (R302). -/
def State.fullStore (s : State) (w : VWord) (gb str off : Nat) : Bool :=
  (s.activeEls w w.etype).length == elemsOf w.etype && (s.pieces gb str off).all (fun p => regionOf p == .win)
/-- The lanes that VST sends through windows, and the elements that it writes to the scratchpad. -/
def State.outLanes (s : State) (w : VWord) (gb str off : Nat) : List Nat :=
  (lanesOf w.etype (s.activeEls w w.etype)).filter (fun l => s.laneRegion gb str off l == .win)
def State.hereEls (s : State) (w : VWord) (gb str off : Nat) : List El :=
  let t := w.etype
  let a := s.actA w
  ((s.activeEls w t).filter (fun e => s.laneRegion gb str off (laneOf t e) == .sp)).map (fun e =>
    (e, elemAt a.num t.width e, a.marked.contains (laneOf t e)))

/-- What VST asks for. -/
def vstForm (w : VWord) (gb str off : Nat) (s : State) : Form :=
  let addr := s.pieces gb str off
  let used := s.piecesOf gb str off (lanesOf w.etype (s.activeEls w w.etype))
  let a := s.actA w
  let inSp := used.filter (fun e => regionOf e.2 == .sp)
  let f : Form := {
    wtouch := inSp.map (fun e => blockOf e.2)
    windows := winNeeds (if s.fullStore w gb str off then 4 else 1)
      ((used.filter (fun e => regionOf e.2 == .win && winEn s.me (winOf e.2))).map (·.2))
    reads := [codeG gb]
    consumed := [codeG gb]
    rows := addr.flatMap (fun p => accRows (viewLat 2 [a] - 1) p 128)
    decode := s.pieceBad gb used true
    blocks := inSp.map (fun e => (e.2, 128))
    spWrite := !inSp.isEmpty }
  .joinAll [maskForm w, a.form, laneUse (s.srcA w w.etype (s.outLanes w gb str off)), f]

/-- What VST stores and sends, its operands read in state `s0`. -/
def State.vstDone (s s0 : State) (w : VWord) (gb str off : Nat) : State :=
  let t := w.etype
  let a := s0.actA w
  let lat := viewLat 2 [a]
  let addr := s0.pieces gb str off
  let here := s0.hereEls w gb str off
  let s := s.popAll [a]
  let s := if here.isEmpty then s else s.addDest 1 lat (spWriteOf t addr here)
  if s0.fullStore w gb str off then s.sendFull w lat addr a.num
  else s.sendEls w lat ((s0.outLanes w gb str off).map (fun l =>
    ⟨s0.laneAddr gb str off l, byteEnables t (s0.activeEls w t) l, BitVec.ofNat 32 (elemAt a.num 32 l)⟩))

/-- VST (R302). -/
def execVst (w : VWord) (s : State) : Out :=
  match w.d with
  | .sp gb str off =>
    s.engine 1 (vstForm w gb.toNat str.toNat off.toNat s) (fun s' => s'.vstDone s w gb.toNat str.toNat off.toNat)
  | _ => s.engine 1 { illegal := true } id

/-! ### Gather and scatter (R303 to R306) -/

/-- `addr(e)` of R303 for every lane. -/
def laneAddrs (base num : Nat) : List Nat :=
  (List.range 128).map (fun e => wrap (base + 4 * sext (elemAt num 32 e) 32) 32)

/-- The accesses of lane addresses in groups A and B, in a cycle after issue. -/
def laneRows (off : Nat) (hold : Bool) (addr : List Nat) : List Access :=
  (distinct ((addr.filter (fun a => regionOf a == .sp)).map bankRow)).map (fun r => ⟨off, r, hold⟩)

/-- Lane indices of VGATH in operand A, the addresses of its lanes (R303). -/
def State.gathIx (s : State) (w : VWord) : Src := s.srcA w .i32 (s.activeEls w w.etype)
def State.gathAddr (s : State) (w : VWord) (e : Nat) : Nat := (laneAddrs (s.count w.b) (s.gathIx w).num).getD e 0
/-- What VGATH asks for. -/
def vgathForm (w : VWord) (s : State) : Form :=
  let act := s.activeEls w w.etype
  let ix := s.gathIx w
  let hit := (act.map (s.gathAddr w)).filter (fun a => regionOf a == .sp)
  let f : Form := {
    touch := hit.map blockOf
    bytes := hit.map (fun a => (a, 4))
    rows := laneRows 0 false (laneAddrs (s.count w.b) ix.num)
    decode := (act.map (s.gathAddr w)).find? (fun a => a % 4 != 0 || regionOf a != .sp)
    blocks := hit.map (fun a => (a, 4)) }
  .joinAll [maskForm w, ix.used, countForm w.b, f, s.dstForm w.d 4 act]

/-- VGATH (R303): carries the poison of the words read. -/
def execVgath (w : VWord) (s : State) : Out :=
  let act := s.activeEls w w.etype
  let at_ := s.gathAddr w
  s.engine 1 (vgathForm w s) (fun s =>
    s.dstWrite w.d w.etype 4 (act.map (fun e => (e, ofLe (s.spBytes 1 (at_ e) 4), s.spMarkOf 1 (at_ e)))))

/-- The highest lane of those that meet a word stands (R305). -/
def lastWins : List (Nat × Nat × Bool) → List (Nat × Nat × Bool)
  | [] => []
  | e :: l => if l.any (fun f => f.1 == e.1) then lastWins l else e :: lastWins l

/-- What a scatter asks for: `cycles` after issue in which its rows are accessed (R282, R304). -/
def State.scatForm (s : State) (addr : List Nat) (act : List Nat) (cycles : List Nat) (hold : Bool) : Form :=
  let used := act.map (fun e => addr.getD e 0)
  let hit := used.filter (fun a => regionOf a == .sp)
  let win := used.filter (fun a => regionOf a == .win)
  { wtouch := hit.map blockOf
    windows := winNeeds 1 (win.filter (fun a => winEn s.me (winOf a)))
    rows := cycles.flatMap (fun c => laneRows c hold addr)
    decode := used.find? (fun a => a % 4 != 0 || (match regionOf a with
      | .sp => false
      | .win => !winEn s.me (winOf a)
      | _ => true))
    blocks := hit.map (fun a => (a, 4)) }

/-- Lane indices of a scatter in operand D, its data in operand A, the addresses of its lanes (R304). -/
def State.scatIx (s : State) (w : VWord) : Src := s.srcD w .i32 (s.activeEls w w.etype)
def State.scatA (s : State) (w : VWord) : Src := s.srcA w w.etype (s.activeEls w w.etype)
def State.scatAddrs (s : State) (w : VWord) : List Nat := laneAddrs (s.count w.b) (s.scatIx w).num
def State.scatAddr (s : State) (w : VWord) (e : Nat) : Nat := (s.scatAddrs w).getD e 0
/-- Its active lanes in windows, and those in the scratchpad. -/
def State.scatOut (s : State) (w : VWord) : List Nat :=
  (s.activeEls w w.etype).filter (fun e => regionOf (s.scatAddr w e) == .win)
def State.scatHere (s : State) (w : VWord) : List Nat :=
  (s.activeEls w w.etype).filter (fun e => regionOf (s.scatAddr w e) == .sp)

/-- What VSCAT asks for. -/
def vscatForm (w : VWord) (s : State) : Form :=
  let a := s.scatA w
  let f := { s.scatForm (s.scatAddrs w) (s.activeEls w w.etype) [viewLat 2 [a] - 1] false with
    spWrite := !(s.scatHere w).isEmpty }
  .joinAll [maskForm w, a.form, (s.scatIx w).used, countForm w.b, laneUse (s.srcA w w.etype (s.scatOut w)), f]

/-- What VSCAT stores and sends, its operands read in state `s0`. -/
def State.scatDone (s s0 : State) (w : VWord) : State :=
  let a := s0.scatA w
  let lat := viewLat 2 [a]
  let s := s.popAll [a]
  let put := lastWins ((s0.scatHere w).map (fun e =>
    (s0.scatAddr w e, elemAt a.num 32 e, a.marked.contains e)))
  let s := if put.isEmpty then s
    else s.addDest 1 lat (.sp 4 (put.flatMap (fun e => cellsOf e.1 (toLe 4 e.2.1)))
      (put.map (fun e => (e.1 / 4, e.2.2))))
  s.sendEls w lat ((s0.scatOut w).map (fun e => ⟨s0.scatAddr w e, 0xF, BitVec.ofNat 32 (elemAt a.num 32 e)⟩))

/-- VSCAT (R305). -/
def execVscat (w : VWord) (s : State) : Out :=
  s.engine 1 (vscatForm w s) (fun s' => s'.scatDone s w)

/-- New words of a local atomic: elements that meet one word act in order onto its old value (R306, R307). -/
def atomWords (f : Nat → Nat → Nat) (old : Nat → Nat) (els : List (Nat × Nat)) : Tab Nat :=
  els.foldl (fun (t : Tab Nat) e => t.put e.1 (f (t.get (old e.1) e.1) e.2)) []

/-- The words of a local atomic are written in cycle issue + 2 (R97, R283). -/
def State.atomWrite (s : State) (f : Nat → Nat → Nat) (els : List (Nat × Nat)) : State :=
  let t := atomWords f (fun a => ofLe (s.spBytes 1 a 4)) els
  if t.isEmpty then s
  else s.addPend 1 3 (.sp 4 (t.flatMap (fun e => cellsOf e.1 (toLe 4 e.2))) (t.map (fun e => (e.1 / 4, false))))

/-- The poison of the old values of a local atomic (R397). -/
def State.oldPoison (s : State) (addr : List Nat) : Form :=
  { bytes := addr.map (fun a => (a, 4))
    poisoned := (addr.find? (s.spMarkOf 1)).map (fun a => (a, 0)) }

/-- What VSCATA asks for. -/
def vscataForm (w : VWord) (s : State) : Form :=
  .joinAll [maskForm w, (s.scatA w).used, (s.scatIx w).used, countForm w.b,
    s.scatForm (s.scatAddrs w) (s.activeEls w w.etype) [0, 1, 2] true,
    s.oldPoison ((s.scatHere w).map (s.scatAddr w))]

/-- The sum of VSCATA: of f32 values, or of words. -/
def scataSum (w : VWord) (flush : Bool) (x y : Nat) : Nat :=
  if w.etype.isF then addF32 flush x y else (x + y) % 2 ^ 32
/-- Its code of R356. -/
def scataEop (w : VWord) : Nat := if w.etype.isF then 0x18 + w.fn.toNat % 2 else 0x10

/-- What VSCATA adds and sends, its operands read in state `s0`. -/
def State.scataDone (s s0 : State) (w : VWord) : State :=
  let a := s0.scatA w
  let s := s.popAll [a]
  let s := s.atomWrite (scataSum w s0.flush) ((s0.scatHere w).map (fun e => (s0.scatAddr w e, elemAt a.num 32 e)))
  s.sendEls w 3 ((s0.scatOut w).map (fun e => ⟨s0.scatAddr w e, scataEop w, BitVec.ofNat 32 (elemAt a.num 32 e)⟩))

/-- VSCATA (R306). -/
def execVscata (w : VWord) (s : State) : Out :=
  s.engine 1 (vscataForm w s) (fun s' => s'.scataDone s w)

/-! ### VATOM (R307) -/

/-- The operation of `FN`[2:0] on words. -/
def atomOp (op : Nat) (signed flush : Bool) (x y : Nat) : Nat :=
  let lt := fun (a b : Nat) =>
    if signed then decide (sext a 32 < sext b 32) else decide (a < b)
  match op with
  | 0 => (x + y) % 2 ^ 32
  | 1 => Nat.land x y
  | 2 => Nat.lor x y
  | 3 => Nat.xor x y
  | 4 => if lt y x then y else x
  | 5 => if lt x y then y else x
  | _ => addF32 flush x y

/-- The code of R356 for an operation of VATOM. -/
def atomEop (fn : Nat) (signed : Bool) : Nat :=
  let op := fn % 8
  if op ≤ 3 then 0x10 + op
  else if op ≤ 5 then (if signed then 0x10 else 0x12) + op
  else 0x18 + fn / 8 % 2

/-- The active elements of VATOM in windows, and those in the scratchpad. -/
def State.atomOut (s : State) (w : VWord) (gb str off : Nat) : List Nat :=
  (s.activeEls w w.etype).filter (fun e => s.laneRegion gb str off e == .win)
def State.atomHere (s : State) (w : VWord) (gb str off : Nat) : List Nat :=
  (s.activeEls w w.etype).filter (fun e => s.laneRegion gb str off e == .sp)

/-- What VATOM asks for: its banks are reserved for three cycles (R97). -/
def vatomForm (w : VWord) (gb str off : Nat) (s : State) : Form :=
  let addr := s.pieces gb str off
  let used := s.piecesOf gb str off (s.activeEls w w.etype)
  let inSp := used.filter (fun e => regionOf e.2 == .sp)
  let hold : Nat → List Access := fun o =>
    (addr.flatMap (fun p => accRows o p 128)).map (fun (r : Access) => { r with hold := true })
  let f : Form := {
    wtouch := inSp.map (fun e => blockOf e.2)
    windows := winNeeds 1 ((used.filter (fun e => regionOf e.2 == .win && winEn s.me (winOf e.2))).map (·.2))
    reads := [codeG gb]
    consumed := [codeG gb]
    rows := hold 0 ++ hold 1 ++ hold 2
    decode := s.pieceBad gb used true
    blocks := inSp.map (fun e => (e.2, 128)) }
  .joinAll [maskForm w, (s.scatA w).used, f,
    s.oldPoison ((s.atomHere w gb str off).map (s.laneAddr gb str off))]

/-- What VATOM does and sends, its operands read in state `s0`. -/
def State.atomDone (s s0 : State) (w : VWord) (gb str off : Nat) : State :=
  let t := w.etype
  let fn := w.fn.toNat
  let a := s0.scatA w
  let s := s.popAll [a]
  let s := s.atomWrite (atomOp (fn % 8) t.isSigned s0.flush)
    ((s0.atomHere w gb str off).map (fun e => (s0.laneAddr gb str off e, elemAt a.num 32 e)))
  s.sendEls w 3 ((s0.atomOut w gb str off).map (fun e =>
    ⟨s0.laneAddr gb str off e, atomEop fn t.isSigned, BitVec.ofNat 32 (elemAt a.num 32 e)⟩))

/-- VATOM (R307). -/
def execVatom (w : VWord) (s : State) : Out :=
  match w.d with
  | .sp gb str off =>
    s.engine 1 (vatomForm w gb.toNat str.toNat off.toNat s) (fun s' => s'.atomDone s w gb.toNat str.toNat off.toNat)
  | _ => s.engine 1 { illegal := true } id

end Sys2Proof.Machine
end

