-- ==== Sys2Proof/Machine/VectorMove.lean ====
section
/-!
DEFINITION. Vector moves and permutes, narrowing and widening, conversions, reductions and the vector idle
word (R295 to R298, R300, R301, R312).
-/
namespace Sys2Proof.Machine

/-! ### Moves and permutes (R295) -/

/-- The sources of a move or permute, read whole. -/
def State.permSrcs (s : State) (w : VWord) (two : Bool) : List Src :=
  s.srcA w w.etype allLanes :: (if two then [s.srcB w w.etype allLanes] else [])
/-- Its results: the active elements of D from the encodings. -/
def State.permResults (s : State) (w : VWord) (f : (Nat → Nat) → (Nat → Nat) → Nat → Nat) : List (Nat × Nat) :=
  let t := w.etype
  let get := fun (x : Src) (e : Nat) => elemAt x.num t.width e
  (s.activeEls w t).map (fun e => (e, f (get (s.srcA w t allLanes)) (get (s.srcB w t allLanes)) e))

/-- A move or permute. -/
def permute (w : VWord) (two moves : Bool) (more : Form) (f : (Nat → Nat) → (Nat → Nat) → Nat → Nat)
    (s : State) : Out :=
  vecWrite w 2 w.etype (s.permSrcs w two) more moves (s.permResults w f) s

/-- VMOV (R295): carries poison (R397). -/
def execVmov (w : VWord) (s : State) : Out := permute w false true {} (fun a _ e => a e) s
/-- VPERM (R295). -/
def execVperm (w : VWord) (s : State) : Out :=
  permute w true false {} (fun a b e => a (b e % elemsOf w.etype)) s
/-- VROT (R295). -/
def execVrot (w : VWord) (s : State) : Out :=
  let n := s.count w.b
  permute w false false (countForm w.b) (fun a _ e => a ((e + n) % elemsOf w.etype)) s
/-- VBCAST (R295). -/
def execVbcast (w : VWord) (s : State) : Out :=
  let n := s.count w.b
  permute w false false (countForm w.b) (fun a _ _ => a (n % elemsOf w.etype)) s
/-- VZIP (R295). -/
def execVzip (w : VWord) (s : State) : Out :=
  let h := w.fn.toNat % 2 * (elemsOf w.etype / 2)
  permute w true false {} (fun a b e => if e % 2 = 0 then a (h + e / 2) else b (h + e / 2)) s
/-- VUNZIP (R295). -/
def execVunzip (w : VWord) (s : State) : Out :=
  let n := elemsOf w.etype
  let h := w.fn.toNat % 2
  permute w true false {} (fun a b e => if e < n / 2 then a (2 * e + h) else b (2 * (e - n / 2) + h)) s
/-- VIOTA (R295). -/
def execViota (w : VWord) (s : State) : Out :=
  permute w false false {} (fun a _ e => (a 0 + e) % 2 ^ w.etype.width) s

/-! ### Narrow and widen (R296) -/

/-- The sources of VPACK: the elements of A are followed by those of B. -/
def State.packSrcs (s : State) (w : VWord) : Src × Src :=
  let t := w.etype
  let n := elemsOf t
  let act := s.activeEls w (narrowTy t)
  (s.srcA w t (lanesOf t (act.filter (fun e => decide (e < n)))),
    s.srcB w t (lanesOf t ((act.filter (fun e => decide (n ≤ e))).map (fun e => e - n))))
/-- The results of VPACK (R296): each value clamped to the narrow type. -/
def State.packResults (s : State) (w : VWord) : List (Nat × Nat) :=
  let t := w.etype
  let u := narrowTy t
  let n := elemsOf t
  let (a, b) := s.packSrcs w
  let val := fun (e : Nat) =>
    intOf t (if e < n then elemAt a.num t.width e else elemAt b.num t.width (e - n))
  (s.activeEls w u).map (fun e => (e, wrap (clamp (val e) (intLo u) (intHi u)) u.width))

/-- VPACK (R296). -/
def execVpack (w : VWord) (s : State) : Out :=
  vecWrite w 2 (narrowTy w.etype) [(s.packSrcs w).1, (s.packSrcs w).2] {} false (s.packResults w) s

/-- The source of VUNPACK, from element `FN`[0] times the count of D. -/
def State.unpackSrc (s : State) (w : VWord) : Src :=
  let u := narrowTy w.etype
  let o := w.fn.toNat % 2 * elemsOf w.etype
  s.srcA w u (lanesOf u ((s.activeEls w w.etype).map (fun e => o + e)))
/-- The results of VUNPACK (R296). -/
def State.unpackResults (s : State) (w : VWord) : List (Nat × Nat) :=
  let t := w.etype
  let u := narrowTy t
  let o := w.fn.toNat % 2 * elemsOf t
  (s.activeEls w t).map (fun e => (e, wrap (intOf u (elemAt (s.unpackSrc w).num u.width (o + e))) t.width))

/-- VUNPACK (R296). -/
def execVunpack (w : VWord) (s : State) : Out :=
  vecWrite w 2 w.etype [s.unpackSrc w] {} false (s.unpackResults w) s

/-! ### Conversions (R297, R298) -/

/-- The source of a conversion, the type and the elements it writes: index `i` of `M` uses position `k M + i`
on the longer side (R298). -/
def State.cvt (s : State) (w : VWord) (n : Nat) : Src × ElemTy × List (Nat × Nat) :=
  let td := w.etype
  let ts := ElemTy.ofCode w.fn.toNat
  let es := elemsOf ts
  let ed := elemsOf td
  let m := min es ed
  let k := n % (max es ed / m)
  let side := if es < ed then ts else if ed < es then td else if td.isS then ts else td
  let srcPos := fun (i : Nat) => if ed < es then k * m + i else i
  let dstPos := fun (i : Nat) => if es < ed then k * m + i else i
  let mask := s.mask w.msk.toNat
  let cnt := s.me.nAt w.nv.toNat
  let act := (List.range m).filter (fun i => validEl w cnt side i && selLane w mask (laneOf side i))
  if td.isS then
    let blocks := (List.range (m / 32)).filter (fun j => act.any (fun i => i / 32 == j))
    let idx := fun (j : Nat) => upFrom (32 * j) 32
    let a := s.srcA w ts (lanesOf ts ((blocks.flatMap idx).map srcPos))
    let els := blocks.flatMap (fun j =>
      let enc := seEncode td.width w.rnd ((idx j).map (fun i => elemVal s.flush ts a.num (srcPos i)))
      (List.range 32).map (fun b => (32 * (dstPos (32 * j) / 32) + b, elemAt enc 8 b)))
    (a, .n8, els)
  else
    let a := s.srcA w ts (lanesOf ts (act.map srcPos))
    (a, td, act.map (fun i =>
      (dstPos i, convert s.flush td w.rnd w.sat (elemVal s.flush ts a.num (srcPos i)))))

/-- A conversion (R298). -/
def vconvert (w : VWord) (n : Nat) (more : Form) (s : State) : Out :=
  let c := s.cvt w n
  vecWrite w 2 c.2.1 [c.1] more false c.2.2 s

/-- VCVT (R298). -/
def execVcvt (w : VWord) (s : State) : Out := vconvert w 0 {} s
/-- VCVTS (R298). -/
def execVcvts (w : VWord) (s : State) : Out := vconvert w (s.count w.b) (countForm w.b) s

/-! ### Reductions (R300, R301) -/

/-- The type of a reduction's result (R300). -/
def redTy (op : VOp) (w : VWord) : ElemTy := reduceTy op w.etype (bitAt w.fn.toNat 0)
/-- The decoded active elements of operand A, ascending. -/
def State.actVals (s : State) (w : VWord) : List Fp :=
  (s.activeEls w w.etype).map (elemVal s.flush w.etype (s.actA w).num)

/-- A reduction of the decoded active elements to position 0 of D. -/
def reduce (op : VOp) (w : VWord) (f : ElemTy → List Fp → Fp) (rm : RMode) (sat : Bool) (s : State) : Out :=
  let u := redTy op w
  vecWrite w 2 u [s.actA w] {} false [(0, deliver s.flush u rm sat (f u (s.actVals w)))] s

/-- The exact sum of a list; +0 when it is empty. A single element is the sum as it stands, a zero with its sign: R285's
rule for a zero sum speaks of two addends (DESIGN CHOICE, log 77). -/
def sumAll (rm : RMode) : List Fp → Fp
  | [] => .zero
  | x :: xs => xs.foldl (Fp.add rm) x

/-- The greatest or least member, `d` when there is none. -/
def bestOf (f : Fp → Fp → Fp) (d : Fp) : List Fp → Fp
  | [] => d
  | x :: xs => xs.foldl f x

/-- VRSUM (R301). -/
def execVrsum (w : VWord) (s : State) : Out := reduce .vrsum w (fun _ l => sumAll w.rnd l) w.rnd w.sat s
/-- VRMAX (R301). -/
def execVrmax (w : VWord) (s : State) : Out :=
  reduce .vrmax w (fun u l => bestOf Fp.maxZ (if u.isF then .inf true else .ofInt (intLo u)) l) .rne false s
/-- VRMIN (R301). -/
def execVrmin (w : VWord) (s : State) : Out :=
  reduce .vrmin w (fun u l => bestOf Fp.minZ (if u.isF then .inf false else .ofInt (intHi u)) l) .rne false s
/-- VRAMAX (R301). -/
def execVramax (w : VWord) (s : State) : Out :=
  reduce .vramax w (fun _ l => bestOf Fp.maxZ .zero (l.map Fp.abs)) .rne false s

/-! ### Idle (R169, R312) -/

/-- VIDLE: the next word is timed from the issue plus the count (R169). -/
def execVidle (_n : BitVec 4) (cnt : BitVec 20) (s : State) : Out :=
  s.engine 1 {} (fun s => s.modMe (fun x => { x with vs := { x.vs with skip := cnt.toNat } }))

end Sys2Proof.Machine
end

