-- ==== Sys2Proof/Machine/VectorSum.lean ====
section
/-!
DEFINITION. Summation by parts into running sums, and running-sum conversion, clear and add (R308 to R311).
-/
namespace Sys2Proof.Machine

/-- Additions of exact values into lanes of a y register, made `k` cycles after issue (R47, R311). -/
def State.addSums (s : State) (n k : Nat) (l : List (Nat × Fp)) : State :=
  let (k, s) := s.latency k
  l.foldl (fun s (lane, v) =>
    s.addPend 1 k (match v with
      | .nan => .yadd n lane true false false 0 0 false
      | .inf neg => .yadd n lane false true neg 0 0 false
      | .fin neg m e => .yadd n lane false false neg m e false)) s

/-- Bytes of a record of VSBP (R308). -/
def sbpZ (w : VWord) : Nat := if bitAt w.fn.toNat 4 then 64 else 32
/-- The lane that record `r` adds to. -/
def sbpLane (w : VWord) (r : Nat) : Nat := w.fn.toNat % 16 * (512 / sbpZ w) + r
/-- The records that VSBP evaluates: valid, their lanes selected. -/
def State.sbpRecs (s : State) (w : VWord) : List Nat :=
  (List.range (512 / sbpZ w)).filter (fun r =>
    decide (r < s.me.nAt w.nv.toNat) && selLane w (s.mask w.msk.toNat) (sbpLane w r))
/-- Its activations and its records. -/
def State.sbpA (s : State) (w : VWord) : Src := s.srcA w w.etype (if (s.sbpRecs w).isEmpty then [] else List.range 8)
def State.sbpB (s : State) (w : VWord) : Src :=
  s.srcB w .n8 ((s.sbpRecs w).flatMap (fun r => upFrom (sbpZ w / 4 * r) (sbpZ w / 4)))
def State.sbpRec (s : State) (w : VWord) (r : Nat) : Nat := elemAt (s.sbpB w).num (8 * sbpZ w) r
/-- What VSBP asks for: a record of another size is the record-format fault (R309). -/
def vsbpForm (w : VWord) (s : State) : Form :=
  let bad := ((s.sbpRecs w).find? (fun r => recSize (recCode (s.sbpRec w r)) != some (sbpZ w))).map (fun r =>
    (0x0D, sbpLane w r, recCode (s.sbpRec w r)))
  .joinAll [maskForm w, (s.sbpA w).used, (s.sbpB w).used, { wtouch := [5], last := bad }]
/-- The sums of VSBP by lane. -/
def State.sbpSums (s : State) (w : VWord) : List (Nat × Fp) :=
  let acts := (List.range 32).map (elemVal s.flush w.etype (s.sbpA w).num)
  (s.sbpRecs w).map (fun r => (sbpLane w r, recValue s.flush (s.sbpRec w r) acts))

/-- VSBP (R308, R309). -/
def execVsbp (w : VWord) (s : State) : Out :=
  let a := s.sbpA w
  let sums := s.sbpSums w
  s.engine 1 (vsbpForm w s) (fun s => (s.popAll [a]).addSums (yNo w.d) 12 sums)

/-- The exact value of a running-sum lane (R46). -/
def yFp (y : DWord) (p : Nat) : Fp := .fin (decide (y.toInt < 0)) y.toInt.natAbs (-(p : Int))

/-- What VYCVT asks for besides its destination. -/
def State.ycvtForm (s : State) (w : VWord) : Form :=
  { touch := [5], reads := [codeY (yNo w.a)], consumed := (s.activeEls w .f32).map (codeYLane (yNo w.a)) }
/-- The results of VYCVT (R310): each active lane, a multiple of `2 ^ -POINT`, rounded to f32. -/
def State.ycvtResults (s : State) (w : VWord) : List (Nat × Nat) :=
  let n := yNo w.a
  (s.activeEls w .f32).map (fun l => (l, toFloat s.flush .f32 w.rnd false false (yFp (s.yLane n l) (s.me.yPoint n))))

/-- VYCVT (R310). -/
def execVycvt (w : VWord) (s : State) : Out :=
  vecWrite w 2 .f32 [] (s.ycvtForm w) false (s.ycvtResults w) s

/-- What VYCLR asks for. -/
def vyclrForm (w : VWord) : Form := .joinAll [maskForm w, { wtouch := [5] }]

/-- VYCLR (R310). -/
def execVyclr (w : VWord) (s : State) : Out :=
  let act := s.activeEls w .f32
  s.engine 1 (vyclrForm w) (fun s => s.addDest 1 2 (.yclr (yNo w.d) act))

/-- The source of VYADD, and what it asks for. -/
def State.yaddA (s : State) (w : VWord) : Src := s.srcA w w.etype (s.activeEls w w.etype)
def vyaddForm (w : VWord) (s : State) : Form := .joinAll [maskForm w, (s.yaddA w).used, { wtouch := [5] }]

/-- VYADD (R310). -/
def execVyadd (w : VWord) (s : State) : Out :=
  let a := s.yaddA w
  let sums := (s.activeEls w w.etype).map (fun e => (e, elemVal s.flush w.etype a.num e))
  s.engine 1 (vyaddForm w s) (fun s => (s.popAll [a]).addSums (yNo w.d) (viewLat 2 [a]) sums)

end Sys2Proof.Machine
end

