-- ==== Sys2Proof/Machine/Dispatch.lean ====
section
/-!
DEFINITION. The meaning of every instruction of Syntax.lean: one arm per constructor.
-/
namespace Sys2Proof.Machine

def exec (i : Instr) (s : State) : Host.Outcome State Fault Refusal :=
  match i with
  | .add h d a b => Sys2Proof.Machine.execAdd h d a b s
  | .sub h d a b => Sys2Proof.Machine.execSub h d a b s
  | .and h d a b => Sys2Proof.Machine.execAnd h d a b s
  | .or h d a b => Sys2Proof.Machine.execOr h d a b s
  | .xor h d a b => Sys2Proof.Machine.execXor h d a b s
  | .andn h d a b => Sys2Proof.Machine.execAndn h d a b s
  | .shl h d a b => Sys2Proof.Machine.execShl h d a b s
  | .shr h d a b => Sys2Proof.Machine.execShr h d a b s
  | .sra h d a b => Sys2Proof.Machine.execSra h d a b s
  | .min h d a b => Sys2Proof.Machine.execMin h d a b s
  | .max h d a b => Sys2Proof.Machine.execMax h d a b s
  | .minu h d a b => Sys2Proof.Machine.execMinu h d a b s
  | .maxu h d a b => Sys2Proof.Machine.execMaxu h d a b s
  | .mul h d a b => Sys2Proof.Machine.execMul h d a b s
  | .mulh h d a b => Sys2Proof.Machine.execMulh h d a b s
  | .mulhu h d a b => Sys2Proof.Machine.execMulhu h d a b s
  | .div h d a b => Sys2Proof.Machine.execDiv h d a b s
  | .divu h d a b => Sys2Proof.Machine.execDivu h d a b s
  | .rem h d a b => Sys2Proof.Machine.execRem h d a b s
  | .remu h d a b => Sys2Proof.Machine.execRemu h d a b s
  | .ceq h d a b => Sys2Proof.Machine.execCeq h d a b s
  | .cne h d a b => Sys2Proof.Machine.execCne h d a b s
  | .clt h d a b => Sys2Proof.Machine.execClt h d a b s
  | .cle h d a b => Sys2Proof.Machine.execCle h d a b s
  | .cltu h d a b => Sys2Proof.Machine.execCltu h d a b s
  | .cleu h d a b => Sys2Proof.Machine.execCleu h d a b s
  | .fceq h d a b => Sys2Proof.Machine.execFceq h d a b s
  | .fclt h d a b => Sys2Proof.Machine.execFclt h d a b s
  | .fcle h d a b => Sys2Proof.Machine.execFcle h d a b s
  | .fcun h d a b => Sys2Proof.Machine.execFcun h d a b s
  | .pand h d a b => Sys2Proof.Machine.execPand h d a b s
  | .por h d a b => Sys2Proof.Machine.execPor h d a b s
  | .pxor h d a b => Sys2Proof.Machine.execPxor h d a b s
  | .pandn h d a b => Sys2Proof.Machine.execPandn h d a b s
  | .pnot h d a => Sys2Proof.Machine.execPnot h d a s
  | .psave h d => Sys2Proof.Machine.execPsave h d s
  | .pload h a => Sys2Proof.Machine.execPload h a s
  | .fadd h d a b => Sys2Proof.Machine.execFadd h d a b s
  | .fsub h d a b => Sys2Proof.Machine.execFsub h d a b s
  | .fmul h d a b => Sys2Proof.Machine.execFmul h d a b s
  | .fma h d a b => Sys2Proof.Machine.execFma h d a b s
  | .fdiv h d a b => Sys2Proof.Machine.execFdiv h d a b s
  | .fmin h d a b => Sys2Proof.Machine.execFmin h d a b s
  | .fmax h d a b => Sys2Proof.Machine.execFmax h d a b s
  | .fabs h d a => Sys2Proof.Machine.execFabs h d a s
  | .fneg h d a => Sys2Proof.Machine.execFneg h d a s
  | .fcvti h d a => Sys2Proof.Machine.execFcvti h d a s
  | .fcvtiz h d a => Sys2Proof.Machine.execFcvtiz h d a s
  | .fcvtf h d a => Sys2Proof.Machine.execFcvtf h d a s
  | .xadd h d a b => Sys2Proof.Machine.execXadd h d a b s
  | .xset h d a b => Sys2Proof.Machine.execXset h d a b s
  | .xlo h d a => Sys2Proof.Machine.execXlo h d a s
  | .xhi h d a => Sys2Proof.Machine.execXhi h d a s
  | .xmov h d a => Sys2Proof.Machine.execXmov h d a s
  | .addi h d a imm => Sys2Proof.Machine.execAddi h d a imm s
  | .andi h d a imm => Sys2Proof.Machine.execAndi h d a imm s
  | .ori h d a imm => Sys2Proof.Machine.execOri h d a imm s
  | .xori h d a imm => Sys2Proof.Machine.execXori h d a imm s
  | .shli h d a imm => Sys2Proof.Machine.execShli h d a imm s
  | .shri h d a imm => Sys2Proof.Machine.execShri h d a imm s
  | .srai h d a imm => Sys2Proof.Machine.execSrai h d a imm s
  | .ceqi h d a imm => Sys2Proof.Machine.execCeqi h d a imm s
  | .clti h d a imm => Sys2Proof.Machine.execClti h d a imm s
  | .xaddi h d a imm => Sys2Proof.Machine.execXaddi h d a imm s
  | .liu h d imm => Sys2Proof.Machine.execLiu h d imm s
  | .lim h d imm => Sys2Proof.Machine.execLim h d imm s
  | .ldb h d a cls off => Sys2Proof.Machine.execLdb h d a cls off s
  | .ldh h d a cls off => Sys2Proof.Machine.execLdh h d a cls off s
  | .ldw h d a cls off => Sys2Proof.Machine.execLdw h d a cls off s
  | .stb h d a cls off => Sys2Proof.Machine.execStb h d a cls off s
  | .sth h d a cls off => Sys2Proof.Machine.execSth h d a cls off s
  | .stw h d a cls off => Sys2Proof.Machine.execStw h d a cls off s
  | .ldwAcq h d a cls off => Sys2Proof.Machine.execLdwAcq h d a cls off s
  | .stwRel h d a cls off => Sys2Proof.Machine.execStwRel h d a cls off s
  | .ldg h d xa cls tp ord => Sys2Proof.Machine.execLdg h d xa cls tp ord s
  | .stg h d xa cls tp ord => Sys2Proof.Machine.execStg h d xa cls tp ord s
  | .ldgx h d xa cls tp ord => Sys2Proof.Machine.execLdgx h d xa cls tp ord s
  | .stgx h d xa cls tp ord => Sys2Proof.Machine.execStgx h d xa cls tp ord s
  | .gadd h d xa cls tp ord => Sys2Proof.Machine.execGadd h d xa cls tp ord s
  | .gmax h d xa cls tp ord => Sys2Proof.Machine.execGmax h d xa cls tp ord s
  | .gswap h d xa cls tp ord => Sys2Proof.Machine.execGswap h d xa cls tp ord s
  | .gcas h d xa cls tp ord => Sys2Proof.Machine.execGcas h d xa cls tp ord s
  | .aadd h d a cls off => Sys2Proof.Machine.execAadd h d a cls off s
  | .amin h d a cls off => Sys2Proof.Machine.execAmin h d a cls off s
  | .amax h d a cls off => Sys2Proof.Machine.execAmax h d a cls off s
  | .aor h d a cls off => Sys2Proof.Machine.execAor h d a cls off s
  | .aswap h d a cls off => Sys2Proof.Machine.execAswap h d a cls off s
  | .acas h d a cls off => Sys2Proof.Machine.execAcas h d a cls off s
  | .spl h d imm => Sys2Proof.Machine.execSpl h d imm s
  | .sps h d imm => Sys2Proof.Machine.execSps h d imm s
  | .pbr h bn loff slot => Sys2Proof.Machine.execPbr h bn loff slot s
  | .br h bn => Sys2Proof.Machine.execBr h bn s
  | .call h bn => Sys2Proof.Machine.execCall h bn s
  | .ret h => Sys2Proof.Machine.execRet h s
  | .lstart h lvl => Sys2Proof.Machine.execLstart h lvl s
  | .crd h d creg => Sys2Proof.Machine.execCrd h d creg s
  | .cwr h d creg => Sys2Proof.Machine.execCwr h d creg s
  | .cfence h scope mask => Sys2Proof.Machine.execCfence h scope mask s
  | .waitv h d xa cls => Sys2Proof.Machine.execWaitv h d xa cls s
  | .idle n cnt => Sys2Proof.Machine.execIdle n cnt s
  | .nop h => Sys2Proof.Machine.execNop h s
  | .tret h => Sys2Proof.Machine.execTret h s
  | .trap h code => Sys2Proof.Machine.execTrap h code s
  | .featq h a => Sys2Proof.Machine.execFeatq h a s
  | .tlbinv h tp xa a => Sys2Proof.Machine.execTlbinv h tp xa a s
  | .ctxpark h tp a => Sys2Proof.Machine.execCtxpark h tp a s
  | .ctxrun h tp xa a => Sys2Proof.Machine.execCtxrun h tp xa a s
  | .kindle h tp a => Sys2Proof.Machine.execKindle h tp a s
  | .douse h tp a => Sys2Proof.Machine.execDouse h tp a s
  | .tagset h tp a => Sys2Proof.Machine.execTagset h tp a s
  | .fbpop h a => Sys2Proof.Machine.execFbpop h a s
  | .selftest h tp a => Sys2Proof.Machine.execSelftest h tp a s
  | .shsleep h a => Sys2Proof.Machine.execShsleep h a s
  | .cpy h tp xa a => Sys2Proof.Machine.execCpy h tp xa a s
  | .cpyt h tp xa a => Sys2Proof.Machine.execCpyt h tp xa a s
  | .ccvt h tp xa a => Sys2Proof.Machine.execCcvt h tp xa a s
  | .cqnt h tp xa a => Sys2Proof.Machine.execCqnt h tp xa a s
  | .cqnth h tp xa a => Sys2Proof.Machine.execCqnth h tp xa a s
  | .csort h tp xa a => Sys2Proof.Machine.execCsort h tp xa a s
  | .ccmpb h tp xa a => Sys2Proof.Machine.execCcmpb h tp xa a s
  | .cexpb h tp xa a => Sys2Proof.Machine.execCexpb h tp xa a s
  | .ccmpp h tp xa a => Sys2Proof.Machine.execCcmpp h tp xa a s
  | .cexpp h tp xa a => Sys2Proof.Machine.execCexpp h tp xa a s
  | .cdec h tp xa a => Sys2Proof.Machine.execCdec h tp xa a s
  | .cenc h tp xa a => Sys2Proof.Machine.execCenc h tp xa a s
  | .cfill h tp a => Sys2Proof.Machine.execCfill h tp a s
  | .cgath h tp xa a => Sys2Proof.Machine.execCgath h tp xa a s
  | .cscat h tp xa a => Sys2Proof.Machine.execCscat h tp xa a s
  | .pcpy h tp xa a => Sys2Proof.Machine.execPcpy h tp xa a s
  | .pcvt h tp xa a => Sys2Proof.Machine.execPcvt h tp xa a s
  | .pdec h tp xa a => Sys2Proof.Machine.execPdec h tp xa a s
  | .penc h tp xa a => Sys2Proof.Machine.execPenc h tp xa a s
  | .qbind h q a => Sys2Proof.Machine.execQbind h q a s
  | .qrel h q => Sys2Proof.Machine.execQrel h q s
  | .lflush h tp a => Sys2Proof.Machine.execLflush h tp a s
  | .scene n => Sys2Proof.Machine.execScene n s
  | .sceneLast n => Sys2Proof.Machine.execSceneLast n s
  | .alignc h tp a => Sys2Proof.Machine.execAlignc h tp a s
  | .vadd w => Sys2Proof.Machine.execVadd w s
  | .vsub w => Sys2Proof.Machine.execVsub w s
  | .vmul w => Sys2Proof.Machine.execVmul w s
  | .vfma w => Sys2Proof.Machine.execVfma w s
  | .vfms w => Sys2Proof.Machine.execVfms w s
  | .vmin w => Sys2Proof.Machine.execVmin w s
  | .vmax w => Sys2Proof.Machine.execVmax w s
  | .vabs w => Sys2Proof.Machine.execVabs w s
  | .vneg w => Sys2Proof.Machine.execVneg w s
  | .vmulh w => Sys2Proof.Machine.execVmulh w s
  | .vand w => Sys2Proof.Machine.execVand w s
  | .vor w => Sys2Proof.Machine.execVor w s
  | .vxor w => Sys2Proof.Machine.execVxor w s
  | .vnot w => Sys2Proof.Machine.execVnot w s
  | .vshl w => Sys2Proof.Machine.execVshl w s
  | .vshr w => Sys2Proof.Machine.execVshr w s
  | .vcmp w => Sys2Proof.Machine.execVcmp w s
  | .vmand w => Sys2Proof.Machine.execVmand w s
  | .vmor w => Sys2Proof.Machine.execVmor w s
  | .vmxor w => Sys2Proof.Machine.execVmxor w s
  | .vmnot w => Sys2Proof.Machine.execVmnot w s
  | .vmcnt w => Sys2Proof.Machine.execVmcnt w s
  | .vsel w => Sys2Proof.Machine.execVsel w s
  | .vclamp w => Sys2Proof.Machine.execVclamp w s
  | .vmov w => Sys2Proof.Machine.execVmov w s
  | .vperm w => Sys2Proof.Machine.execVperm w s
  | .vrot w => Sys2Proof.Machine.execVrot w s
  | .vbcast w => Sys2Proof.Machine.execVbcast w s
  | .vzip w => Sys2Proof.Machine.execVzip w s
  | .vunzip w => Sys2Proof.Machine.execVunzip w s
  | .vpack w => Sys2Proof.Machine.execVpack w s
  | .vunpack w => Sys2Proof.Machine.execVunpack w s
  | .viota w => Sys2Proof.Machine.execViota w s
  | .vcvt w => Sys2Proof.Machine.execVcvt w s
  | .vcvts w => Sys2Proof.Machine.execVcvts w s
  | .vexp2 w => Sys2Proof.Machine.execVexp2 w s
  | .vlog2 w => Sys2Proof.Machine.execVlog2 w s
  | .vsig w => Sys2Proof.Machine.execVsig w s
  | .vtanh w => Sys2Proof.Machine.execVtanh w s
  | .vrcp w => Sys2Proof.Machine.execVrcp w s
  | .vrsq w => Sys2Proof.Machine.execVrsq w s
  | .vrsum w => Sys2Proof.Machine.execVrsum w s
  | .vrmax w => Sys2Proof.Machine.execVrmax w s
  | .vrmin w => Sys2Proof.Machine.execVrmin w s
  | .vramax w => Sys2Proof.Machine.execVramax w s
  | .vld w => Sys2Proof.Machine.execVld w s
  | .vst w => Sys2Proof.Machine.execVst w s
  | .vgath w => Sys2Proof.Machine.execVgath w s
  | .vscat w => Sys2Proof.Machine.execVscat w s
  | .vscata w => Sys2Proof.Machine.execVscata w s
  | .vatom w => Sys2Proof.Machine.execVatom w s
  | .vsbp w => Sys2Proof.Machine.execVsbp w s
  | .vycvt w => Sys2Proof.Machine.execVycvt w s
  | .vyclr w => Sys2Proof.Machine.execVyclr w s
  | .vyadd w => Sys2Proof.Machine.execVyadd w s
  | .vidle n cnt => Sys2Proof.Machine.execVidle n cnt s
  | .vscene n => Sys2Proof.Machine.execVscene n s
  | .vsceneLast n => Sys2Proof.Machine.execVsceneLast n s
  | .mnop stamp => Sys2Proof.Machine.execMnop stamp s
  | .mdot w => Sys2Proof.Machine.execMdot w s
  | .msbp w => Sys2Proof.Machine.execMsbp w s
  | .mlatch w => Sys2Proof.Machine.execMlatch w s
  | .mzero w => Sys2Proof.Machine.execMzero w s
  | .mret w => Sys2Proof.Machine.execMret w s
  | .mretz w => Sys2Proof.Machine.execMretz w s
  | .mldt w => Sys2Proof.Machine.execMldt w s
  | .mstt w => Sys2Proof.Machine.execMstt w s
  | .msttb w => Sys2Proof.Machine.execMsttb w s
  | .mstth w => Sys2Proof.Machine.execMstth w s
  | .mftld w => Sys2Proof.Machine.execMftld w s
  | .mtok w => Sys2Proof.Machine.execMtok w s
  | .mscene stamp => Sys2Proof.Machine.execMscene stamp s
  | .msceneLast stamp => Sys2Proof.Machine.execMsceneLast stamp s
  | .launchStart => Sys2Proof.Machine.execLaunchStart s
  | .loopIterationStart => Sys2Proof.Machine.execLoopIterationStart s
  | .loopLevelEnd => Sys2Proof.Machine.execLoopLevelEnd s
  | .restartIntervalExceeded => Sys2Proof.Machine.execRestartIntervalExceeded s
  | .barrierArrival => Sys2Proof.Machine.execBarrierArrival s
  | .sceneStart => Sys2Proof.Machine.execSceneStart s
  | .frameEdge => Sys2Proof.Machine.execFrameEdge s
  | .worldSeal => Sys2Proof.Machine.execWorldSeal s
  | .frameGapEnd => Sys2Proof.Machine.execFrameGapEnd s
  | .destinationWrite => Sys2Proof.Machine.execDestinationWrite s
  | .interlockedDelayedWrite => Sys2Proof.Machine.execInterlockedDelayedWrite s
  | .tileUpdate => Sys2Proof.Machine.execTileUpdate s
  | .runningSumAddition => Sys2Proof.Machine.execRunningSumAddition s
  | .blockPullEnd => Sys2Proof.Machine.execBlockPullEnd s
  | .blockWriteOutEnd => Sys2Proof.Machine.execBlockWriteOutEnd s
  | .bouncetailWrite => Sys2Proof.Machine.execBouncetailWrite s
  | .waitvWake => Sys2Proof.Machine.execWaitvWake s
  | .waitvPoll => Sys2Proof.Machine.execWaitvPoll s
  | .waitBudgetSpent => Sys2Proof.Machine.execWaitBudgetSpent s
  | .bankExchange => Sys2Proof.Machine.execBankExchange s
  | .copyDestinationWalk => Sys2Proof.Machine.execCopyDestinationWalk s
  | .copyTransferStart => Sys2Proof.Machine.execCopyTransferStart s
  | .copyRequest => Sys2Proof.Machine.execCopyRequest s
  | .copyCommandComplete => Sys2Proof.Machine.execCopyCommandComplete s
  | .lanternEntry => Sys2Proof.Machine.execLanternEntry s
  | .lanternBurnDeadline => Sys2Proof.Machine.execLanternBurnDeadline s
  | .fullStorePacket => Sys2Proof.Machine.execFullStorePacket s
  | .lanternPacket => Sys2Proof.Machine.execLanternPacket s
  | .globalWritePacket => Sys2Proof.Machine.execGlobalWritePacket s
  | .readRequestPacket => Sys2Proof.Machine.execReadRequestPacket s
  | .readReplyPacket => Sys2Proof.Machine.execReadReplyPacket s
  | .atomicRequestPacket => Sys2Proof.Machine.execAtomicRequestPacket s
  | .atomicReplyPacket => Sys2Proof.Machine.execAtomicReplyPacket s
  | .acknowledgementPacket => Sys2Proof.Machine.execAcknowledgementPacket s
  | .barrierArrivalPacket => Sys2Proof.Machine.execBarrierArrivalPacket s
  | .barrierReleasePacket => Sys2Proof.Machine.execBarrierReleasePacket s
  | .wakePacket => Sys2Proof.Machine.execWakePacket s
  | .unknownPacketDiscard => Sys2Proof.Machine.execUnknownPacketDiscard s
  | .packetResend => Sys2Proof.Machine.execPacketResend s
  | .requestTimeout => Sys2Proof.Machine.execRequestTimeout s
  | .postedPacketTimeout => Sys2Proof.Machine.execPostedPacketTimeout s
  | .wakeAckTimeout => Sys2Proof.Machine.execWakeAckTimeout s
  | .tagGrant => Sys2Proof.Machine.execTagGrant s
  | .linkDown => Sys2Proof.Machine.execLinkDown s
  | .linkEstablish => Sys2Proof.Machine.execLinkEstablish s
  | .cxlPortDown => Sys2Proof.Machine.execCxlPortDown s
  | .rtselWrite => Sys2Proof.Machine.execRtselWrite s
  | .rtabWrite => Sys2Proof.Machine.execRtabWrite s
  | .leave => Sys2Proof.Machine.execLeave s
  | .castRootTimeout => Sys2Proof.Machine.execCastRootTimeout s
  | .aligncComplete => Sys2Proof.Machine.execAligncComplete s
  | .handlerStart => Sys2Proof.Machine.execHandlerStart s
  | .parkPoint => Sys2Proof.Machine.execParkPoint s
  | .controlBlockWriteOut => Sys2Proof.Machine.execControlBlockWriteOut s
  | .resume => Sys2Proof.Machine.execResume s
  | .fbownerWrite => Sys2Proof.Machine.execFbownerWrite s
  | .faultRecordEnter => Sys2Proof.Machine.execFaultRecordEnter s
  | .shsleepLimit => Sys2Proof.Machine.execShsleepLimit s
  | .errorSelfTest => Sys2Proof.Machine.execErrorSelfTest s
  | .selfTestEnd => Sys2Proof.Machine.execSelfTestEnd s
  | .kick => Sys2Proof.Machine.execKick s
  | .wakeRegister => Sys2Proof.Machine.execWakeRegister s
  | .qrepair => Sys2Proof.Machine.execQrepair s
  | .qctlWrite => Sys2Proof.Machine.execQctlWrite s
  | .qcurRead => Sys2Proof.Machine.execQcurRead s
  | .qadvAdvance => Sys2Proof.Machine.execQadvAdvance s
  | .qadvError => Sys2Proof.Machine.execQadvError s
  | .qadvYield => Sys2Proof.Machine.execQadvYield s
  | .sliceExpiry => Sys2Proof.Machine.execSliceExpiry s
  | .msixMessage => Sys2Proof.Machine.execMsixMessage s
  | .qlaunchWrite => Sys2Proof.Machine.execQlaunchWrite s
  | .armingGoDeadline => Sys2Proof.Machine.execArmingGoDeadline s
  | .armingAbandon => Sys2Proof.Machine.execArmingAbandon s
  | .wkeyWrite => Sys2Proof.Machine.execWkeyWrite s
  | .poolRouteWrite => Sys2Proof.Machine.execPoolRouteWrite s
  | .btgtWrite => Sys2Proof.Machine.execBtgtWrite s
  | .yctlWrite => Sys2Proof.Machine.execYctlWrite s
  | .registerWrite => Sys2Proof.Machine.execRegisterWrite s
  | .functionLevelReset => Sys2Proof.Machine.execFunctionLevelReset s
  | .packageReset => Sys2Proof.Machine.execPackageReset s
  | .powerLimitExceeded => Sys2Proof.Machine.execPowerLimitExceeded s
  | .thermalWarning => Sys2Proof.Machine.execThermalWarning s
  | .thermalTrip => Sys2Proof.Machine.execThermalTrip s
  | .thermalTripRelease => Sys2Proof.Machine.execThermalTripRelease s
  | .mctpControl => Sys2Proof.Machine.execMctpControl s
  | .pldmBaseDiscovery => Sys2Proof.Machine.execPldmBaseDiscovery s
  | .pldmPlatformMonitoring => Sys2Proof.Machine.execPldmPlatformMonitoring s
  | .getVersion => Sys2Proof.Machine.execGetVersion s
  | .getCapabilities => Sys2Proof.Machine.execGetCapabilities s
  | .negotiateAlgorithms => Sys2Proof.Machine.execNegotiateAlgorithms s
  | .getDigests => Sys2Proof.Machine.execGetDigests s
  | .getCertificate => Sys2Proof.Machine.execGetCertificate s
  | .getMeasurements => Sys2Proof.Machine.execGetMeasurements s
  | .unsupportedMessage => Sys2Proof.Machine.execUnsupportedMessage s
  | .globalAccessComplete => Sys2Proof.Machine.execGlobalAccessComplete s
  | .flitCrcFailure => Sys2Proof.Machine.execFlitCrcFailure s
  | .dieReset => Sys2Proof.Machine.execDieReset s
  | .powerLimitCleared => Sys2Proof.Machine.execPowerLimitCleared s
  | .tagsetClearComplete => Sys2Proof.Machine.execTagsetClearComplete s

end Sys2Proof.Machine
end

