-- ==== Sys2Proof/Machine/Place.lean ====
section
/-!
DEFINITION. Where an instruction word is put so that the next step fetches and runs it (log 6): a line of
the code of one stream, and the fetch state of that stream. It stands for the load of a program from
outside the machine (R434 to R437, R444).
-/
namespace Sys2Proof.Machine

/-- Words that only a stagehand runs (R242 to R245, R386 to R407). -/
def shOnly : Instr → Bool
  | .tlbinv .. | .ctxpark .. | .ctxrun .. | .kindle .. | .douse .. | .tagset .. | .fbpop .. => true
  | .selftest .. | .shsleep .. | .alignc .. => true
  | _ => false

/-- Where the placed code stands: cluster SRAM of die 0 (R110). -/
def placeBase (s : State) : Nat := s.pkgNum * 2 ^ 41 + 0x10000

/-- A line of a stream whose slot 0 is a transfer target and which ends after slot `n` (R153). -/
def placeHeader (strm n : Nat) : Nat := n * 2 ^ 56 + 0x100 + strm * 2 ^ 6

/-- The line: header, the word, and for a scalar stream a NOP that issues one cycle later, so that the
word is a bundle of its own (R60). -/
def placeLine (strm w : Nat) : List Byte :=
  let nop := (encodeScalar (.nop ⟨1, 0, false⟩)).getD 0
  let words := if strm = 0 then toLe 4 w ++ toLe 4 nop else toLe (wordBytes strm) w
  let bs := toLe 8 (placeHeader strm (if strm = 0 then 2 else 1)) ++ words
  bs ++ List.replicate (128 - bs.length) 0

/-- A stream about to issue the word at line 0, slot 0, at a cycle. -/
def placeStream (at_ idle : Nat) : Stream := { present := true, prev := at_ - idle, atRef := true }

/-- A word of `nbits` bits placed for the next step. -/
def placeWord (s : State) (nbits w : Nat) : State :=
  let strm := if nbits ≤ 32 then 0 else if nbits ≤ 96 then 1 else 2
  let idle := idleBits strm w
  let now := max s.cue idle
  let a := placeBase s
  let s := { s with
    cue := now
    tripped := false
    agenda := s.agenda.filter (fun e => decide (now < e.1))
    phys := s.phys.replace a (placeLine strm w)
    physMarks := s.physMarks.filter (fun e => !(decide (a / 4 ≤ e.1) && decide (e.1 < a / 4 + 32))) }
  let st := placeStream now idle
  let sh := strm == 0 && (match decodeFor 0 w with | some i => shOnly i | none => false)
  if sh then
    { s with cores := s.cores.put 0 { s.core 0 with
        bank0 := none, bank1 := none, shAwake := true, shcode := BitVec.ofNat 64 a, outOfService := false
        shWatch := none, sh := { (s.core 0).sh with str := st, pend := [] } } }
  else
    let x : Ctx := {
      life := .live
      own := 4
      script := { base := a, phys := true, length := 128, ilk := strm == 0, rdepth := idle + 8192 }
      regs := { str := if strm = 0 then st else {} }
      vs := if strm = 1 then st else {}
      ms := if strm = 2 then { st with atRef := false } else {}
      clock := .run 0
      rpCue := now - idle }
    { s with cores := s.cores.put 0 { s.core 0 with
        bank0 := some x, bank1 := none, stage := 0, shAwake := false, outOfService := false
        framectl := 0, gapEnd := none, exchange := none, sh := { (s.core 0).sh with pend := [] } } }

end Sys2Proof.Machine
end

