-- ==== Sys2Proof/Safety.lean ====
section
/-!
DEFINITION. What a safe step is, and the words in which the statements speak of states: when no condition of
R164 stands against a word, how a word that takes effect leaves its stream, what a frame leaves out, which
bytes and registers stay, and the canonical form of every memory.
-/
namespace Sys2Proof.Machine

/-- A meaning ends in a next state. -/
def Out.ok (o : Out) : Prop := ∃ t, o = .next t

/-! ### When a word takes effect -/

/-- No item of R164 applies to a word of stream `strm` that asks for `f`. -/
def State.goes (s : State) (strm : Nat) (f : Form) : Prop := s.hasAgent = true ∧ s.fate strm true f = .went

/-- A scalar word with header `h`: its guard passes (R157) and no item of R164 applies. -/
def State.scalarGoes (s : State) (h : SHdr) (f : Form) : Prop := s.guard h = true ∧ s.goes 0 (f.guarded h)

/-- A vector or matrix word of a program, to which no item of R164 applies. -/
def State.engineGoes (s : State) (strm : Nat) (f : Form) : Prop := s.cur.sh = false ∧ s.goes strm f

/-- The conditions of R164 on a scalar word that only reads and writes registers, its guard's predicate among
those read: it meets no schedule fault of its stream (item 3); no register it reads or writes is bound to an
access (R201); in interlocked mode no write in flight of an earlier cycle is of a register it reads (R69);
none that it consumes is poisoned (R397). -/
structure State.Ready (s : State) (reads writes consumed : List Nat) : Prop where
  agent : s.hasAgent = true
  sched : s.cur.sched = false
  free : ∀ b ∈ s.regs.bound, b.reg ∉ reads ++ writes
  settled : s.interlocked = true → ∀ p ∈ s.olderPend, ∀ n ∈ reads, n ∉ pwriteCodes p.w
  clean : ∀ n ∈ consumed, s.regs.mark n = false

/-! ### How a word that takes effect leaves its stream -/

/-- The word is under way: it took effect, its accesses are booked, and dousing blocks it writes are lit
again (R94, R103). -/
def State.started (s : State) (f : Form) : State :=
  ({ s with cur := { s.cur with verdict := .went } } : State).commit f true

/-- The vector or matrix stream has moved past its word in state `u`, issued in state `s`. -/
def State.passed (s u : State) (strm occ : Nat) : State := u.modMe (·.pass strm u.cur.line s.now occ)

/-! ### Frames -/

/-- The state without the verdict, numbers drawn, free durations drawn, and the place in which a stagehand's or handler's
word waits at the asynchronous port. -/
def State.calm (s : State) : State :=
  { s with
    cur := { s.cur with verdict := .went }, nextId := 0, delays := []
    ports := s.ports.filter (fun q => !(q.core == s.cur.core && q.who == s.portSelf && q.act.isNone)) }

/-- The state without what any word may change beside its effect: beside `calm`, the agent's list of writes in flight, the
bank bookings of R94, the record of the blocks its words have touched, and the cycles in which the core's banks last served
the asynchronous port (R98). -/
def State.quiet (s : State) : State :=
  ((s.calm.modRegs (fun r => { r with pend := [] })).modMe (fun x => { x with booked := [], touched := 0 })).modCore s.cur.core
    (fun k => { k with portAt := [] })

/-- The word of state `s` has taken effect in `u`: `l` joins the writes in flight, and everything else is as
it was, every register and every byte of memory. -/
structure State.Adds (s u : State) (l : List Pend) : Prop where
  went : u.cur.verdict = .went
  pend : u.regs.pend = s.regs.pend ++ l
  frame : u.quiet = s.quiet

/-- Every byte of every memory reads as before: physical memory, the scratchpads, the spill stores of contexts
and stagehands, the operand latches. -/
structure State.SameBytes (s u : State) : Prop where
  phys : ∀ a, u.phys.read a = s.phys.read a
  sp : ∀ c a, (u.core c).sp.read a = (s.core c).sp.read a
  spill : ∀ c b sh a, (u.regsOf c b sh).spill.read a = (s.regsOf c b sh).spill.read a
  latch : ∀ c b a, ((u.ctx c b).getD {}).klatch.read a = ((s.ctx c b).getD {}).klatch.read a

/-- A scalar word of state `s` that writes one register: `w` joins the writes in flight, due `k` cycles after
issue (R200), later by a free number of cycles in interlocked mode (R69); then the stream goes on. Nothing
else changes. -/
def State.Writes (s t : State) (k : Nat) (w : PWrite) : Prop :=
  ∃ u, t = u.retire ∧ s.Adds u [⟨s.now + (s.latency k).1, s.nextId, 0, false, w⟩] ∧ s.SameBytes u

/-- A scalar word of state `s` that changes nothing: its stream goes on. -/
def State.Rests (s t : State) : Prop := ∃ u, t = u.retire ∧ s.Adds u [] ∧ s.SameBytes u

/-- A word with guard `h` writes `v` to g register `d` after `k` cycles: a failed guard and g0 leave every
register as it is (R157, R199). -/
def State.SetsG (s t : State) (h : SHdr) (d : BitVec 5) (v : Word) (k : Nat) : Prop :=
  if s.guard h = true ∧ d ≠ 0 then s.Writes t k (.g d.toNat v false) else s.Rests t

/-- The same for a p register; p0 is not written (R199). -/
def State.SetsP (s t : State) (h : SHdr) (d : BitVec 3) (v : Bool) (k : Nat) : Prop :=
  if s.guard h = true ∧ d ≠ 0 then s.Writes t k (.p d.toNat v) else s.Rests t

/-- The same for an x register. -/
def State.SetsX (s t : State) (h : SHdr) (d : BitVec 3) (v : DWord) (k : Nat) : Prop :=
  if s.guard h = true then s.Writes t k (.x d.toNat v false) else s.Rests t

/-! ### The canonical form of every memory -/

/-- A context's spill store and operand latches are canonical. -/
def Ctx.memWf (x : Ctx) : Prop := x.regs.spill.wf = true ∧ x.klatch.wf = true

/-- Every byte memory of the machine is in its canonical form (R87, R100, R110, R314), in banks, sealed
worlds and saved contexts alike. -/
structure State.MemWf (s : State) : Prop where
  phys : s.phys.wf = true
  cores : ∀ e ∈ s.cores, e.2.sp.wf = true ∧ e.2.sh.spill.wf = true ∧ e.2.keys.wf = true
    ∧ (∀ x, e.2.bank0 = some x → x.memWf) ∧ (∀ x, e.2.bank1 = some x → x.memWf) ∧ (∀ w ∈ e.2.sealed, w.2.memWf)
  images : ∀ e ∈ s.ctlImages, e.2.memWf

/-! ### Further forms of effect -/

/-- From state `s` a write of the stream joins those in flight, due `k` cycles after issue, and the scalar
stream goes on. Nothing else changes. -/
def State.Puts (s t : State) (k : Nat) (w : PWrite) : Prop :=
  ∃ u, t = u.retire ∧ s.Adds u [⟨s.now + k, s.nextId, 0, false, w⟩] ∧ s.SameBytes u

/-- A vector word that reads `srcs` and writes `els` of its destination (R283): when nothing of R164 stands
against it, it takes effect so and its stream moves on. -/
def State.RunsVec (s : State) (i : Instr) (w : VWord) (base : Nat) (t : ElemTy) (srcs : List Src) (more : Form)
    (moves : Bool) (els : List (Nat × Nat)) : Prop :=
  let f := vecForm w base t srcs more moves els s
  s.engineGoes 1 f →
    exec i s = .next (s.passed ((s.started f).vecDone w base t srcs moves els) 1 f.occ)

/-- A vector or matrix word with another effect. -/
def State.RunsEngine (s : State) (i : Instr) (strm : Nat) (f : Form) (eff : State → State) : Prop :=
  s.engineGoes strm f → exec i s = .next (s.passed (eff (s.started f)) strm f.occ)

/-- A scalar word with effect `eff`. -/
def State.RunsScalar (s : State) (i : Instr) (h : SHdr) (f : Form) (eff : State → State) : Prop :=
  s.scalarGoes h f → exec i s = .next (eff (s.started (f.guarded h))).retire

/-! ### Tables of results, as the manual gives them -/

/-- A scalar word of three g registers. -/
abbrev Word3 := SHdr → BitVec 5 → BitVec 5 → BitVec 5 → Instr

/-- R204: the words, and `r` from `a` and `b`. -/
def integerTable : List (Word3 × (Word → Word → Word)) := [
  (.add, fun a b => BitVec.ofNat 32 ((a.toNat + b.toNat) % 2 ^ 32)),
  (.sub, fun a b => BitVec.ofInt 32 ((a.toNat : Int) - b.toNat)),
  (.and, fun a b => a &&& b),
  (.or, fun a b => a ||| b),
  (.xor, fun a b => a ^^^ b),
  (.andn, fun a b => a &&& ~~~b),
  (.shl, fun a b => BitVec.ofNat 32 (a.toNat * 2 ^ bits b.toNat 4 0)),
  (.shr, fun a b => BitVec.ofNat 32 (a.toNat / 2 ^ bits b.toNat 4 0)),
  (.sra, fun a b => BitVec.ofInt 32 (a.toInt / (2 ^ bits b.toNat 4 0 : Nat))),
  (.min, fun a b => BitVec.ofInt 32 (min a.toInt b.toInt)),
  (.max, fun a b => BitVec.ofInt 32 (max a.toInt b.toInt)),
  (.minu, fun a b => BitVec.ofNat 32 (min a.toNat b.toNat)),
  (.maxu, fun a b => BitVec.ofNat 32 (max a.toNat b.toNat))]

/-- R206, the multiplies. -/
def multiplyTable : List (Word3 × (Word → Word → Word)) := [
  (.mul, fun a b => (a.zeroExtend 64 * b.zeroExtend 64).truncate 32),
  (.mulh, fun a b => (a.signExtend 64 * b.signExtend 64).extractLsb' 32 32),
  (.mulhu, fun a b => (a.zeroExtend 64 * b.zeroExtend 64).extractLsb' 32 32)]

/-- R206, the divides, for a divisor that is not zero. -/
def divideTable : List (Word3 × (Word → Word → Word)) := [
  (.div, fun a b => BitVec.ofInt 32 (a.toInt.tdiv b.toInt)),
  (.divu, fun a b => BitVec.ofNat 32 (a.toNat / b.toNat)),
  (.rem, fun a b => BitVec.ofInt 32 (a.toInt - b.toInt * a.toInt.tdiv b.toInt)),
  (.remu, fun a b => BitVec.ofNat 32 (a.toNat % b.toNat))]

/-- R205: words with a 9-bit immediate. -/
def immediateTable : List ((SHdr → BitVec 5 → BitVec 5 → BitVec 9 → Instr) × (Word → BitVec 9 → Word)) := [
  (.addi, fun a i => BitVec.ofInt 32 (a.toInt + i.toInt)),
  (.andi, fun a i => a &&& BitVec.ofInt 32 i.toInt),
  (.ori, fun a i => a ||| BitVec.ofNat 32 i.toNat),
  (.xori, fun a i => a ^^^ BitVec.ofNat 32 i.toNat)]

/-- R205: shifts by an immediate. -/
def shiftTable : List (Word3 × (Word → Nat → Word)) := [
  (.shli, fun a n => BitVec.ofNat 32 (a.toNat * 2 ^ n)),
  (.shri, fun a n => BitVec.ofNat 32 (a.toNat / 2 ^ n)),
  (.srai, fun a n => BitVec.ofInt 32 (a.toInt / (2 ^ n : Nat)))]

/-- R209: the register compares; `flush` of R22 applies to the operands of the f32 ones. -/
def compareTable : List ((SHdr → BitVec 3 → BitVec 5 → BitVec 5 → Instr) × (Bool → Word → Word → Bool)) :=
  let x := fun (flush : Bool) (a : Word) => operandEl flush .f32 a.toNat
  [(.ceq, fun _ a b => decide (a = b)),
  (.cne, fun _ a b => decide (a ≠ b)),
  (.clt, fun _ a b => decide (a.toInt < b.toInt)),
  (.cle, fun _ a b => decide (a.toInt ≤ b.toInt)),
  (.cltu, fun _ a b => decide (a.toNat < b.toNat)),
  (.cleu, fun _ a b => decide (a.toNat ≤ b.toNat)),
  (.fceq, fun z a b => (x z a).eqv (x z b)),
  (.fclt, fun z a b => (x z a).lt (x z b)),
  (.fcle, fun z a b => (x z a).lt (x z b) || (x z a).eqv (x z b)),
  (.fcun, fun z a b => (x z a).isNan || (x z b).isNan)]

/-- R209: the compares with an immediate. -/
def compareImmTable : List ((SHdr → BitVec 3 → BitVec 5 → BitVec 9 → Instr) × (Word → BitVec 9 → Bool)) := [
  (.ceqi, fun a i => decide (a = BitVec.ofInt 32 i.toInt)),
  (.clti, fun a i => decide (a.toInt < i.toInt))]

/-- R210. -/
def predicateTable : List ((SHdr → BitVec 3 → BitVec 3 → BitVec 3 → Instr) × (Bool → Bool → Bool)) := [
  (.pand, fun a b => a && b), (.por, fun a b => a || b), (.pxor, fun a b => xor a b), (.pandn, fun a b => a && !b)]

/-- R213: words of two f32 operands, latency, result. -/
def floatTable : List (Word3 × Nat × (Bool → Fp → Fp → Nat)) := [
  (.fadd, 4, fun z x y => roundF32 z (Fp.add .rne x y)),
  (.fsub, 4, fun z x y => roundF32 z (Fp.add .rne x y.negate)),
  (.fmul, 4, fun z x y => roundF32 z (Fp.mul x y)),
  (.fdiv, 14, f32Div),
  (.fmin, 4, fun z x y => roundF32 z (Fp.minZ x y)),
  (.fmax, 4, fun z x y => roundF32 z (Fp.maxZ x y))]

/-- R213: words of one operand, from its bits. -/
def floatOneTable : List ((SHdr → BitVec 5 → BitVec 5 → Instr) × (Bool → Word → Word)) := [
  (.fabs, fun _ a => a &&& 0x7FFFFFFF),
  (.fneg, fun _ a => a ^^^ 0x80000000),
  (.fcvti, fun z a => BitVec.ofNat 32 (convert z .i32 .rne true (operandEl z .f32 a.toNat))),
  (.fcvtiz, fun z a => BitVec.ofNat 32 (convert z .i32 .rtz true (operandEl z .f32 a.toNat))),
  (.fcvtf, fun z a => BitVec.ofNat 32 (convert z .f32 .rne false (Fp.ofInt a.toInt)))]

/-- R217: the loads and the stores, with the access size in bytes. -/
def loadTable : List ((SHdr → BitVec 5 → BitVec 5 → BitVec 4 → BitVec 5 → Instr) × Nat) :=
  [(.ldb, 1), (.ldh, 2), (.ldw, 4)]
def storeTable : List ((SHdr → BitVec 5 → BitVec 5 → BitVec 4 → BitVec 5 → Instr) × Nat) :=
  [(.stb, 1), (.sth, 2), (.stw, 4)]

/-- R225: the local atomics, whether a register pair is read, and the new word from the old one and g[`GD`],
g[`GD` + 1]. -/
def localAtomicTable :
    List ((SHdr → BitVec 5 → BitVec 5 → BitVec 4 → BitVec 5 → Instr) × Bool × (Word → Word → Word → Word)) := [
  (.aadd, false, fun o v _ => BitVec.ofNat 32 ((o.toNat + v.toNat) % 2 ^ 32)),
  (.amin, false, fun o v _ => BitVec.ofInt 32 (min o.toInt v.toInt)),
  (.amax, false, fun o v _ => BitVec.ofInt 32 (max o.toInt v.toInt)),
  (.aor, false, fun o v _ => o ||| v),
  (.aswap, false, fun _ v _ => v),
  (.acas, true, fun o v w => if o = v then w else o)]

/-- R223: the returning atomics, with the operation that reaches the target. -/
def globalAtomicTable :
    List ((SHdr → BitVec 5 → BitVec 3 → BitVec 4 → BitVec 6 → Bool → Instr) × Nat) :=
  [(.gadd, 0), (.gmax, 1), (.gswap, 2), (.gcas, 3)]

/-- R247: the copy and pool commands with a source address, and their numbers. -/
def copyTable : List ((SHdr → BitVec 6 → BitVec 3 → BitVec 5 → Instr) × Nat) := [
  (.cpy, 0x00), (.cpyt, 0x01), (.ccvt, 0x02), (.cqnt, 0x03), (.cqnth, 0x04), (.csort, 0x05), (.ccmpb, 0x06),
  (.cexpb, 0x07), (.ccmpp, 0x08), (.cexpp, 0x09), (.cdec, 0x0A), (.cenc, 0x0B), (.cgath, 0x0D), (.cscat, 0x0E),
  (.pcpy, 0x10), (.pcvt, 0x11), (.pdec, 0x12), (.penc, 0x13)]

/-- R289, R291: vector words on exact values: base latency, whether the old D is read, and the result from A, B
and D before it is rounded. -/
def vectorFpTable : List ((VWord → Instr) × Nat × Bool × (RMode → Fp → Fp → Fp → Fp)) := [
  (.vadd, 2, false, fun m x y _ => Fp.add m x y),
  (.vsub, 2, false, fun m x y _ => Fp.add m x y.negate),
  (.vmul, 4, false, fun _ x y _ => Fp.mul x y),
  (.vfma, 4, true, fun m x y z => Fp.add m (Fp.mul x y) z),
  (.vfms, 4, true, fun m x y z => Fp.add m z (Fp.mul x y).negate),
  (.vmin, 2, false, fun _ x y _ => Fp.minZ x y),
  (.vmax, 2, false, fun _ x y _ => Fp.maxZ x y)]

/-- R290: bitwise words and shifts on encodings of `w` bits: operands read, result. -/
def vectorBitTable : List ((VWord → Instr) × Bool × (ElemTy → Nat → Nat → Nat)) := [
  (.vand, true, fun _ a b => Nat.land a b),
  (.vor, true, fun _ a b => Nat.lor a b),
  (.vxor, true, fun _ a b => Nat.xor a b),
  (.vnot, false, fun t a _ => 2 ^ t.width - 1 - a),
  (.vshl, true, fun t a b => a * 2 ^ (b % t.width) % 2 ^ t.width),
  (.vshr, true, fun t a b => wrap (intOf t a / ((2 ^ (b % t.width) : Nat) : Int)) t.width)]

/-- R299: the functions of f32 elements. -/
def vectorFnTable : List ((VWord → Instr) × (Bool → Fp → Nat)) := [
  (.vexp2, fnExp2), (.vlog2, fnLog2), (.vsig, fnSig), (.vtanh, fnTanh), (.vrcp, fnRcp), (.vrsq, fnRsq)]

/-- R293: mask logic. -/
def maskTable : List ((VWord → Instr) × (Mask → Mask → Mask)) := [
  (.vmand, fun a b => a &&& b), (.vmor, fun a b => a ||| b), (.vmxor, fun a b => a ^^^ b), (.vmnot, fun a _ => ~~~a)]

/-- R295: moves and permutes without a count: sources read, poison carried, element `e` of D from A and B. -/
def permuteTable : List ((VWord → Instr) × Bool × Bool × (VWord → (Nat → Nat) → (Nat → Nat) → Nat → Nat)) := [
  (.vmov, false, true, fun _ a _ e => a e),
  (.vperm, true, false, fun w a b e => a (b e % elemsOf w.etype)),
  (.vzip, true, false, fun w a b e =>
    let h := w.fn.toNat % 2 * (elemsOf w.etype / 2)
    if e % 2 = 0 then a (h + e / 2) else b (h + e / 2)),
  (.vunzip, true, false, fun w a b e =>
    let n := elemsOf w.etype
    let h := w.fn.toNat % 2
    if e < n / 2 then a (2 * e + h) else b (2 * (e - n / 2) + h)),
  (.viota, false, false, fun w a _ e => (a 0 + e) % 2 ^ w.etype.width)]

/-- R295: rotates and broadcasts by a count `n`. -/
def countTable : List ((VWord → Instr) × (VWord → Nat → (Nat → Nat) → Nat → Nat)) := [
  (.vrot, fun w n a e => a ((e + n) % elemsOf w.etype)),
  (.vbcast, fun w n a _ => a (n % elemsOf w.etype))]

/-- R300, R301: reductions: rounding, saturation, and the result from the decoded active elements. -/
def reduceTable : List ((VWord → Instr) × VOp × (VWord → RMode × Bool) × (VWord → ElemTy → List Fp → Fp)) := [
  (.vrsum, .vrsum, fun w => (w.rnd, w.sat), fun w _ l => sumAll w.rnd l),
  (.vrmax, .vrmax, fun _ => (.rne, false), fun _ u l => bestOf Fp.maxZ (if u.isF then .inf true else .ofInt (intLo u)) l),
  (.vrmin, .vrmin, fun _ => (.rne, false), fun _ u l => bestOf Fp.minZ (if u.isF then .inf false else .ofInt (intHi u)) l),
  (.vramax, .vramax, fun _ => (.rne, false), fun _ _ l => bestOf Fp.maxZ .zero (l.map Fp.abs))]

/-- R161: the forms reserved to the stagehand. -/
def stagehandForm : Instr → Bool
  | .tlbinv .. | .ctxpark .. | .ctxrun .. | .kindle .. | .douse .. | .tagset .. | .fbpop .. => true
  | .selftest .. | .shsleep .. | .alignc .. => true
  | _ => false

/-- The guarded scalar words, with their header (R157). -/
def guardOf : Instr → Option SHdr
  | .add h _ _ _ => some h
  | .sub h _ _ _ => some h
  | .and h _ _ _ => some h
  | .or h _ _ _ => some h
  | .xor h _ _ _ => some h
  | .andn h _ _ _ => some h
  | .shl h _ _ _ => some h
  | .shr h _ _ _ => some h
  | .sra h _ _ _ => some h
  | .min h _ _ _ => some h
  | .max h _ _ _ => some h
  | .minu h _ _ _ => some h
  | .maxu h _ _ _ => some h
  | .mul h _ _ _ => some h
  | .mulh h _ _ _ => some h
  | .mulhu h _ _ _ => some h
  | .div h _ _ _ => some h
  | .divu h _ _ _ => some h
  | .rem h _ _ _ => some h
  | .remu h _ _ _ => some h
  | .ceq h _ _ _ => some h
  | .cne h _ _ _ => some h
  | .clt h _ _ _ => some h
  | .cle h _ _ _ => some h
  | .cltu h _ _ _ => some h
  | .cleu h _ _ _ => some h
  | .fceq h _ _ _ => some h
  | .fclt h _ _ _ => some h
  | .fcle h _ _ _ => some h
  | .fcun h _ _ _ => some h
  | .pand h _ _ _ => some h
  | .por h _ _ _ => some h
  | .pxor h _ _ _ => some h
  | .pandn h _ _ _ => some h
  | .pnot h _ _ => some h
  | .psave h _ => some h
  | .pload h _ => some h
  | .fadd h _ _ _ => some h
  | .fsub h _ _ _ => some h
  | .fmul h _ _ _ => some h
  | .fma h _ _ _ => some h
  | .fdiv h _ _ _ => some h
  | .fmin h _ _ _ => some h
  | .fmax h _ _ _ => some h
  | .fabs h _ _ => some h
  | .fneg h _ _ => some h
  | .fcvti h _ _ => some h
  | .fcvtiz h _ _ => some h
  | .fcvtf h _ _ => some h
  | .xadd h _ _ _ => some h
  | .xset h _ _ _ => some h
  | .xlo h _ _ => some h
  | .xhi h _ _ => some h
  | .xmov h _ _ => some h
  | .addi h _ _ _ => some h
  | .andi h _ _ _ => some h
  | .ori h _ _ _ => some h
  | .xori h _ _ _ => some h
  | .shli h _ _ _ => some h
  | .shri h _ _ _ => some h
  | .srai h _ _ _ => some h
  | .ceqi h _ _ _ => some h
  | .clti h _ _ _ => some h
  | .xaddi h _ _ _ => some h
  | .liu h _ _ => some h
  | .lim h _ _ => some h
  | .ldb h _ _ _ _ => some h
  | .ldh h _ _ _ _ => some h
  | .ldw h _ _ _ _ => some h
  | .stb h _ _ _ _ => some h
  | .sth h _ _ _ _ => some h
  | .stw h _ _ _ _ => some h
  | .ldwAcq h _ _ _ _ => some h
  | .stwRel h _ _ _ _ => some h
  | .ldg h _ _ _ _ _ => some h
  | .stg h _ _ _ _ _ => some h
  | .ldgx h _ _ _ _ _ => some h
  | .stgx h _ _ _ _ _ => some h
  | .gadd h _ _ _ _ _ => some h
  | .gmax h _ _ _ _ _ => some h
  | .gswap h _ _ _ _ _ => some h
  | .gcas h _ _ _ _ _ => some h
  | .aadd h _ _ _ _ => some h
  | .amin h _ _ _ _ => some h
  | .amax h _ _ _ _ => some h
  | .aor h _ _ _ _ => some h
  | .aswap h _ _ _ _ => some h
  | .acas h _ _ _ _ => some h
  | .spl h _ _ => some h
  | .sps h _ _ => some h
  | .pbr h _ _ _ => some h
  | .br h _ => some h
  | .call h _ => some h
  | .ret h => some h
  | .lstart h _ => some h
  | .crd h _ _ => some h
  | .cwr h _ _ => some h
  | .cfence h _ _ => some h
  | .waitv h _ _ _ => some h
  | .nop h => some h
  | .tret h => some h
  | .trap h _ => some h
  | .featq h _ => some h
  | .tlbinv h _ _ _ => some h
  | .ctxpark h _ _ => some h
  | .ctxrun h _ _ _ => some h
  | .kindle h _ _ => some h
  | .douse h _ _ => some h
  | .tagset h _ _ => some h
  | .fbpop h _ => some h
  | .selftest h _ _ => some h
  | .shsleep h _ => some h
  | .cpy h _ _ _ => some h
  | .cpyt h _ _ _ => some h
  | .ccvt h _ _ _ => some h
  | .cqnt h _ _ _ => some h
  | .cqnth h _ _ _ => some h
  | .csort h _ _ _ => some h
  | .ccmpb h _ _ _ => some h
  | .cexpb h _ _ _ => some h
  | .ccmpp h _ _ _ => some h
  | .cexpp h _ _ _ => some h
  | .cdec h _ _ _ => some h
  | .cenc h _ _ _ => some h
  | .cfill h _ _ => some h
  | .cgath h _ _ _ => some h
  | .cscat h _ _ _ => some h
  | .pcpy h _ _ _ => some h
  | .pcvt h _ _ _ => some h
  | .pdec h _ _ _ => some h
  | .penc h _ _ _ => some h
  | .qbind h _ _ => some h
  | .qrel h _ => some h
  | .lflush h _ _ => some h
  | .alignc h _ _ => some h
  | _ => none

/-! ### Words of the three streams, of which the others are events -/

/-- Words of the scalar stream: the guarded ones, IDLE and the two forms of SCENE (R157, R169, R368). -/
def scalarWord (i : Instr) : Bool :=
  (guardOf i).isSome || (match i with
    | .idle .. | .scene .. | .sceneLast .. => true
    | _ => false)

/-- Words of the vector stream. -/
def vectorWord (i : Instr) : Bool :=
  i.vec?.isSome || (match i with
    | .vidle .. | .vscene .. | .vsceneLast .. => true
    | _ => false)

/-- Words of the matrix stream. -/
def matrixWord (i : Instr) : Bool :=
  i.mat?.isSome || (match i with
    | .mnop .. | .mscene .. | .msceneLast .. => true
    | _ => false)

/-- The g, x, p and b registers are as before. -/
structure Regs.SameFile (r t : Regs) : Prop where
  g : t.g = r.g
  x : t.x = r.x
  p : t.p = r.p
  b : t.b = r.b

end Sys2Proof.Machine
end

