-- ==== Sys2Proof/Certificates/Slice0/Obligations.lean ====
section
/-!
DEFINITION. The statements for the provers, from the numbered rules of the manual.
-/

open Sys2Proof Sys2Proof.Machine

/-! ### Encoding -/

/-- R157 to R173: words written bit by bit from the layouts of the manual decode to what they stand for: an ADD
guarded by p3 false, a load, a branch preparation, a control-register write, a CPY, SCENE.LAST, an IDLE; a VADD
with an immediate, a VST to a strided operand; an MDOT, an MRET. -/
def Obligations.WordsDecode : Prop :=
  decodeScalar 0b010_011_1_000001_00101_00110_00111_0000 = .ok (.add ⟨2, 3, true⟩ 5 6 7)
  ∧ decodeScalar 0b000_000_0_010110_01001_00010_0011_00101 = .ok (.ldw ⟨0, 0, false⟩ 9 2 3 5)
  ∧ decodeScalar 0b001_000_0_101100_010_11111111111_00011 = .ok (.pbr ⟨1, 0, false⟩ 2 0x7FF 3)
  ∧ decodeScalar 0b000_000_0_110001_00100_01_000000010001 = .ok (.cwr ⟨0, 0, false⟩ 4 0x011)
  ∧ decodeScalar 0b000_000_0_110100_00000_000111_010_00101 = .ok (.cpy ⟨0, 0, false⟩ 7 2 5)
  ∧ decodeScalar 0b011_000_0_110101_00010_000000_000_00000 = .ok (.sceneLast 3)
  ∧ decodeScalar 0b000_000_1_110110_0000000000000000101 = .ok (.idle 0 0x80005)
  ∧ decodeVector 0b0001_010_1_00000000_0000_0000_01_10_0_0_0_00000_000_000000000000_00011_000_000000000000_00100_110_0_0011111110000000
    = .ok (.vadd ⟨1, 2, true, .f32, 0, 1, .rdn, false, false, false, 0, .v 3, .v 4, .imm 0x3F80⟩)
  ∧ decodeVector 0b0000_000_0_01100001_0000_0101_00_00_0_1_1_00000_100_00110_0010_00001000_000_000000000000_00111_00000000000000000000
    = .ok (.vst ⟨0, 0, false, .f32, 5, 0, .rne, false, true, true, 0, .sp 6 2 8, .v 7, .v 0⟩)
  ∧ decodeMatrix 0b00000001_00000000000000001000_01_0000_001001_000111_000000_000000_0010_1_01_00_0_0_00_000001000000000_00000001_000001000000000_10_00_000000000000000000000000000000000001_000000000000000000000000000000000000_0000000
    = .ok (.mdot ⟨8, 1, 0, 9, 7, 0, 0, 2, true, 1, 0, false, false, 0, 0x200, 1, 0x200, 2, 0, 1, 0⟩)
  ∧ decodeMatrix 0b00001100_00000000000000000101_00_0000_001001_000000_000000_000000_0111_0_00_00_0_0_00_000000000000000_00000000_000000000000000_00_00_000000000000000000000000000000000000_000000000000000000000000000000000000_0000000
    = .ok (.mret ⟨5, 0, 0, 9, 0, 0, 0, 7, false, 0, 0, false, false, 0, 0, 0, 0, 0, 0, 0, 0⟩)

/-- Every well-formed scalar instruction has a word of 32 bits, which decodes to it. -/
def Obligations.ScalarRoundTrip : Prop :=
  ∀ i, i.wf = true → scalarWord i = true → ∃ w, encodeScalar i = some w ∧ w < 2 ^ 32 ∧ decodeScalar w = .ok i

/-- Every well-formed vector instruction has a word of 96 bits, which decodes to it. -/
def Obligations.VectorRoundTrip : Prop :=
  ∀ i, i.wf = true → vectorWord i = true → ∃ w, encodeVector i = some w ∧ w < 2 ^ 96 ∧ decodeVector w = .ok i

/-- Every well-formed matrix instruction has a word of 192 bits, which decodes to it. -/
def Obligations.MatrixRoundTrip : Prop :=
  ∀ i, i.wf = true → matrixWord i = true → ∃ w, encodeMatrix i = some w ∧ w < 2 ^ 192 ∧ decodeMatrix w = .ok i

/-- A word that decodes is the word of a well-formed instruction: no reserved bit or unassigned encoding is read
as an instruction (R163). -/
def Obligations.DecodedWordsEncodeBack : Prop :=
  (∀ w i, w < 2 ^ 32 → decodeScalar w = .ok i → i.wf = true ∧ encodeScalar i = some w)
  ∧ (∀ w i, w < 2 ^ 96 → decodeVector w = .ok i → i.wf = true ∧ encodeVector i = some w)
  ∧ (∀ w i, w < 2 ^ 192 → decodeMatrix w = .ok i → i.wf = true ∧ encodeMatrix i = some w)

/-! ### The step -/

/-- No instruction stops the machine: a scalar word answers a next state whenever its agent exists, a vector or
matrix word whenever a program runs it, an event always. -/
def Obligations.EveryInstructionAnswers : Prop :=
  ∀ i s, (scalarWord i = true ∨ vectorWord i = true ∨ matrixWord i = true → s.hasAgent = true) →
    (vectorWord i = true ∨ matrixWord i = true → s.cur.sh = false) → Out.ok (exec i s)

/-- An event that is due is what the step runs, with its operands; a repair, a kick, a wake or a write of `QCTL`
after the work of the cores of that cycle, the writes of `QADV` among it (R423). -/
def Obligations.StepRunsEvent : Prop :=
  ∀ s t i a rest, s.agenda = (t, i, a) :: rest → t ≤ s.cue →
    (i ≠ .qrepair ∧ i ≠ .kick ∧ i ≠ .wakeRegister ∧ i ≠ .qctlWrite ∨ workCycle exec s = none →
      step s = exec i ({ s with agenda := rest, ev := a } : State))
    ∧ (i = .qrepair ∨ i = .kick ∨ i = .wakeRegister ∨ i = .qctlWrite → ∀ o, workCycle exec s = some o → step s = o)

/-- A scalar stream of core `c` stands at a word `w` that decodes to `i` and is a bundle of its own: the bundle's
issue is `exec` of `i`, in the state in which its line has been fetched (R112, log 46), the word's place is set and the
stream is to go on after it. When
the word takes effect, its outcome is the bundle's. A fault returns to the bundle's start (R164); the faults that
follow their word's effect stand (R376). -/
def Obligations.BundleRunsWord : Prop :=
  ∀ (s : State) c sh sched w i,
    let b := s.stageOf c
    let k := s.codeOf c b sh
    let t := (s.regsOf c b sh).str
    let one : Slot := ⟨t.line, t.slot, w, some i⟩
    let f := s.fetching c sh k t.line
    let s0 : State := { f.setCur c sh false sched ⟨t.line, t.slot, 0, none⟩ f.nextId with
      cur := { (f.setCur c sh false sched ⟨t.line, t.slot, 0, none⟩ f.nextId).cur with late := none, ret := false } }
    let s1 := s0.modRegs (fun r => { r with str := { r.str with
      seqLine := (s0.nextPos k 0 t.line t.slot).1, seqSlot := (s0.nextPos k 0 t.line t.slot).2, redir := none } })
    let u := s1.setCur c sh false sched one f.nextId
    s0.nextWord k 0 t = some w → decodeFor 0 w = some i → (t.check = true → s0.targetOk k 0 (t.line * 32 + t.slot) = true) →
    s0.bundleGo k (if !sh && !((f.ctx c b).getD {}).hnd then s0.ctx c b else none) 5 t.line t.slot = [one] →
    (∀ v, exec i u = .next v → v.cur.verdict = .went → runBundle exec s c sh sched = v)
    ∧ (∀ v info einfo strm cause, exec i u = .next v → v.cur.verdict = .trap cause info einfo strm →
        runBundle exec s c sh sched =
          if cause = 0x0E ∨ cause = 0x12 then v
          else ({ s1 with cur := { v.cur with late := none, ret := false } } : State).ends (.trap cause info einfo strm))

/-- With no event due, no other work and no stagehand to issue, the step issues the bundle of the first program
whose cycle has one: of a program in its own cycle, when no restart point falls in it and no other stream is due
afterwards, and of a handler. -/
def Obligations.StepRunsProgramBundle : Prop :=
  ∀ (s : State) (pre post : List Nat) c x,
    let b := s.stageOf c
    let k := s.codeOf c b false
    let lc := x.lcue s.cue
    let u := runBundle exec s c false (!x.hnd && x.overran 0 x.regs.str)
    s.cores.map (·.1) = pre ++ c :: post → (∀ e ∈ s.agenda, s.cue < e.1) → s.work (pre ++ c :: post) = none →
    firstCore (stagehandCycle exec s) (pre ++ c :: post) = none →
    firstCore (programCycle exec s) pre = none →
    s.ctx c b = some x → s.mayIssue c b x = true → (s.core c).shAt ≠ s.cue + 1 →
    (x.hnd = true → x.regs.str.going = true ∧ s.dueAt k 0 x.regs.str ≤ s.cue) →
    (x.hnd = false → s.isDue k x 0 lc = true ∧ s.point k x lc = .no
      ∧ (∀ y, u.ctx c b = some y → y.hnd = true ∨ (y.vs.going = false ∧ y.ms.going = false)) ∧ u.stageOf c = b) →
    step s = .next u

/-- With no event due and no other work, the step issues the bundle of the first stagehand that may issue, waits for no word
and whose core has no self-test to go on with; a cycle that it takes from a program counts against its share and adds one to the
program's slip, but at a scene barrier (R72, R78, R79). -/
def Obligations.StepRunsStagehandBundle : Prop :=
  ∀ (s : State) (pre post : List Nat) c counted,
    let u := runBundle exec s c true false
    let v := u.modCore c (fun k => { k with shAt := u.cue + 1 })
    s.cores.map (·.1) = pre ++ c :: post → (∀ e ∈ s.agenda, s.cue < e.1) → s.work (pre ++ c :: post) = none →
    firstCore (stagehandCycle exec s) pre = none → s.shMay c = some counted →
    (s.core c).testDue s.cue = none → (s.core c).shWatch = none →
    (s.core c).sh.str.going = true → s.dueAt (s.codeOf c 0 true) 0 (s.core c).sh.str ≤ s.cue →
    (∀ f, u.cur.verdict ≠ .freeze f) →
    step s = .next (if counted then
      (v.modCore c (fun k => { k with
        shCycles := v.cue :: k.shCycles.filter (fun t => decide (v.cue ≤ t + 4095)) })).modCtx c (v.stageOf c)
          (·.slipOne v.cue)
      else v)

/-- A vector (1) or matrix (2) stream that stands at a due word `w` that decodes to `i` runs it, once its line has been
fetched (R112, log 46): `exec` of `i`, then what the stream has due after it. -/
def Obligations.EngineRunsWord : Prop :=
  ∀ (s0 s : State) c strm lc base sched n x w i v,
    let b := s.stageOf c
    let k := s.codeOf c b false
    let t := x.stream strm
    let f := s.fetching c false k t.line
    let late := strm == 2 && (decide (f.matrixDue k x < lc)
      || (x.ms.ref == x.msRef.1 && decide (f.matrixDue k x < x.ms.occ))
      || (match x.msRef.2 with | some p => decide (p ≤ f.matrixDue k x - x.msRef.1) | none => false))
    let s1 := f.modCtx c b (·.setStream strm { t with
      seqLine := (f.nextPos k strm t.line t.slot).1, seqSlot := (f.nextPos k strm t.line t.slot).2 })
    let u := s1.setCur c false false (sched || late || x.overran strm t) ⟨t.line, t.slot, w, some i⟩ base
    s.ctx c b = some x → s.runs c b x = true → s.isDue k x strm lc = true → f.nextWord k strm t = some w →
    decodeFor strm w = some i → (t.check = true → f.targetOk k strm (t.line * 32 + t.slot) = true) →
    (strm = 1 → idleBits 1 w = 0 → t.atRef = true) →
    exec i u = .next v → v.cur.verdict = .went →
    runEngine exec s0 c strm lc base sched (n + 1) s = runEngine exec s0 c strm lc base false n v

/-! ### State -/

/-- R199: g0 reads as zero and p0 as true, and writes to them are discarded; every other register reads back what
was written; a context placed for a launch starts with an empty frame. -/
def Obligations.RegisterFile : Prop :=
  (∀ s : State, s.g 0 = 0 ∧ s.p 0 = true)
  ∧ (∀ (r : Regs) v, r.gAt 0 = 0 ∧ r.setG 0 v = r)
  ∧ (∀ (r : Regs) v, r.pAt 0 = true ∧ r.setP 0 v = r)
  ∧ (∀ (r : Regs) n v, n ≠ 0 → (r.setG n v).gAt n = v ∧ ∀ m, m ≠ n → (r.setG n v).gAt m = r.gAt m)
  ∧ (∀ (r : Regs) n v, (r.setX n v).xAt n = v ∧ ∀ m, m ≠ n → (r.setX n v).xAt m = r.xAt m)
  ∧ (∀ (r : Regs) n v, n ≠ 0 → n < 8 → (r.setP n v).pAt n = v ∧ ∀ m, m ≠ n → m < 8 → (r.setP n v).pAt m = r.pAt m)
  ∧ (∀ (r : Regs) n v t, (r.setB n v t).bAt' n = v ∧ ∀ m, m ≠ n → (r.setB n v t).bAt' m = r.bAt' m)
  ∧ (∀ l p ld pp dd cc, (armCtx l p ld pp dd cc).regs.frameptr = 0 ∧ (armCtx l p ld pp dd cc).regs.framesz = 0)

/-- What reset leaves where the manual gives a value: house cue 0; every scratchpad block unowned (tag 6), and
lit (DESIGN CHOICE, log 5: the manual gives no presence at reset); `FABTMO`, `ARMLEAD` and the routing tables; every
queue disabled; a context's `LBURN`, `SLIM`, valid counts, the mask m0, complete tokens, `TVEC`. -/
def Obligations.ResetValues : Prop :=
  let s := State.reset
  s.cue = 0
  ∧ (∀ c n, (s.core c).tag n = 6 ∧ (s.core c).spBlk.get .lit n = .lit)
  ∧ (∀ d, (s.die d).fabtmo = 0x01000000 ∧ (s.die d).armlead = 0x00100000 ∧ (s.die d).rtsel = 0 ∧ (s.die d).linkdn = 0)
  ∧ (∀ d n, (s.die d).rtab.get 0xFF n = 0xFF)
  ∧ (∀ d q, (s.queue d q).state = 0 ∧ (s.queue d q).en = false)
  ∧ (∀ c, (s.core c).share = 0 ∧ (s.core c).framectl = 0 ∧ (s.core c).bankst = 0)
  ∧ ({} : Ctx).tvec = 0 ∧ ({} : Ctx).lburn = 512 ∧ ({} : Ctx).regs.slim = 0x4000 ∧ ({} : Ctx).waitbud = 0
  ∧ ({} : Ctx).mAt 0 = BitVec.allOnes 128 ∧ (∀ n, ({} : Ctx).nAt n = 0xFFFF) ∧ (∀ h, h < 2 → ({} : Regs).tokst h = 0xFFFFFFFF)

/-- Reset's memories are in their canonical form. -/
def Obligations.ResetMemories : Prop := State.reset.MemWf

/-- Every step keeps every memory of the machine in its canonical form. -/
def Obligations.StepKeepsMemories : Prop := ∀ s t : State, s.MemWf → step s = .next t → t.MemWf

/-! ### Scalar words of registers -/

/-- R204: the integer words write r after one cycle, and change nothing else. -/
def Obligations.IntegerWords : Prop :=
  ∀ e ∈ integerTable, ∀ (s : State) h d a b,
    s.Ready [codeP h.gp.toNat, codeG a.toNat, codeG b.toNat] [codeG d.toNat] [codeG a.toNat, codeG b.toNat] →
    ∃ t, exec (e.1 h d a b) s = .next t ∧ s.SetsG t h d (e.2 (s.g a.toNat) (s.g b.toNat)) 1

/-- R206: the multiplies write with latency 3, the divides with latency 18 when the divisor is not zero; -2^31 divided
by -1 gives 0x8000_0000, remainder 0. -/
def Obligations.MultiplyAndDivideWords : Prop :=
  (∀ e ∈ multiplyTable, ∀ (s : State) h d a b,
    s.Ready [codeP h.gp.toNat, codeG a.toNat, codeG b.toNat] [codeG d.toNat] [codeG a.toNat, codeG b.toNat] →
    ∃ t, exec (e.1 h d a b) s = .next t ∧ s.SetsG t h d (e.2 (s.g a.toNat) (s.g b.toNat)) 3)
  ∧ (∀ e ∈ divideTable, ∀ (s : State) h d a b, s.g b.toNat ≠ 0 →
    s.Ready [codeP h.gp.toNat, codeG a.toNat, codeG b.toNat] [codeG d.toNat] [codeG a.toNat, codeG b.toNat] →
    ∃ t, exec (e.1 h d a b) s = .next t ∧ s.SetsG t h d (e.2 (s.g a.toNat) (s.g b.toNat)) 18)
  ∧ (divideTable.map (fun e => e.2 0x80000000 0xFFFFFFFF)) = [0x80000000, 0, 0, 0x80000000]

/-- R207: a zero divisor is the arithmetic fault, cause 0x0B, of a program whose guard passes; the word does not
take effect, and no other scalar word raises that fault. -/
def Obligations.DivideByZero : Prop :=
  (∀ e ∈ divideTable, ∀ (s : State) h d a b, s.g b.toNat = 0 → s.guard h = true → s.cur.sh = false →
    s.Ready [codeP h.gp.toNat, codeG a.toNat, codeG b.toNat] [codeG d.toNat] [codeG a.toNat, codeG b.toNat] →
    exec (e.1 h d a b) s = .next (s.ends (.trap 0x0B 0 0 0)))
  ∧ (∀ i (s t : State) h info einfo strm, guardOf i = some h → (∀ e ∈ divideTable, ∀ d a b, i ≠ e.1 h d a b) →
    s.cur.sh = false → s.cur.late = none → exec i s = .next t → t.cur.verdict ≠ .trap 0x0B info einfo strm)

/-- R209: the compares write their predicate after one cycle. -/
def Obligations.CompareWords : Prop :=
  (∀ e ∈ compareTable, ∀ (s : State) h d a b,
    s.Ready [codeP h.gp.toNat, codeG a.toNat, codeG b.toNat] [codeP d.toNat] [codeG a.toNat, codeG b.toNat] →
    ∃ t, exec (e.1 h d a b) s = .next t ∧ s.SetsP t h d (e.2 s.flush (s.g a.toNat) (s.g b.toNat)) 1)
  ∧ (∀ e ∈ compareImmTable, ∀ (s : State) h d a imm,
    s.Ready [codeP h.gp.toNat, codeG a.toNat] [codeP d.toNat] [codeG a.toNat] →
    ∃ t, exec (e.1 h d a imm) s = .next t ∧ s.SetsP t h d (e.2 (s.g a.toNat) imm) 1)

/-- R210, R211: predicate logic; PSAVE packs the predicates into a word, and PLOAD sets p1 to p7 from one. -/
def Obligations.PredicateWords : Prop :=
  (∀ e ∈ predicateTable, ∀ (s : State) h d a b,
    s.Ready [codeP h.gp.toNat, codeP a.toNat, codeP b.toNat] [codeP d.toNat] [codeP a.toNat, codeP b.toNat] →
    ∃ t, exec (e.1 h d a b) s = .next t ∧ s.SetsP t h d (e.2 (s.p a.toNat) (s.p b.toNat)) 1)
  ∧ (∀ (s : State) h d a, s.Ready [codeP h.gp.toNat, codeP a.toNat] [codeP d.toNat] [codeP a.toNat] →
    ∃ t, exec (.pnot h d a) s = .next t ∧ s.SetsP t h d (!s.p a.toNat) 1)
  ∧ (∀ (s : State) h d,
    s.Ready (codeP h.gp.toNat :: (upFrom 1 7).map codeP) [codeG d.toNat] ((upFrom 1 7).map codeP) →
    ∃ t v, exec (.psave h d) s = .next t ∧ s.SetsG t h d v 1 ∧ v.toNat < 256
      ∧ ∀ k, k < 8 → v.getLsbD k = s.p k)
  ∧ (∀ (s : State) h a, s.Ready [codeP h.gp.toNat, codeG a.toNat] ((upFrom 1 7).map codeP) [codeG a.toNat] →
    ∃ t, exec (.pload h a) s = .next t
      ∧ (if s.guard h = true then s.Writes t 1 (.preds ((s.g a.toNat).truncate 8)) else s.Rests t))

/-- R213: the FP32 words; FMA rounds once and adds the old value of its destination. -/
def Obligations.FloatWords : Prop :=
  let x := fun (s : State) (n : BitVec 5) => operandEl s.flush .f32 (s.g n.toNat).toNat
  (∀ e ∈ floatTable, ∀ (s : State) h d a b,
    s.Ready [codeP h.gp.toNat, codeG a.toNat, codeG b.toNat] [codeG d.toNat] [codeG a.toNat, codeG b.toNat] →
    ∃ t, exec (e.1 h d a b) s = .next t ∧ s.SetsG t h d (BitVec.ofNat 32 (e.2.2 s.flush (x s a) (x s b))) e.2.1)
  ∧ (∀ e ∈ floatOneTable, ∀ (s : State) h d a,
    s.Ready [codeP h.gp.toNat, codeG a.toNat] [codeG d.toNat] [codeG a.toNat] →
    ∃ t, exec (e.1 h d a) s = .next t ∧ s.SetsG t h d (e.2 s.flush (s.g a.toNat)) 4)
  ∧ (∀ (s : State) h d a b,
    s.Ready [codeP h.gp.toNat, codeG a.toNat, codeG b.toNat, codeG d.toNat] [codeG d.toNat]
      [codeG a.toNat, codeG b.toNat, codeG d.toNat] →
    ∃ t, exec (.fma h d a b) s = .next t
      ∧ s.SetsG t h d (BitVec.ofNat 32 (roundF32 s.flush (Fp.add .rne (Fp.mul (x s a) (x s b)) (x s d)))) 4)

/-- R205: the words with an immediate; R214: the address words; R215: LIU and LIM. -/
def Obligations.ImmediateAndAddressWords : Prop :=
  (∀ e ∈ immediateTable, ∀ (s : State) h d a imm,
    s.Ready [codeP h.gp.toNat, codeG a.toNat] [codeG d.toNat] [codeG a.toNat] →
    ∃ t, exec (e.1 h d a imm) s = .next t ∧ s.SetsG t h d (e.2 (s.g a.toNat) imm) 1)
  ∧ (∀ e ∈ shiftTable, ∀ (s : State) h d a imm,
    s.Ready [codeP h.gp.toNat, codeG a.toNat] [codeG d.toNat] [codeG a.toNat] →
    ∃ t, exec (e.1 h d a imm) s = .next t ∧ s.SetsG t h d (e.2 (s.g a.toNat) imm.toNat) 1)
  ∧ (∀ (s : State) h d a b, s.Ready [codeP h.gp.toNat, codeX a.toNat, codeG b.toNat] [codeX d.toNat] [codeX a.toNat, codeG b.toNat] →
    ∃ t, exec (.xadd h d a b) s = .next t
      ∧ s.SetsX t h d (BitVec.ofInt 64 ((s.x a.toNat).toNat + (s.g b.toNat).toInt)) 1)
  ∧ (∀ (s : State) h d a b, s.Ready [codeP h.gp.toNat, codeG a.toNat, codeG b.toNat] [codeX d.toNat] [codeG a.toNat, codeG b.toNat] →
    ∃ t, exec (.xset h d a b) s = .next t
      ∧ s.SetsX t h d (BitVec.ofNat 64 ((s.g b.toNat).toNat * 2 ^ 32 + (s.g a.toNat).toNat)) 1)
  ∧ (∀ (s : State) h d a, s.Ready [codeP h.gp.toNat, codeX a.toNat] [codeG d.toNat] [codeX a.toNat] →
    (∃ t, exec (.xlo h d a) s = .next t ∧ s.SetsG t h d (BitVec.ofNat 32 (bits (s.x a.toNat).toNat 31 0)) 1)
    ∧ (∃ t, exec (.xhi h d a) s = .next t ∧ s.SetsG t h d (BitVec.ofNat 32 (bits (s.x a.toNat).toNat 63 32)) 1))
  ∧ (∀ (s : State) h d a, s.Ready [codeP h.gp.toNat, codeX a.toNat] [codeX d.toNat] [codeX a.toNat] →
    (∃ t, exec (.xmov h d a) s = .next t ∧ s.SetsX t h d (s.x a.toNat) 1)
    ∧ (∀ imm, ∃ t, exec (.xaddi h d a imm) s = .next t
      ∧ s.SetsX t h d (BitVec.ofInt 64 ((s.x a.toNat).toNat + imm.toInt)) 1))
  ∧ (∀ (s : State) h d imm, s.Ready [codeP h.gp.toNat] [codeG d.toNat] [] →
    ∃ t, exec (.liu h d imm) s = .next t ∧ s.SetsG t h d (BitVec.ofNat 32 (imm.toNat * 2 ^ 18)) 1)
  ∧ (∀ (s : State) h d imm, s.Ready [codeP h.gp.toNat, codeG d.toNat] [codeG d.toNat] [codeG d.toNat] →
    ∃ t, exec (.lim h d imm) s = .next t
      ∧ s.SetsG t h d ((s.g d.toNat &&& 0xFFFC000F) ||| BitVec.ofNat 32 (imm.toNat * 2 ^ 4)) 1)

/-- R157: a program's word whose guard fails and that meets no fault changes nothing: no register, no byte of
memory, no token, no lantern, no control state; its stream goes on. -/
def Obligations.FailedGuard : Prop :=
  ∀ i h (s t : State), guardOf i = some h → s.guard h = false → s.cur.sh = false → exec i s = .next t →
    t.cur.verdict = .went → s.Rests t

/-- A scalar word that retires while words of its bundle follow leaves its stream where it is; the last one moves
it past the bundle, to the target of a transfer when there is one, and changes no register and no byte (R60, R170). A
program's stream meets the loop bodies on its way (R64, `Ctx.moveOn`); a handler's and the stagehand's do not. That the count
of an idle word behind a transfer delays the target too is the model's choice (DESIGN CHOICE, log 74). -/
def Obligations.RetirementMovesTheStream : Prop :=
  ∀ s : State, (s.cur.more = true → s.retire = s)
  ∧ (s.cur.more = false → s.cur.ret = false → s.cur.late = none → s.hasAgent = true →
      s.SameBytes s.retire ∧ s.retire.regs.g = s.regs.g ∧ s.retire.regs.x = s.regs.x ∧ s.retire.regs.p = s.regs.p
      ∧ s.retire.regs.b = s.regs.b ∧ s.retire.regs.pend = s.regs.pend
      ∧ (s.timed = false → s.retire.regs.str = s.regs.str.advance s.now)
      ∧ (s.timed = true → s.retire.regs.str = s.me.moveOn 0 s.cur.line s.now s.regs.str)
      ∧ (s.regs.str.redir = none →
          s.retire.regs.str.line = s.regs.str.seqLine ∧ s.retire.regs.str.slot = s.regs.str.seqSlot)
      ∧ (∀ w, s.regs.str.redir = some w →
          s.retire.regs.str.line = w.toNat / 32 ∧ s.retire.regs.str.slot = w.toNat % 32)
      ∧ s.retire.regs.str.redir = none ∧ s.retire.regs.str.prev = s.now + s.regs.str.skip)

/-- R94, R103: that a word is under way books its accesses and lights blocks again that it writes: no register and
no byte of memory changes. -/
def Obligations.TouchingKeepsData : Prop :=
  ∀ (s : State) f, s.SameBytes (s.started f) ∧ (s.started f).regs.g = s.regs.g ∧ (s.started f).regs.x = s.regs.x
    ∧ (s.started f).regs.p = s.regs.p ∧ (s.started f).regs.b = s.regs.b ∧ (s.started f).regs.pend = s.regs.pend

/-! ### Scalar words of memory -/

/-- R217: a load from the scratchpad writes the bytes at its address, extended with zeros, after 3 cycles; from an
accumulator view after 6. LDW.acq does so too, and then fences what follows (R130). -/
def Obligations.ScratchpadLoads : Prop :=
  (∀ e ∈ loadTable, ∀ (s : State) h d a cls off,
    let addr := s.smAddr a off e.2
    s.scalarGoes h (smLoadForm e.2 d a cls off s) → d ≠ 0 →
    (regionOf addr = .sp → ∃ t, exec (e.1 h d a cls off) s = .next t
      ∧ s.Writes t 3 (.g d.toNat (BitVec.ofNat 32 (ofLe (s.spBytes 0 addr e.2))) (s.spMarkOf 0 addr)))
    ∧ ((regionOf addr).isView = true → ∃ t, exec (e.1 h d a cls off) s = .next t
      ∧ s.Writes t 6 (.g d.toNat (s.view 0 (viewKey addr)) (s.viewMark 0 (viewKey addr)))))
  ∧ (∀ e ∈ loadTable, ∀ (s : State) h a cls off, s.scalarGoes h (smLoadForm e.2 0 a cls off s) →
    ∃ t, exec (e.1 h 0 a cls off) s = .next t ∧ s.Rests t)
  ∧ (∀ (s : State) h d a cls off, s.scalarGoes h (smLoadForm 4 d a cls off s) → regionOf (s.smAddr a off 4) = .sp → d ≠ 0 →
    ∃ u, exec (.ldwAcq h d a cls off) s = .next (u.fence u.impliedMask false).retire
      ∧ s.Adds u [⟨s.now + (s.latency 3).1, s.nextId, 0, false,
        .g d.toNat (BitVec.ofNat 32 (ofLe (s.spBytes 0 (s.smAddr a off 4) 4))) (s.spMarkOf 0 (s.smAddr a off 4))⟩]
      ∧ s.SameBytes u)

/-- R93, R217: a store puts the low bytes of its data at its address in its issue cycle: the write is due at issue + 1,
the first cycle in which a read returns it (R131); to a view it writes an element (R89); through a window it leaves as an
element (R352). STW.rel does so too, and fences what precedes it first (R130). -/
def Obligations.ScratchpadStores : Prop :=
  (∀ e ∈ storeTable, ∀ (s : State) h d a cls off,
    let addr := s.smAddr a off e.2
    let f := smStoreForm e.2 d a cls off s
    let s1 := s.started (f.guarded h)
    s.scalarGoes h f →
    (regionOf addr = .sp → ∃ t, exec (e.1 h d a cls off) s = .next t
      ∧ s1.Puts t 1 (.sp e.2 (cellsOf addr (toLe e.2 (s1.g d.toNat).toNat)) [(addr / 4, s1.regs.mark (codeG d.toNat))]))
    ∧ ((regionOf addr).isView = true → ∃ t, exec (e.1 h d a cls off) s = .next t
      ∧ s1.Puts t 1 (.view [(viewKey addr, s1.g d.toNat)] [(viewKey addr, s1.regs.mark (codeG d.toNat))]))
    ∧ (regionOf addr = .win → exec (e.1 h d a cls off) s
      = .next (s1.windowStore 1 cls.toNat addr e.2 (s1.g d.toNat) (winRlx s1.me (winOf addr))).retire))
  ∧ (∀ (s : State) h d a cls off,
    let addr := s.smAddr a off 4
    let f := smStoreForm 4 d a cls off s
    let s1 := s.started (f.guarded h)
    s.scalarGoes h f →
    (regionOf addr = .sp → exec (.stwRel h d a cls off) s
      = .next ((s1.fence s1.impliedMask false).addPend 0 1
          (.sp 4 (cellsOf addr (toLe 4 (s1.g d.toNat).toNat)) [(addr / 4, s1.regs.mark (codeG d.toNat))])).retire)
    ∧ ((regionOf addr).isView = true → exec (.stwRel h d a cls off) s
      = .next ((s1.fence s1.impliedMask false).addPend 0 1
          (.view [(viewKey addr, s1.g d.toNat)] [(viewKey addr, s1.regs.mark (codeG d.toNat))])).retire)
    ∧ (regionOf addr = .win → exec (.stwRel h d a cls off) s
      = .next ((s1.fence s1.impliedMask true).windowStore 1 cls.toNat addr 4 (s1.g d.toNat)
          (winRlx (s1.fence s1.impliedMask true).me (winOf addr))).retire))

/-- R220, R223: a global load binds its register to its token and joins the memory path, with the address
translated; a store takes its data at issue; a returning atomic takes its operands. `.rel` fences before the access,
`.acq` after it. -/
def Obligations.GlobalAccesses : Prop :=
  (∀ (s : State) h (d : BitVec 5) xa cls tp ord,
    let va := (s.x xa.toNat).toNat
    let acq := fun (o : Xlate) (u : State) => if ord then u.fence u.impliedMask (u.xlateWide o) else u
    s.RunsScalar (.ldg h d xa cls tp ord) h (globalLoadForm 4 (codeG d.toNat) xa cls tp s) (fun u =>
      let (o, u) := u.xlate va false
      (acq o (u.addAcc va o (u.classOf cls) tp.toNat (.load (codeG d.toNat) 4) (some (codeG d.toNat)))).pump u.cur.core)
    ∧ s.RunsScalar (.stg h d xa cls tp ord) h (globalStoreForm 4 (codeG d.toNat) xa cls tp s) (fun u =>
      let (o, u) := u.xlate va true
      let u := acq o u
      (u.addAcc va o (u.classOf cls) tp.toNat (.store 4 (u.g d.toNat).toNat (u.regs.mark (codeG d.toNat))) none).pump
        u.cur.core)
    ∧ (∀ e ∈ globalAtomicTable,
      s.RunsScalar (e.1 h d xa cls tp ord) h (globalAtomicForm e.2 d xa cls tp s) (fun u =>
        let (o, u) := u.xlate va true
        (acq o (u.addAcc va o (u.classOf cls) tp.toNat
          (.atomic (codeG d.toNat) e.2 (u.g d.toNat) (u.g (d.toNat + 1))) (some (codeG d.toNat)))).pump u.cur.core)))
  ∧ (∀ (s : State) h (d : BitVec 3) xa cls tp ord,
    let va := (s.x xa.toNat).toNat
    let acq := fun (o : Xlate) (u : State) => if ord then u.fence u.impliedMask (u.xlateWide o) else u
    s.RunsScalar (.ldgx h d xa cls tp ord) h (globalLoadForm 8 (codeX d.toNat) xa cls tp s) (fun u =>
      let (o, u) := u.xlate va false
      (acq o (u.addAcc va o (u.classOf cls) tp.toNat (.load (codeX d.toNat) 8) (some (codeX d.toNat)))).pump u.cur.core)
    ∧ s.RunsScalar (.stgx h d xa cls tp ord) h (globalStoreForm 8 (codeX d.toNat) xa cls tp s) (fun u =>
      let (o, u) := u.xlate va true
      let u := acq o u
      (u.addAcc va o (u.classOf cls) tp.toNat (.store 8 (u.x d.toNat).toNat (u.regs.mark (codeX d.toNat))) none).pump
        u.cur.core))

/-- R201, R220: an access that joins the memory path is the newest there; its token is pending and its register
bound to it, to a hidden token when `TP` names t0; no byte of memory changes. -/
def Obligations.AccessJoins : Prop :=
  ∀ (s : State) va pa cls tp op bind, s.hasAgent = true → tp < 64 →
    let u := s.addAcc va (.ok pa) cls tp op bind
    u.accs = s.accs ++ [⟨s.nextId, s.cur.core, s.stageOf s.cur.core, s.cur.sh, tp, cls, va, pa, s.rootOf, op, false, false⟩]
    ∧ s.SameBytes u ∧ (tp ≠ 0 → u.regs.pending tp = true ∧ u.regs.failed tp = false)
    ∧ u.regs.bound = s.regs.bound ++ (match bind with | some r => [⟨r, tp, s.nextId⟩] | none => [])

/-- R225: AADD, AMIN, AMAX, AOR, ASWAP and ACAS complete: where the guard passes and no item of R164 stands against the
word, a program's writes the old word to its register with latency 3 and the new word to memory in cycle issue + 2; a
handler's or a stagehand's is one access at the port, after the stores of its bundle (R98; one access: DESIGN CHOICE, log
62). Where the guard fails and no item stands against it, it completes without effect (R157). -/
def Obligations.LocalAtomics : Prop :=
  ∀ e ∈ localAtomicTable, ∀ (s : State) h d a cls off,
    let addr := s.smAddr a off 4
    let f := localAtomicForm e.2.1 d a cls off s
    let s1 := s.started (f.guarded h)
    let old : Word := BitVec.ofNat 32 (ofLe (s1.spBytes 0 addr 4))
    let new := e.2.2 old (s1.g d.toNat) (s1.g (d.toNat + 1))
    let cells := cellsOf addr (toLe 4 new.toNat)
    (s.scalarGoes h f → s.timed = true → ∃ u : State, exec (e.1 h d a cls off) s = .next u.retire
      ∧ s1.Adds u ((if d = 0 then [] else [⟨s1.now + (s1.latency 3).1, s1.nextId, 0, false, .g d.toNat old false⟩])
        ++ [⟨s1.now + 3, s1.nextId + (if d = 0 then 0 else 1), 0, false, .sp 4 cells [(addr / 4, false)]⟩])
      ∧ s1.SameBytes u)
    ∧ (s.scalarGoes h f → s.timed = false → exec (e.1 h d a cls off) s
      = .next (((s1.gwrite d.toNat old 3).makeStores).modCore s.cur.core (·.spWrite cells [(addr / 4, false)])).retire)
    ∧ (s.hasAgent = true → s.guard h = false → s.fate 0 false (f.guarded h) = .went →
      ∃ t, exec (e.1 h d a cls off) s = .next t ∧ s.Rests t)

/-- R227: SPL reads a word of the frame, SPS writes one. -/
def Obligations.SpillWords : Prop :=
  (∀ (s : State) h d imm, s.scalarGoes h (splForm d imm s) → d ≠ 0 →
    let a := s.regs.frameptr + 4 * imm.toNat
    ∃ t, exec (.spl h d imm) s = .next t
      ∧ s.Writes t 1 (.g d.toNat (BitVec.ofNat 32 (ofLe (s.regs.spill.readN a 4))) (s.regs.mark (codeSpill (a / 4)))))
  ∧ (∀ (s : State) h imm, s.scalarGoes h (splForm 0 imm s) → ∃ t, exec (.spl h 0 imm) s = .next t ∧ s.Rests t)
  ∧ (∀ (s : State) h d imm, s.scalarGoes h (spsForm d imm s) →
    let a := s.regs.frameptr + 4 * imm.toNat
    let s1 := s.started ((spsForm d imm s).guarded h)
    ∃ t, exec (.sps h d imm) s = .next t ∧ s1.Puts t 1 (.spill a (s1.g d.toNat) (s1.regs.mark (codeG d.toNat))))

/-- R94, R200, R283: a write in flight that is made changes what it names and nothing else of the g, x, p and b
registers, of the bytes of memory and of the accumulator elements of its context: a write of a g, x, p or b register, of
bytes of the scratchpad or the spill store, of an accumulator element. R33, R42, R46, R47, R310, R314, R321, R335: so is a
write of a v or m register, an addition to a lane of a running sum and a clearing of lanes, an update of a tile's elements,
which views and stores see four cycles later, a load of a latch with its transposition bit, and of the format table. -/
def Obligations.WritesInFlight : Prop :=
  ∀ (s : State) c b sh due, (sh = false → (s.ctx c b).isSome = true) →
    let old := s.regsOf c b sh
    let made := fun (w : PWrite) => (s.applyWrite c b sh due w).1
    let regs := fun (w : PWrite) => (made w).regsOf c b sh
    let tiles := fun (u : State) => ((u.ctx c b).getD {}).tiles
    (∀ n v m, (n ≠ 0 → (regs (.g n v m)).gAt n = v) ∧ (∀ k, k ≠ n → (regs (.g n v m)).gAt k = old.gAt k)
      ∧ (regs (.g n v m)).x = old.x ∧ (regs (.g n v m)).p = old.p ∧ (regs (.g n v m)).b = old.b
      ∧ s.SameBytes (made (.g n v m)) ∧ tiles (made (.g n v m)) = tiles s)
    ∧ (∀ n v m, (regs (.x n v m)).xAt n = v ∧ (∀ k, k ≠ n → (regs (.x n v m)).xAt k = old.xAt k)
      ∧ (regs (.x n v m)).g = old.g ∧ (regs (.x n v m)).p = old.p ∧ (regs (.x n v m)).b = old.b
      ∧ s.SameBytes (made (.x n v m)) ∧ tiles (made (.x n v m)) = tiles s)
    ∧ (∀ n v, n < 8 → (n ≠ 0 → (regs (.p n v)).pAt n = v) ∧ (∀ k, k ≠ n → k < 8 → (regs (.p n v)).pAt k = old.pAt k)
      ∧ (regs (.p n v)).g = old.g ∧ (regs (.p n v)).x = old.x ∧ (regs (.p n v)).b = old.b
      ∧ s.SameBytes (made (.p n v)) ∧ tiles (made (.p n v)) = tiles s)
    ∧ (∀ n v, (regs (.b n v)).bAt' n = v ∧ (∀ k, k ≠ n → (regs (.b n v)).bAt' k = old.bAt' k)
      ∧ (regs (.b n v)).g = old.g ∧ (regs (.b n v)).x = old.x ∧ (regs (.b n v)).p = old.p
      ∧ s.SameBytes (made (.b n v)) ∧ tiles (made (.b n v)) = tiles s)
    ∧ (∀ a v m, (∀ x, (regs (.spill a v m)).spill.read x = (old.spill.writeN a (toLe 4 v.toNat)).read x)
      ∧ old.SameFile (regs (.spill a v m)) ∧ (made (.spill a v m)).phys = s.phys
      ∧ (∀ k, ((made (.spill a v m)).core k).sp = (s.core k).sp) ∧ tiles (made (.spill a v m)) = tiles s)
    ∧ (∀ unit cells marks,
      (∀ x, ((made (.sp unit cells marks)).core c).sp.read x = ((s.core c).sp.writeCells cells).read x)
      ∧ (∀ k, k ≠ c → ((made (.sp unit cells marks)).core k).sp = (s.core k).sp)
      ∧ old.SameFile (regs (.sp unit cells marks)) ∧ (regs (.sp unit cells marks)).spill = old.spill
      ∧ (made (.sp unit cells marks)).phys = s.phys ∧ tiles (made (.sp unit cells marks)) = tiles s)
    ∧ (∀ key v m, sh = false →
      (((made (.view [(key, v)] [(key, m)])).ctx c b).getD {}).tileAt key = v
      ∧ (∀ k, k ≠ key → (((made (.view [(key, v)] [(key, m)])).ctx c b).getD {}).tileAt k = ((s.ctx c b).getD {}).tileAt k)
      ∧ old.SameFile (regs (.view [(key, v)] [(key, m)])) ∧ s.SameBytes (made (.view [(key, v)] [(key, m)])))
    ∧ (sh = false →
      let x := (s.ctx c b).getD {}
      let cx := fun (w : PWrite) => ((made w).ctx c b).getD {}
      let keeps := fun (w : PWrite) => old.SameFile (regs w) ∧ s.SameBytes (made w)
      let seen := fun (els : List Nat) => els.map (fun k => (k, x.tileAt k))
      (∀ n ew val sel marks, let w := PWrite.v n ew val sel marks
        (∀ i, ((cx w).vAt n).getLsbD i = if sel.getLsbD i then val.getLsbD i else (x.vAt n).getLsbD i)
        ∧ (∀ k, k ≠ n → (cx w).vAt k = x.vAt k) ∧ keeps w ∧ (cx w).tiles = x.tiles)
      ∧ (∀ n val sel, let w := PWrite.m n val sel
        (n ≠ 0 → ∀ i, ((cx w).mAt n).getLsbD i = if sel.getLsbD i then val.getLsbD i else (x.mAt n).getLsbD i)
        ∧ (∀ k, k ≠ n ∨ k = 0 → (cx w).mAt k = x.mAt k) ∧ (cx w).v = x.v ∧ keeps w ∧ (cx w).tiles = x.tiles)
      ∧ (∀ n l nan inf neg m e mark, let w := PWrite.yadd n l nan inf neg m e mark
        let a := yAdd (x.yAt n l) (x.yPoint n) (yVal nan inf neg m e)
        (cx w).yAt n l = a.y ∧ (∀ k j, 128 * k + j ≠ 128 * n + l → (cx w).yAt k j = x.yAt k j)
        ∧ (∀ i, bitAt ((cx w).yctl.get 0 n).toNat i
          = (bitAt (x.yctl.get 0 n).toNat i || (i == 8 && a.inexact) || (i == 9 && a.ovf)))
        ∧ (∀ k, k ≠ n → (cx w).yctl.get 0 k = x.yctl.get 0 k) ∧ keeps w ∧ (cx w).tiles = x.tiles)
      ∧ (∀ n lanes, let w := PWrite.yclr n lanes
        (∀ l ∈ lanes, (cx w).yAt n l = 0)
        ∧ (∀ k j, (∀ l ∈ lanes, 128 * k + j ≠ 128 * n + l) → (cx w).yAt k j = x.yAt k j)
        ∧ (cx w).yctl = x.yctl ∧ keeps w ∧ (cx w).tiles = x.tiles)
      ∧ (∀ t ovw flush els, (els.map (·.1)).Nodup → let w := PWrite.tileAcc t ovw flush els
        (∀ e ∈ els, (cx w).tileAt e.1
          = BitVec.ofNat 32 (accUpdate flush ovw (x.tileAt e.1).toNat (e.2.map BitVec.toNat)))
        ∧ (∀ k, k ∉ els.map (·.1) → (cx w).tileAt k = x.tileAt k)
        ∧ (regs w).pend = old.pend ++ [⟨due + 4, s.nextId, 2, false, .tileSeen t (seen (els.map (·.1)))⟩] ∧ keeps w)
      ∧ (∀ t els marks, (els.map (·.1)).Nodup → let w := PWrite.tileSet t els marks
        (∀ e ∈ els, (cx w).tileAt e.1 = e.2) ∧ (∀ k, k ∉ els.map (·.1) → (cx w).tileAt k = x.tileAt k)
        ∧ (regs w).pend = old.pend ++ [⟨due + 4, s.nextId, 2, false, .tileSeen t (seen (els.map (·.1)))⟩] ∧ keeps w)
      ∧ (∀ k bs z marks, k < 2 → bs.length = 16384 → x.klatch.wf = true → let w := PWrite.latch k bs z marks
        (∀ i, i < 16384 → (cx w).klatch.read (16384 * k + i) = bs.getD i 0)
        ∧ (∀ a, a < 16384 * k ∨ 16384 * k + 16384 ≤ a → (cx w).klatch.read a = x.klatch.read a)
        ∧ (cx w).ktr.getLsbD k = z ∧ (cx w).ktr.getLsbD (1 - k) = x.ktr.getLsbD (1 - k)
        ∧ old.SameFile (regs w) ∧ (regs w).spill = old.spill ∧ (made w).phys = s.phys
        ∧ (∀ q, ((made w).core q).sp = (s.core q).sp) ∧ (cx w).tiles = x.tiles)
      ∧ (∀ image, image.length = 516 → let w := PWrite.ftab image
        (cx w).fthdr = BitVec.ofNat 32 (ofLe (image.take 4))
        ∧ (∀ i, i < 256 → (cx w).ftab.get 0 i = BitVec.ofNat 16 (ofLe ((image.drop (4 + 2 * i)).take 2)))
        ∧ keeps w ∧ (cx w).tiles = x.tiles))

/-! ### Control transfer, control registers, waiting -/

/-- R228, R229: PBR puts line and slot into its b register at once; BR transfers to its register when its bundle is
over. R231: CALL pushes a link record and a frame, RET pops them. -/
def Obligations.ControlTransfer : Prop :=
  (∀ (s : State) h bn (loff : BitVec 11) slot,
    s.RunsScalar (.pbr h bn loff slot) h { writes := [codeB bn.toNat] } (fun u =>
      let line := wrap ((u.cur.line : Int) + loff.toInt) 27
      (u.modRegs (fun r => (r.setB bn.toNat (targetWord line slot.toNat) u.now).setMark (codeB bn.toNat) false)).modCore
        u.cur.core (·.logReg (u.stageOf u.cur.core) u.cur.sh (codeB bn.toNat))))
  ∧ (∀ (s : State) h bn, s.RunsScalar (.br h bn) h (brForm bn.toNat s) (fun u =>
      u.modRegs (fun r => { r with str := { r.str with redir := some (s.b bn.toNat) } })))
  ∧ (∀ (s : State) h bn,
    let t := s.b bn.toNat
    let f := s.frameAtLine (t.toNat / 32)
    let l := s.regs.frameptr + s.regs.framesz
    s.RunsScalar (.call h bn) h (callForm bn.toNat s) (fun u =>
      let v := (u.modRegs (fun r =>
        let r := { r with
          spill := r.spill.writeN l (toLe 4 r.framesz ++ toLe 4 r.frameptr ++ toLe 8 0), frameptr := l + 16, framesz := 16 * f }
        ((((upFrom (l / 4) 4).foldl (fun (r : Regs) w => r.setMark (codeSpill w) false) r).setB 7
          (targetWord u.regs.str.seqLine u.regs.str.seqSlot) u.now).setMark (codeB 7) false))).modCore u.cur.core
          (·.logReg (u.stageOf u.cur.core) u.cur.sh (codeB 7))
      v.modRegs (fun r => { r with str := { r.str with redir := some t } })))
  ∧ (∀ (s : State) h, s.RunsScalar (.ret h) h (retForm s) (fun u =>
      let u := if s.regs.frameptr = 0 then u else u.modRegs (fun r => { r with
        framesz := ofLe (r.spill.readN (r.frameptr - 16) 4), frameptr := ofLe (r.spill.readN (r.frameptr - 12) 4) })
      u.modRegs (fun r => { r with str := { r.str with redir := some (s.b 7) } })))

/-- R64, R233: LSTART makes its level active, its first iteration due in the next cycle and its index until then what it
was, the youngest of the active levels, and changes no other level. -/
def Obligations.LoopStart : Prop :=
  ∀ (s : State) h (lvl : BitVec 3),
    let j := lvl.toNat
    s.scalarGoes h { sched := !s.lstartOk j } →
    ∃ u, exec (.lstart h lvl) s = .next u.retire
      ∧ (u.me.levels.get {} j).active = true ∧ (u.me.levels.get {} j).began = false
      ∧ (u.me.levels.get {} j).first = s.now + 1
      ∧ (u.me.levels.get {} j).count = s.me.loopCount j ∧ (u.me.levels.get {} j).period = s.me.loopPeriod j
      ∧ (u.me.levels.get {} j).idx = s.me.index j
      ∧ u.me.stack = j :: s.me.stack ∧ u.regs = s.regs ∧ s.SameBytes u
      ∧ ∀ i, i ≠ j → u.me.levels.get {} i = s.me.levels.get {} i

/-- R238: CRD writes the register's value of the issue cycle, and loads the read latch for the low half of a 64-bit
register; CWR makes a write that applies from the next cycle, and the low half of a 64-bit register only loads the
staging word. R242: FEATQ. -/
def Obligations.ControlRegisterWords : Prop :=
  (∀ (s : State) h d (creg : BitVec 12), s.cur.sh = false →
    s.RunsScalar (.crd h d creg) h (crdForm d creg.toNat s) (fun u =>
      let v := u.crdValue u.cur.core false u.regs creg.toNat
      (u.modRegs (fun r => { r with latch := v.2 })).gwrite d.toNat v.1 1))
  ∧ (∀ (s : State) h d (creg : BitVec 12), s.cur.sh = false →
    s.RunsScalar (.cwr h d creg) h (cwrForm d creg.toNat s) (fun u =>
      let v := u.cwrValue u.cur.core false u.regs creg.toNat (u.g d.toNat)
      let hi := u.regs.cwrHalf creg.toNat
      let u := u.modRegs (fun r => { r with staging := v.2 })
      match v.1 with
      | none => u
      | some x => u.addPend 0 1
          (.creg (if cregWide creg.toNat then creg.toNat / 2 * 2 else creg.toNat) (BitVec.ofNat 64 x) hi false)))
  ∧ (∀ (s : State) h a, s.Ready [codeP h.gp.toNat, codeG a.toNat] [codeG a.toNat] [codeG a.toNat] →
    ∃ t, exec (.featq h a) s = .next t ∧ s.SetsG t h a (s.feature (s.g a.toNat).toNat) 1)

/-- R234: CFENCE joins the fences of its agent. R146: WAITV makes the read of its word as a load of its class, a
stagehand's of class 15 (log 47), and its agent waits for it; the read ends the wait where the word differs from the value
expected. Where it does not, the wait begins, by the wake table or by polls of which the first comes after 16 cycles (R147).
R169, R237: IDLE times the next word; NOP has no effect. -/
def Obligations.FencesAndWaits : Prop :=
  (∀ (s : State) h (scope : BitVec 2) (mask : BitVec 16),
    s.RunsScalar (.cfence h scope mask) h { illegal := !s.cur.sh && mask.getLsbD 15 }
      (fun u => (u.fence mask.toNat (decide (2 ≤ scope.toNat))).pump u.cur.core))
  ∧ (∀ (s : State) h d xa cls,
    let va := (s.x xa.toNat).toNat
    s.RunsScalar (.waitv h d xa cls) h (waitvForm d xa cls s) (fun u =>
      ((u.xlate va false).2.watch va (u.xlate va false).1 ((u.xlate va false).2.classOf cls) (u.g d.toNat)).pump u.cur.core))
  ∧ (∀ (s : State) va pa cls v, s.hasAgent = true →
    let t := s.watch va (.ok pa) cls v
    let w : Wait := ⟨va, pa, v, cls, s.cue, 16, s.cue, false, false, some s.nextId⟩
    (s.cur.sh = false → t.me.waitv = some w) ∧ (s.cur.sh = true → (t.core s.cur.core).shWatch = some (w, s.cur.word))
    ∧ t.accs = s.accs ++ [⟨s.nextId, s.cur.core, s.stageOf s.cur.core, s.cur.sh, 0, cls, va, pa, s.rootOf, .watch v, false, false⟩]
    ∧ s.SameBytes t)
  ∧ (∀ (s : State) (a : Acc) expect v w n, a.sh = true → (s.core a.core).shWatch = some (w, n) → w.read = some a.id →
    w.woken = false → (∀ y, s.ctx a.core (1 - s.stageOf a.core) = some y → y.runnable = false) →
    let t := s.watched a expect v false
    (BitVec.ofNat 32 v ≠ expect → (t.core a.core).shWatch = none)
    ∧ (BitVec.ofNat 32 v = expect → w.interval = 16 → w.entry = false →
      ∃ e p, (t.core a.core).shWatch = some ({ w with read := none, begun := s.cue, entry := e, pollAt := p }, n)
        ∧ (e = false → p = s.cue + 16
          ∧ (s.cue + 16, Instr.waitvPoll, ({ core := a.core, bank := shBank } : EvArg)) ∈ t.agenda)))
  ∧ (∀ (s : State) (a : Acc) expect v w x, a.sh = false → a.bank < 2 → s.ctx a.core a.bank = some x → x.waitv = some w →
    w.read = some a.id → w.woken = false → s.stageOf a.core = a.bank → (s.core a.core).exchange = none →
    (∀ y, s.ctx a.core (1 - a.bank) = some y → y.runnable = false) →
    let t := s.watched a expect v false
    ∃ y, t.ctx a.core a.bank = some y ∧ (BitVec.ofNat 32 v ≠ expect → y.waitv = none)
      ∧ (BitVec.ofNat 32 v = expect → w.interval = 16 → w.entry = false →
        ∃ e p, y.waitv = some { w with read := none, begun := s.cue, entry := e, pollAt := p }
          ∧ (e = false → p = s.cue + 16
            ∧ (s.cue + 16, Instr.waitvPoll, ({ core := a.core, bank := a.bank } : EvArg)) ∈ t.agenda)))
  ∧ (∀ (s : State) n cnt, s.RunsScalar (.idle n cnt) ⟨n, 0, false⟩ {} (fun u =>
      u.modRegs (fun r => { r with str := { r.str with skip := cnt.toNat } })))
  ∧ (∀ (s : State) h, s.Ready [codeP h.gp.toNat] [] [] → ∃ t, exec (.nop h) s = .next t ∧ s.Rests t)

/-! ### Traps -/

/-- R381, R382: TRET in a handler whose saved words pass the checks makes the return when its bundle is over, and is
the cause 5 trap otherwise, outside a handler and in one; TRAP is taken after its bundle, with cause 0x12 and its code. A
stagehand's are recorded, and its stream goes on (R375). Of two traps of one bundle the first is taken, and a deferred
remote-store fault that a TRAP of its bundle comes before is owed (DESIGN CHOICE, log 61). -/
def Obligations.TrapWords : Prop :=
  (∀ (s : State) h, s.cur.sh = false → s.me.tretOk = true →
    s.RunsScalar (.tret h) h (tretForm s) (fun u => { u with cur := { u.cur with ret := true } }))
  ∧ (∀ x : Ctx, x.tretOk = true ↔ x.hnd = true ∧ bits x.estatus.toNat 31 28 = 0 ∧ bits x.estatus.toNat 17 16 = 0
      ∧ x.elcue.toNat ≤ x.tau)
  ∧ (∀ (s : State) h, s.Ready [codeP h.gp.toNat] [] [] → s.guard h = true → s.cur.sh = false → s.me.tretOk = false →
      exec (.tret h) s = .next (s.ends (.trap 5 0 0 0)))
  ∧ (∀ (s : State) h, s.Ready [codeP h.gp.toNat] [] [] → s.guard h = true → s.cur.sh = true →
      let u : State := { s with cur := { s.cur with verdict := .went } }
      exec (.tret h) s = .next (u.shFault 5).retire ∧ ∀ code, exec (.trap h code) s = .next (u.shFault 0x12).retire)
  ∧ (∀ (s : State) h (code : BitVec 6), s.cur.sh = false →
    (s.cur.late = none →
      s.RunsScalar (.trap h code) h {} (fun u => { u with cur := { u.cur with late := some (0x12, code.toNat) } }))
    ∧ (∀ n, s.cur.late = some (0x12, n) → s.RunsScalar (.trap h code) h {} id)
    ∧ (∀ n, s.cur.late = some (0x0E, n) → s.RunsScalar (.trap h code) h {} (fun u =>
        ({ u with cur := { u.cur with late := some (0x12, code.toNat) } } : State).modMe (fun x => { x with owed := true }))))
  ∧ (∀ s : State, s.cur.more = false → s.cur.ret = true → s.cur.late = none → s.cur.sh = false →
      s.retire = ({ s with cur := { s.cur with ret := false } } : State).tret s.cur.core (s.stageOf s.cur.core))
  ∧ (∀ (s : State) code, s.cur.more = false → s.cur.ret = false → s.cur.late = some (0x12, code) → s.cur.sh = false →
      s.hasAgent = true → ∃ u : State, s.retire = u.enterTrap s.cur.core (s.stageOf s.cur.core) 0x12 code 0 0
        ∧ u.regs.str = (if s.timed then s.me.moveOn 0 s.cur.line s.now s.regs.str else s.regs.str.advance s.now)
        ∧ u.regs.g = s.regs.g ∧ u.regs.x = s.regs.x ∧ u.regs.p = s.regs.p ∧ s.SameBytes u)

/-- R378: a program trap of a context with a handler drains it and saves: `ESTATUS` the cause, its `INFO`, and the
stream; `EINFO`; `ELCUE` the local cue; the three target words. `HND` is set, the clock stops, and the handler's
first word is due 24 cycles later. The accesses booked for the trap's cycle and later stay booked (R94). No byte of memory
and no register of the file changes by the saving. -/
def Obligations.TrapEntry : Prop :=
  ∀ (s : State) c b cause info einfo strm x,
    (s.drain c b).ctx c b = some x → (∀ y, s.ctx c b = some y → y.tvec ≠ 0 ∧ y.hnd = false) →
    let t := s.enterTrap c b cause info einfo strm
    let l := x.lcue (s.drain c b).cue
    ∃ y, t.ctx c b = some y
      ∧ y.estatus = x.trapStatus b cause info strm ∧ y.einfo = BitVec.ofNat 32 einfo ∧ y.elcue = BitVec.ofNat 64 l
      ∧ y.epcs = x.regs.str.target32 ∧ y.epcv = x.vs.target32 ∧ y.epcm = x.ms.target32
      ∧ y.hnd = true ∧ y.entry = some ((s.drain c b).cue + 24, none) ∧ y.lcue (s.drain c b).cue = l
      ∧ y.regs = x.regs ∧ y.tvec = x.tvec ∧ y.booked = x.booked.filter (fun k => decide (l ≤ k.cyc))
      ∧ ((s.drain c b).cue + 24, Instr.handlerStart, ({ core := c, bank := b } : EvArg)) ∈ t.agenda
      ∧ (s.drain c b).SameBytes t

/-- R377: a trap that no handler takes (`TVEC` is 0 when it is raised, or the context is in its handler) saves nothing: cause 0x4C or
0x4D is recorded with the status that would have been saved, and the context is held when the entry is over. That the cause is
0x4D where both hold is the model's choice (DESIGN CHOICE, log 78). -/
def Obligations.UnhandledTrap : Prop :=
  ∀ (s : State) c b cause info einfo strm x,
    (s.drain c b).ctx c b = some x → (∃ y, s.ctx c b = some y ∧ (y.tvec = 0 ∨ y.hnd = true)) →
    let rc := if x.hnd then 0x4D else 0x4C
    let u := (s.drain c b).setCtx c b
      { x.stop (s.drain c b).cue with entry := some ((s.drain c b).cue + 24, some ⟨rc, .restart⟩) }
    s.enterTrap c b cause info einfo strm
        = (u.ctxRec c b true rc 0 0 (x.trapStatus b cause info strm).toNat).at_ (u.cue + 24) .handlerStart
            { core := c, bank := b }
    ∧ (∀ y, u.ctx c b = some y → y.estatus = x.estatus ∧ y.elcue = x.elcue ∧ y.epcs = x.epcs ∧ y.regs = x.regs)

/-- R378, R379: when entry is over the handler starts at the word `TVEC` names; R381: the return puts the three
streams at the saved words, and the local cue of the next cycle is `ELCUE`. R383: with `RST` set it restarts instead, at the
last restart point: its streams, its levels and its local cue, the registers, tiles, latches, fresh flags, tokens, bindings
and memory as they are. -/
def Obligations.HandlerStartAndReturn : Prop :=
  (∀ (s : State) c b x, s.ctx c b = some x → x.entry = some (s.cue, none) → ∃ y, (s.entryEnd c b).ctx c b = some y
    ∧ y.entry = none ∧ y.regs.str.line = x.tvec.toNat / 32 ∧ y.regs.str.slot = x.tvec.toNat % 32
    ∧ y.regs.str.present = true ∧ y.regs.g = x.regs.g ∧ y.hnd = x.hnd ∧ y.vs = x.vs ∧ y.ms = x.ms)
  ∧ (∀ (s : State) x, s.ctx s.ev.core s.ev.bank = some x → x.entry = some (s.cue, none) →
      exec .handlerStart s = .next ((s.entryEnd s.ev.core s.ev.bank).settle s.ev.core))
  ∧ (∀ (x : Ctx) cue, x.elcue.toNat ≤ cue → (x.resume cue).hnd = false ∧ (x.resume cue).lcue (cue + 1) = x.elcue.toNat
      ∧ (x.saved.ss.present = true → (x.resume cue).regs.str.target32 = x.epcs)
      ∧ (x.saved.vs.present = true → (x.resume cue).vs.target32 = x.epcv)
      ∧ (x.saved.ms.present = true → (x.resume cue).ms.target32 = x.epcm)
      ∧ (x.resume cue).levels = x.saved.levels ∧ (x.resume cue).regs.g = x.regs.g ∧ (x.resume cue).regs.x = x.regs.x
      ∧ (x.resume cue).tvec = x.tvec)
  ∧ (∀ (s : State) c b x, s.ctx c b = some x →
      (bitAt x.estatus.toNat 20 = false → s.tret c b = (s.modCtx c b (·.resume s.cue)).afterHandler c b)
      ∧ (bitAt x.estatus.toNat 20 = true → s.tret c b = (s.goBack c b).afterHandler c b)
      ∧ (x.after = false → s.afterHandler c b = s.tryExchange c))
  ∧ (∀ (s : State) c b x, s.ctx c b = some x → x.rpCue ≤ s.cue + 1 →
      let t := s.goBack c b
      ∃ y, t.ctx c b = some y ∧ y.hnd = false ∧ y.lcue (s.cue + 1) = x.rpCue
        ∧ y.regs.str = x.rp.ss ∧ y.vs = x.rp.vs ∧ y.ms = x.rp.ms ∧ y.stack = x.rp.stack
        ∧ (∀ j, j < 6 → (x.rp.levels.get {} j).active = true → y.levels.get {} j = x.rp.levels.get {} j)
        ∧ (∀ j, j < 6 → (x.rp.levels.get {} j).active = false → (y.levels.get {} j).active = false)
        ∧ x.regs.SameFile y.regs ∧ y.v = x.v ∧ y.m = x.m ∧ y.y = x.y ∧ y.tiles = x.tiles ∧ y.ktr = x.ktr ∧ y.fresh = x.fresh
        ∧ y.regs.tokPend = x.regs.tokPend ∧ y.regs.tokFail = x.regs.tokFail ∧ y.regs.bound = x.regs.bound
        ∧ s.SameBytes t)

/-! ### The stagehand's words -/

/-- R161: a form reserved to the stagehand is an illegal instruction to a program, whatever its operands: the word
takes no effect. -/
def Obligations.StagehandWordsRefusedToPrograms : Prop :=
  ∀ i (s : State), stagehandForm i = true → s.hasAgent = true → s.cur.sh = false →
    exec i s = .next (s.ends (.trap 4 0 0 0))

/-- R161, R387 to R391, R402, R406, R113, R370: the stagehand's words. Those with a token produce it; KINDLE and DOUSE
act on every block of their range; TAGSET without clear writes the owner tags of blocks at rest in the next cycle;
FBPOP takes the oldest record; SHSLEEP ends the bundles of the stagehand; SELFTEST joins the self-tests of its core,
which take its stagehand cycles; ALIGNC ends at an event of its own, and fails with cause 9 while a launch is armed or
running in its scope; whether one of another package is, is a free value (log 44). That a doused block is dousing at once, whatever accesses of it
are pending, is the model's choice (DESIGN CHOICE, log 72). That CTXRUN sets the bit of a world in
`WLIVE` is the model's choice (DESIGN CHOICE, log 58: R432 names arming alone). -/
def Obligations.StagehandWords : Prop :=
  (∀ (s : State) h tp a, s.cur.sh = true →
    let v := (s.g a.toNat).toNat
    (∀ out, s.RunsScalar (if out then .douse h tp a else .kindle h tp a) h (s.shForm h a tp (blockRangeBad v)) (fun u =>
      let (i, u) := u.producing tp
      let c := u.cur.core
      match u.ctx c (bits v 16 16) with
      | none => u.shDone c tp.toNat i 10
      | some _ =>
        let u := (upFrom (bits v 7 0) (bits v 15 8 + 1 - bits v 7 0)).foldl (fun u n =>
          if n = 0 then u else if out then u.douse c (bits v 16 16) n else u.kindle c (bits v 16 16) n false) u
        (u.modCore c (fun k => { k with
          blkToks := k.blkToks ++ [⟨bits v 16 16, bits v 7 0, bits v 15 8, out, tp.toNat, i⟩] })).blockTokens c))
    ∧ ((∀ n ∈ upFrom (bits v 6 0) (bits v 14 8 + 1 - bits v 6 0), (s.core s.cur.core).spBlk.get .lit n = .lit) →
        bitAt v 19 = false →
        s.RunsScalar (.tagset h tp a) h (tagsetForm h tp a s) (fun u =>
          let (i, u) := u.producing tp
          ((upFrom (bits v 6 0) (bits v 14 8 + 1 - bits v 6 0)).foldl (fun u n =>
            u.addPend 0 1 (.otag n n (bits v 18 16))) u).addPend 0 1 (.tok tp.toNat i)))
    ∧ (bitAt v 19 = true → s.RunsScalar (.tagset h tp a) h (tagsetForm h tp a s) (fun u =>
        let (i, u) := u.producing tp
        (u.modCore u.cur.core (fun k => { k with tagWaits := k.tagWaits ++
          [⟨upFrom (bits v 6 0) (bits v 14 8 + 1 - bits v 6 0), bits v 18 16, tp.toNat, i, true⟩] })).later
          .tagsetClearComplete { core := u.cur.core, n := i }))
    ∧ s.RunsScalar (.selftest h tp a) h (selftestForm h tp a s) (fun u =>
        let (i, u) := u.producing tp
        let (d, u) := u.popDelay
        u.modCore u.cur.core (fun k => { k with
          selftests := k.selftests ++ [(⟨v % 16, u.cue, d, tp.toNat, i, none⟩ : SelfTest)] }))
    ∧ s.RunsScalar (.alignc h tp a) h (aligncForm h tp a s) (fun u =>
        let (i, u) := u.producing tp
        let other := v % 4 != 0 && Config.otherGoing u.freeIx
        let u : State := { u with freeIx := u.freeIx + b2n (v % 4 != 0) }
        if u.launches.any (fun l => l.going && l.inScope u.pkgNum (v % 4)) || other then u.shDone u.cur.core tp.toNat i 9
        else u.later .aligncComplete { core := u.cur.core, n := tp.toNat, m := i, width := v % 4, flag := u.scopeUp (v % 4) }))
  ∧ (∀ (s : State) h a, s.cur.sh = true →
      let f : Form := { writes := [codeG a.toNat] }
      (∀ r rest, (s.die (dieOf s.cur.core)).fbuf = r :: rest → (s.die (dieOf s.cur.core)).fbheld = [] →
        s.RunsScalar (.fbpop h a) h f (fun u =>
          ((u.modDie (dieOf u.cur.core) (fun k => { k with fbuf := rest })).modCore u.cur.core (fun k => { k with
            fbrec := (List.range 8).map (fun w => (w, BitVec.ofNat 32 (elemAt r.num 32 w))) })).gwrite a.toNat
              (BitVec.ofNat 32 r.num) 1))
      ∧ ((s.die (dieOf s.cur.core)).fbuf = [] → s.RunsScalar (.fbpop h a) h f (fun u => u.gwrite a.toNat 0 1)))
  ∧ (∀ (s : State) h a, s.cur.sh = true →
      let v := (s.g a.toNat).toNat
      s.RunsScalar (.shsleep h a) h { reads := [codeG a.toNat], consumed := [codeG a.toNat] } (fun u =>
        let u := u.modCore u.cur.core (fun k => { k with
          shAwake := false, shLimit := if v = 0 then none else some (u.cue + v) })
        if v = 0 then u else u.at_ (u.cue + v) .shsleepLimit { core := u.cur.core }))
  ∧ (∀ (s : State) h tp xa a, s.cur.sh = true → s.scalarGoes h (tlbinvForm h tp xa a s) →
      let v := (s.g a.toNat).toNat
      let va := (s.x xa.toNat).toNat
      let hit := fun (e : TlbEntry) => (v % 4 = 0 ∧ e.va ≤ va ∧ va < e.va + e.size) ∨ (v % 4 = 1 ∧ e.root = va) ∨ v % 4 = 2
      let mine := fun c => c = s.cur.core ∨ (bitAt v 2 = true ∧ dieOf c = dieOf s.cur.core)
      ∃ u : State, exec (.tlbinv h tp xa a) s = .next u.retire ∧ s.SameBytes u
        ∧ (∀ c e, mine c → (e ∈ (u.core c).tlb ↔ e ∈ (s.core c).tlb ∧ ¬ hit e)
            ∧ (e ∈ (u.core c).stlb ↔ e ∈ (s.core c).stlb ∧ ¬ hit e))
        ∧ (∀ c, ¬ mine c → (u.core c).tlb = (s.core c).tlb ∧ (u.core c).stlb = (s.core c).stlb)
        ∧ ((∀ c, mine c → (s.core c).cmds = []) → (s.die (dieOf s.cur.core)).pool = [] →
            ∃ p n, u.regs.pend = s.regs.pend ++ [p] ∧ p.w = .tok tp.toNat n ∧ p.due = s.now + 1))
  ∧ (∀ (s : State) h tp a x, s.cur.sh = true →
      let v := (s.g a.toNat).toNat
      let c := s.cur.core
      s.ctx c (bits v 2 2) = some x → (v % 4 = 0 → (s.core c).stage = bits v 2 2
        ∧ ∃ y, s.ctx c (1 - bits v 2 2) = some y ∧ y.runnable = true) →
      s.RunsScalar (.ctxpark h tp a) h (ctxparkForm h tp a s) (fun u =>
        let (i, u) := u.producing tp
        let p : Park := ⟨bits v 2 2, v % 4, tp.toNat, i, 0, false, none⟩
        let k := u.core c
        let u := u.modCore c (fun k => { k with parks := k.parks ++ [p] })
        if k.parkNow p then
          u.at_ (match x.entry with | some (t, _) => t | none => u.cue) .parkPoint { core := c, bank := bits v 2 2 }
        else u))
  ∧ (∀ (s : State) h tp xa a, s.cur.sh = true →
      let b := (s.g a.toNat).toNat % 2
      let desc := (s.x xa.toNat).toNat
      let w := s.peek (desc + 5) 1
      (s.core s.cur.core).bank b = none → s.descError desc true = none →
      (w < 4 → b = 0) → (w = 0xFF → b = 0 → (s.core s.cur.core).framesWorlds = false) →
      (∀ d, d < 8 → s.peek (desc + 8 + d) 1 = 0 ∨ s.peek (desc + 8 + d) 1 = s.exposed.get 16 d) →
      s.RunsScalar (.ctxrun h tp xa a) h (ctxrunForm h tp xa a s) (fun u =>
        let (i, u) := u.producing tp
        let x : Ctx := {
          life := .starting, ctxdesc := BitVec.ofNat 64 desc, own := if w < 4 then w else 4, blocks := [(0, .kindling false)] }
        ((u.modCore u.cur.core (·.setBank b (some x))).modCore u.cur.core (fun k => { k with
          wlive := if w < 4 then k.wlive ||| BitVec.ofNat 4 (2 ^ w) else k.wlive
          starts := k.starts ++ [⟨b, tp.toNat, i, bitAt (s.g a.toNat).toNat 1, false⟩]
          xfers := k.xfers ++ [⟨b, 0, false, false, false⟩] })).startXfers u.cur.core))

/-! ### Copies and scenes -/

/-- R247, R252, R261: a command that no condition stands against is taken with the record at its address and the
source its form gives; R275, R276: QBIND and QREL write a stream register in the next cycle. -/
def Obligations.CopyCommands : Prop :=
  (∀ e ∈ copyTable, ∀ (s : State) h tp xa a,
    let r := s.record (s.g a.toNat).toNat
    s.RunsScalar (e.1 h tp xa a) h (copyForm e.2 tp xa a s)
      (fun u => u.accept e.2 (Shape.ofNat r) r (s.cmdSrc e.2 xa a) tp))
  ∧ (∀ (s : State) h tp a,
    let r := s.record (s.g a.toNat).toNat
    s.RunsScalar (.cfill h tp a) h (copyForm 0x0C tp 0 a s)
      (fun u => u.accept 0x0C (Shape.ofNat r) r (s.cmdSrc 0x0C 0 a) tp))
  ∧ (∀ (s : State) h q a, s.RunsScalar (.qbind h q a) h (qbindForm a s)
      (fun u => u.addPend 0 1 (.qbind q.toNat (some ⟨s.record (s.g a.toNat).toNat, 0⟩))))
  ∧ (∀ (s : State) h q, s.cur.sh = false → s.RunsScalar (.qrel h q) h {} (fun u => u.addPend 0 1 (.qbind q.toNat none)))

/-- R368: SCENE in each stream: the stream has issued its form; in a handler the scalar stream's ends the handler
(R379). R366: LFLUSH emits the lanterns of its classes and makes its token wait for them. R169: an idle word
times the next word of its stream. -/
def Obligations.SceneAndIdleWords : Prop :=
  (∀ (s : State) n last, s.cur.sh = false → s.me.hnd = false →
    s.RunsScalar (if last then .sceneLast n else .scene n) ⟨n, 0, false⟩ (sceneForm last s) (fun u =>
      u.modRegs (fun r => { r with str := { r.str with done := some last } })))
  ∧ (∀ (s t : State) n last, s.cur.sh = false → s.me.hnd = true →
      let i : Instr := if last then .sceneLast n else .scene n
      s.scalarGoes ⟨n, 0, false⟩ (sceneForm last s) →
      t = ((s.started ((sceneForm last s).guarded ⟨n, 0, false⟩)).modRegs
        (fun r => { r with str := { r.str with done := some last } })).retire → t.cur.verdict = .went →
      exec i s = .next ((t.modCtx t.cur.core (t.stageOf t.cur.core) (·.sceneInHandler t.cue last)).afterHandler
        t.cur.core (t.stageOf t.cur.core)))
  ∧ (∀ (s : State) n last, s.RunsEngine (if last then .vsceneLast n else .vscene n) 1 { sched := s.me.sceneBad 1 last }
      (fun u => u.modMe (fun x => { x with vs := { x.vs with done := some last } })))
  ∧ (∀ (s : State) n last, s.RunsEngine (if last then .msceneLast n else .mscene n) 2 { sched := s.me.sceneBad 2 last }
      (fun u => u.modMe (fun x => { x with ms := { x.ms with done := some last } })))
  ∧ (∀ (s : State) h tp a, s.cur.sh = false → s.RunsScalar (.lflush h tp a) h (lflushForm tp a) (fun u =>
      let mask := (u.g a.toNat).toNat % 2 ^ 15
      let b := u.stageOf u.cur.core
      let u := u.emitWhere (dieOf u.cur.core) (fun l => l.hasCore u.cur.core && bitAt mask l.cls)
      let (i, u) := u.producing tp
      let u := if mask = 0 then u.addPend 0 1 (.tok tp.toNat i)
        else
          let u := u.modMe (fun x => { x with regs := { x.regs with pend := x.regs.pend.map (flushPend mask) } })
          ({ u with tokWaits := u.tokWaits ++ [TokWait.mk u.cur.core b false tp.toNat i [] mask u.cue] }
            : State).pump u.cur.core
      u.deferred))
  ∧ (∀ (s : State) n cnt, s.RunsEngine (.vidle n cnt) 1 {} (fun u =>
      u.modMe (fun x => { x with vs := { x.vs with skip := cnt.toNat } })))

/-! ### The vector stream -/

/-- R283, R289 to R291, R299: the words that act element by element. Every active element of the destination takes the
result of its operands' elements; the others stay. -/
def Obligations.VectorElementwise : Prop :=
  (∀ e ∈ vectorFpTable, ∀ (s : State) w,
    let x := operandEl s.flush w.etype
    s.RunsVec (e.1 w) w e.2.1 w.etype (s.elSrcs w true e.2.2.1) {} false
      (s.elResults w (fun a b d => deliver s.flush w.etype w.rnd w.sat (e.2.2.2 w.rnd (x a) (x b) (x d)))))
  ∧ (∀ e ∈ vectorBitTable, ∀ (s : State) w,
    s.RunsVec (e.1 w) w 2 w.etype (s.elSrcs w e.2.1 false) {} false (s.elResults w (fun a b _ => e.2.2 w.etype a b)))
  ∧ (∀ e ∈ vectorFnTable, ∀ (s : State) w,
    s.RunsVec (e.1 w) w 8 w.etype (s.elSrcs w false false) {} false
      (s.elResults w (fun a _ _ => e.2 s.flush (operandEl s.flush .f32 a))))
  ∧ (∀ (s : State) w,
    let t := w.etype
    s.RunsVec (.vabs w) w 2 t (s.elSrcs w false false) {} false (s.elResults w (fun a _ _ =>
      if t.isF then a % 2 ^ (t.width - 1) else deliver s.flush t .rne w.sat (Fp.ofInt (intOf t a).natAbs)))
    ∧ s.RunsVec (.vneg w) w 2 t (s.elSrcs w false false) {} false (s.elResults w (fun a _ _ =>
      if t.isF then Nat.xor a (2 ^ (t.width - 1)) else deliver s.flush t .rne w.sat (Fp.ofInt (-(intOf t a)))))
    ∧ s.RunsVec (.vmulh w) w 4 t (s.elSrcs w true false) {} false (s.elResults w (fun a b _ =>
      wrap (intOf t a * intOf t b / ((2 ^ t.width : Nat) : Int)) t.width))
    ∧ s.RunsVec (.vclamp w) w 2 t (s.elSrcs w true true) {} false (s.elResults w (fun a b d =>
      let x := operandEl s.flush t
      deliver s.flush t .rne false
        (if (x d).isNan || (x a).isNan || (x b).isNan then .nan
          else if Fp.ltZ (x d) (x a) then x a else if Fp.ltZ (x b) (x d) then x b else x d))))

/-- R292 to R294: compares write the compared lanes of a mask, mask logic a whole mask, m0 takes none; VMCNT counts a
mask's bits; VSEL takes A or B by the mask in every valid element. -/
def Obligations.VectorMasks : Prop :=
  (∀ (s : State) w,
    let hit := (s.cmpEls w).filter (fun e =>
      vcond (w.fn.toNat % 8) (elemVal s.flush w.etype (s.cmpA w).num e) (elemVal s.flush w.etype (s.cmpB w).num e))
    s.RunsEngine (.vcmp w) 1 (vcmpForm w s) (fun u =>
      let u := u.popAll [s.cmpA w, s.cmpB w]
      if maskNo w.d = 0 then u
      else u.addDest 1 (viewLat 2 [s.cmpA w, s.cmpB w])
        (.m (maskNo w.d) (maskOf (lanesOf w.etype hit)) (maskOf (s.cmpLanes w)))))
  ∧ (∀ e ∈ maskTable, ∀ (s : State) w, s.RunsEngine (e.1 w) 1 (maskLogicForm w) (fun u =>
      if maskNo w.d = 0 then u
      else u.addDest 1 2 (.m (maskNo w.d) (e.2 (u.mask (maskNo w.a)) (u.mask (maskNo w.b))) (BitVec.allOnes 128))))
  ∧ (∀ (s : State) w, s.RunsVec (.vmcnt w) w 2 w.etype [] (maskUse w.a) false
      ((s.activeEls w w.etype).map (fun e => (e, popCount 128 (s.mask (maskNo w.a)).toNat))))
  ∧ (∀ (s : State) w,
      s.RunsVec (.vsel w) w 2 w.etype [(s.selSrcs w).1, (s.selSrcs w).2] {} false
        ((s.validEls w w.etype).map (fun e =>
          (e, elemAt (if selLane w (s.mask w.msk.toNat) (laneOf w.etype e) then (s.selSrcs w).1
            else (s.selSrcs w).2).num w.etype.width e))))

/-- R295, R296: moves, permutes, rotates, broadcasts, narrowing and widening. -/
def Obligations.VectorMoves : Prop :=
  (∀ e ∈ permuteTable, ∀ (s : State) w,
    s.RunsVec (e.1 w) w 2 w.etype (s.permSrcs w e.2.1) {} e.2.2.1 (s.permResults w (e.2.2.2 w)))
  ∧ (∀ e ∈ countTable, ∀ (s : State) w,
    s.RunsVec (e.1 w) w 2 w.etype (s.permSrcs w false) (countForm w.b) false
      (s.permResults w (fun a _ k => e.2 w (s.count w.b) a k)))
  ∧ (∀ (s : State) w,
    let t := w.etype
    let u := narrowTy t
    let n := elemsOf t
    s.RunsVec (.vpack w) w 2 u [(s.packSrcs w).1, (s.packSrcs w).2] {} false
      ((s.activeEls w u).map (fun e =>
        (e, wrap (clamp (intOf t (if e < n then elemAt (s.packSrcs w).1.num t.width e
          else elemAt (s.packSrcs w).2.num t.width (e - n))) (intLo u) (intHi u)) u.width)))
    ∧ s.RunsVec (.vunpack w) w 2 t [s.unpackSrc w] {} false
      ((s.activeEls w t).map (fun e =>
        (e, wrap (intOf u (elemAt (s.unpackSrc w).num u.width (w.fn.toNat % 2 * n + e))) t.width))))

/-- R297, R298, R300, R301: conversions between element types, and reductions into element 0. Of `M` indices, the lesser
of the two element counts, index `i` of a conversion uses position `i` on the side with `M` elements and position `k M + i`
on the other, for `k` the count of VCVTS modulo the ratio of the counts and 0 in VCVT; it is active by its position on the
side with `M` elements, the side that is no se type where both have `M`. A block of an se type is formed from its 32 values,
and written whole where one of its indices is active. The sign of a zero that VRSUM gives for a single element is the model's
choice (DESIGN CHOICE, log 77). -/
def Obligations.VectorConversionsAndReductions : Prop :=
  (∀ (s : State) w (scaled : Bool),
    let n := if scaled then s.count w.b else 0
    let i : Instr := if scaled then .vcvts w else .vcvt w
    let more := if scaled then countForm w.b else {}
    let td := w.etype
    let ts := ElemTy.ofCode w.fn.toNat
    let m := min (elemsOf ts) (elemsOf td)
    let k := n % (max (elemsOf ts) (elemsOf td) / m)
    let src := fun (i : Nat) => if m < elemsOf ts then k * m + i else i
    let dst := fun (i : Nat) => if m < elemsOf td then k * m + i else i
    let side := if elemsOf ts < elemsOf td then ts else if elemsOf td < elemsOf ts then td else if td.isS then ts else td
    let active := (List.range m).filter (fun i =>
      validEl w (s.me.nAt w.nv.toNat) side i && selLane w (s.mask w.msk.toNat) (laneOf side i))
    let value := fun (a : Src) (i : Nat) => elemVal s.flush ts a.num (src i)
    (td.isS = false →
      let a := s.srcA w ts (lanesOf ts (active.map src))
      s.RunsVec i w 2 td [a] more false (active.map (fun i => (dst i, convert s.flush td w.rnd w.sat (value a i)))))
    ∧ (td.isS = true →
      let blocks := (List.range (m / 32)).filter (fun j => active.any (fun i => i / 32 == j))
      let a := s.srcA w ts (lanesOf ts ((blocks.flatMap (fun j => upFrom (32 * j) 32)).map src))
      s.RunsVec i w 2 .n8 [a] more false (blocks.flatMap (fun j => (List.range 32).map (fun b =>
        (dst (32 * j) / 32 * 32 + b, seEncode td.width w.rnd ((upFrom (32 * j) 32).map (value a)) / 2 ^ (8 * b) % 256))))))
  ∧ (∀ e ∈ reduceTable, ∀ (s : State) w,
    let u := redTy e.2.1 w
    s.RunsVec (e.1 w) w 2 u [s.actA w] {} false
      [(0, deliver s.flush u (e.2.2.1 w).1 (e.2.2.1 w).2 (e.2.2.2 w u (s.actVals w)))])

/-- R302 to R307: loads, stores, gathers, scatters and local atomics of the vector stream. VSCAT's words reach the
scratchpad in the cycle of its data, each that of the highest lane that meets it (R305); the words of VSCATA and VATOM are
read in the issue cycle and written in cycle issue + 2, the lanes that meet one word acting in ascending order (R306, R307).
What lies in a window leaves as entries, in ascending lane order. -/
def Obligations.VectorMemory : Prop :=
  (∀ (s : State) w,
    s.RunsVec (.vld w) w 4 w.etype [s.actA w] {} true
      ((s.activeEls w w.etype).map (fun e => (e, elemAt (s.actA w).num w.etype.width e)))
    ∧ s.RunsEngine (.vgath w) 1 (vgathForm w s) (fun u => u.dstWrite w.d w.etype 4
        ((s.activeEls w w.etype).map (fun e =>
          (e, ofLe (u.spBytes 1 (s.gathAddr w e) 4), u.spMarkOf 1 (s.gathAddr w e)))))
    ∧ (∀ e, e < 128 → s.scatAddr w e = wrap (s.count w.b + 4 * sext (elemAt (s.scatIx w).num 32 e) 32) 32))
  ∧ (∀ (s : State) w,
    let a := s.scatA w
    let act := s.activeEls w w.etype
    let at_ := s.scatAddr w
    let here := act.filter (fun e => regionOf (at_ e) == .sp)
    let out := act.filter (fun e => regionOf (at_ e) == .win)
    let word := fun (e : Nat) => elemAt a.num 32 e
    let add := fun (x y : Nat) => if w.etype.isF then addF32 s.flush x y else (x + y) % 2 ^ 32
    (s.engineGoes 1 (vscatForm w s) → ∃ cells marks,
      let f := vscatForm w s
      let u := (s.started f).popAll [a]
      let u := if here = [] then u else u.addDest 1 (viewLat 2 [a]) (.sp 4 cells marks)
      exec (.vscat w) s = .next (s.passed (u.sendEls w (viewLat 2 [a]) (out.map (fun e =>
        ⟨at_ e, 0xF, BitVec.ofNat 32 (word e)⟩))) 1 f.occ)
      ∧ ∀ x v, (x, v) ∈ cells ↔ ∃ e ∈ here, (∀ l ∈ here, at_ l = at_ e → l ≤ e)
        ∧ ∃ i, i < 4 ∧ x = at_ e + i ∧ v = BitVec.ofNat 8 (word e / 2 ^ (8 * i)))
    ∧ (s.engineGoes 1 (vscataForm w s) → ∃ cells marks,
      let f := vscataForm w s
      let u0 := (s.started f).popAll [a]
      let u := if here = [] then u0 else u0.addPend 1 3 (.sp 4 cells marks)
      exec (.vscata w) s = .next (s.passed (u.sendEls w 3 (out.map (fun e =>
        ⟨at_ e, if w.etype.isF then 0x18 + w.fn.toNat % 2 else 0x10, BitVec.ofNat 32 (word e)⟩))) 1 f.occ)
      ∧ ∀ x v, (x, v) ∈ cells ↔ ∃ e ∈ here, ∃ i, i < 4 ∧ x = at_ e + i ∧ v = BitVec.ofNat 8
        (((here.filter (fun l => at_ l == at_ e)).map word).foldl add (ofLe (u0.spBytes 1 (at_ e) 4)) / 2 ^ (8 * i))))
  ∧ (∀ signed flush x y, atomOp 0 signed flush x y = (x + y) % 2 ^ 32 ∧ atomOp 1 signed flush x y = Nat.land x y
      ∧ atomOp 2 signed flush x y = Nat.lor x y ∧ atomOp 3 signed flush x y = Nat.xor x y
      ∧ atomOp 4 false flush x y = min x y ∧ atomOp 5 false flush x y = max x y
      ∧ sext (atomOp 4 true flush x y) 32 = min (sext x 32) (sext y 32)
      ∧ sext (atomOp 5 true flush x y) 32 = max (sext x 32) (sext y 32)
      ∧ atomOp 6 signed flush x y = addF32 flush x y)
  ∧ (∀ (s : State) w gb str off, w.d = .sp gb str off →
    s.RunsEngine (.vst w) 1 (vstForm w gb.toNat str.toNat off.toNat s) (fun u =>
      let a := s.actA w
      let lat := viewLat 2 [a]
      let here := s.hereEls w gb.toNat str.toNat off.toNat
      let addr := s.pieces gb.toNat str.toNat off.toNat
      let u := u.popAll [a]
      let u := if here.isEmpty then u else u.addDest 1 lat (spWriteOf w.etype addr here)
      if s.fullStore w gb.toNat str.toNat off.toNat then u.sendFull w lat addr a.num
      else u.sendEls w lat ((s.outLanes w gb.toNat str.toNat off.toNat).map (fun l =>
        ⟨s.laneAddr gb.toNat str.toNat off.toNat l, byteEnables w.etype (s.activeEls w w.etype) l,
          BitVec.ofNat 32 (elemAt a.num 32 l)⟩)))
    ∧ (let f := vatomForm w gb.toNat str.toNat off.toNat s
      let a := s.scatA w
      let act := s.activeEls w w.etype
      let at_ := s.laneAddr gb.toNat str.toNat off.toNat
      let here := act.filter (fun e => s.laneRegion gb.toNat str.toNat off.toNat e == .sp)
      let out := act.filter (fun e => s.laneRegion gb.toNat str.toNat off.toNat e == .win)
      let word := fun (e : Nat) => elemAt a.num 32 e
      let u0 := (s.started f).popAll [a]
      let op := w.fn.toNat % 8
      let code := if op ≤ 3 then 0x10 + op else if op ≤ 5 then (if w.etype.isSigned then 0x10 else 0x12) + op
        else 0x18 + w.fn.toNat / 8 % 2
      s.engineGoes 1 f → ∃ cells marks,
        let u := if here = [] then u0 else u0.addPend 1 3 (.sp 4 cells marks)
        exec (.vatom w) s = .next (s.passed (u.sendEls w 3 (out.map (fun e =>
          ⟨at_ e, code, BitVec.ofNat 32 (word e)⟩))) 1 f.occ)
        ∧ ∀ x v, (x, v) ∈ cells ↔ ∃ e ∈ here, ∃ i, i < 4 ∧ x = at_ e + i ∧ v = BitVec.ofNat 8
          (((here.filter (fun l => at_ l == at_ e)).map word).foldl (atomOp op w.etype.isSigned s.flush)
            (ofLe (u0.spBytes 1 (at_ e) 4)) / 2 ^ (8 * i))))

/-- R308 to R311: summation by parts, and the conversion, the clearing and the direct additions of running sums. -/
def Obligations.RunningSums : Prop :=
  ∀ (s : State) w,
    s.RunsEngine (.vsbp w) 1 (vsbpForm w s) (fun u => (u.popAll [s.sbpA w]).addSums (yNo w.d) 12
      ((s.sbpRecs w).map (fun r => (sbpLane w r,
        recValue s.flush (s.sbpRec w r) ((List.range 32).map (elemVal s.flush w.etype (s.sbpA w).num))))))
    ∧ s.RunsVec (.vycvt w) w 2 .f32 [] (s.ycvtForm w) false
      ((s.activeEls w .f32).map (fun l => (l, toFloat s.flush .f32 w.rnd false false
        (yFp (s.yLane (yNo w.a) l) (s.me.yPoint (yNo w.a))))))
    ∧ s.RunsEngine (.vyclr w) 1 (vyclrForm w) (fun u => u.addDest 1 2 (.yclr (yNo w.d) (s.activeEls w .f32)))
    ∧ s.RunsEngine (.vyadd w) 1 (vyaddForm w s) (fun u => (u.popAll [s.yaddA w]).addSums (yNo w.d) (viewLat 2 [s.yaddA w])
      ((s.activeEls w w.etype).map (fun e => (e, elemVal s.flush w.etype (s.yaddA w).num e))))

/-- R199, R283: a word whose destination is a v register makes one write in flight, which selects exactly the bits of
the elements written and holds their results; it changes no byte of memory and no g, x, p or b register. -/
def Obligations.VectorWriteFrame : Prop :=
  ∀ (s : State) w base t srcs moves els n, s.hasAgent = true → w.d = .v n → (els.map (·.1)).Nodup →
    (∀ e ∈ els, e.1 < elemsOf t) →
    let u := s.vecDone w base t srcs moves els
    s.SameBytes u ∧ u.regs.g = s.regs.g ∧ u.regs.x = s.regs.x ∧ u.regs.p = s.regs.p ∧ u.regs.b = s.regs.b
    ∧ u.regs.str = s.regs.str
    ∧ ∃ (p : Pend) (val sel : Vec) (m : List (Nat × Bool)), u.regs.pend = s.regs.pend ++ [p] ∧ p.strm = 1
      ∧ p.w = .v n.toNat t.width val sel m
      ∧ ∀ k, k < 4096 → (sel.getLsbD k = true ↔ k / t.width ∈ els.map (·.1))
        ∧ ∀ v, (k / t.width, v) ∈ els → val.getLsbD k = v.testBit (k % t.width)

/-! ### The matrix stream -/

/-- R321, R325 to R329: MDOT and MSBP update every element of the valid tile, in cycle issue + 11, from the four groups
of its row of A and its column of B; the write is due at issue + 12, the first cycle that sees it, in which the token of the
word completes (R320). The operands are those of the issue cycle,
where R320 spreads their reads over cycles issue to issue + 3 (DEDUCED, log 15). -/
def Obligations.MatrixSteps : Prop :=
  (∀ (s : State) w v, s.fmtSlot w = some v → denseSlot v = true →
    let tr := match bLatch w with | some k => s.me.ktr.getLsbD k | none => w.btr
    s.RunsEngine (.mdot w) 2 (s.stepForm w (slotA v) (slotB v) 0) (fun u =>
      let ga := u.aGroups w (slotA v)
      let gb := u.bGroups w (slotB v) tr
      u.stepUpdate w (fun i j => ((ga.getD i []).zip (gb.getD j [])).map (fun e => denseGroup u.flush e.1 e.2))))
  ∧ (∀ (s : State) w v, s.fmtSlot w = some v → recSlot v = true → s.latchTransposed w = false →
    s.RunsEngine (.msbp w) 2 (msbpForm w v s) (fun u =>
      let ga := u.aGroups w (slotA v)
      let rs := u.bRecords w (slotZ v)
      u.stepUpdate w (fun i j =>
        ((ga.getD i []).zip (rs.getD j [])).map (fun e => roundF32 u.flush (recValue u.flush e.2 e.1)))))
  ∧ (∀ (s : State) w gs, s.anyValid w = true → s.stepUpdate w gs
      = ((s.useFresh w).addPend 2 12 (.tileAcc w.tile.toNat (s.ovOf w) s.flush
          ((s.validTile w).map (fun e => (tkey w e.1 e.2, (gs e.1 e.2).map (BitVec.ofNat 32)))))).matTok w 12)
  ∧ (∀ (s : State) w gs, s.anyValid w = false → s.stepUpdate w gs = s.matTok w 12)

/-- R330 to R337: the latch, zero, retire, load and store words of tiles, the format table, tokens and padding. MLATCH,
MLDT and MFTLD take the scratchpad bytes of the issue cycle, where R320 spreads the reads over later cycles (DEDUCED, log
15). -/
def Obligations.MatrixTiles : Prop :=
  (∀ (s : State) w,
    s.RunsEngine (.mlatch w) 2 (mlatchForm w s) (fun u =>
      let b := (s.bAddr w).toNat
      let marks := (u.core u.cur.core).spMarks.filter (fun e => decide (b ≤ 4 * e.1) && decide (4 * e.1 < b + 16384))
      (u.addPend 2 4 (.latch (w.bsrc.toNat - 2) (u.spBytes 2 b 16384) w.btr
        ((List.range 4096).map (fun n => (n, false)) ++ marks.map (fun e => (e.1 - b / 4, e.2))))).matTok w 4)
    ∧ s.RunsEngine (.mzero w) 2 (mzeroForm w s) (fun u =>
      u.tileSets w ((u.validTile w).map (fun e => (tkey w e.1 e.2, 0))) [])
    ∧ s.RunsEngine (.mret w) 2 (matForm w 1) (fun u => u.matTok w 16)
    ∧ s.RunsEngine (.mretz w) 2 (matForm w 1) (fun u => (u.addPend 2 1 (.fresh w.tile.toNat)).matTok w 16)
    ∧ s.RunsEngine (.mldt w) 2 (mldtForm w s) (fun u => u.tileSets w
      ((u.validTile w).map (fun e => (tkey w e.1 e.2, BitVec.ofNat 32 (ofLe (u.spBytes 2 (u.cellAddr w 4 e.1 e.2) 4)))))
      ((u.validTile w).map (fun e => (tkey w e.1 e.2, u.spMarkOf 2 (u.cellAddr w 4 e.1 e.2)))))
    ∧ s.RunsEngine (.mftld w) 2 (mftldForm w s) (fun u =>
      (u.addPend 2 1 (.ftab (u.spBytes 2 (s.bAddr w).toNat 516))).matTok w 1)
    ∧ s.RunsEngine (.mtok w) 2 (matForm w 1) (fun u => u.matTok w 1))
  ∧ (∀ (s : State) w,
    let half := fun (t : ElemTy) (z : Bool) (v : Nat) => toFloat z t .rne false false (operandEl z .f32 v)
    s.RunsEngine (.mstt w) 2 (storeForm w 4 4 false s) (fun u =>
      (u.tileWrites 4 (s.storeRows w 4) ((s.validTile w).map (fun e => (s.cellAddr w 4 e.1 e.2,
        toLe 4 (u.view 2 (tkey w e.1 e.2)).toNat, u.regs.mark (codeTile (tkey w e.1 e.2)))))).matTok w 4)
    ∧ s.RunsEngine (.msttb w) 2 (storeForm w 2 2 true s) (fun u =>
      (u.tileWrites 2 (s.storeRows w 2) ((s.validTile w).map (fun e => (s.cellAddr w 2 e.1 e.2,
        toLe 2 (half .bf16 u.flush (u.view 2 (tkey w e.1 e.2)).toNat), false)))).matTok w 2)
    ∧ s.RunsEngine (.mstth w) 2 (storeForm w 2 2 true s) (fun u =>
      (u.tileWrites 2 (s.storeRows w 2) ((s.validTile w).map (fun e => (s.cellAddr w 2 e.1 e.2,
        toLe 2 (half .f16 u.flush (u.view 2 (tkey w e.1 e.2)).toNat), false)))).matTok w 2))
  ∧ (∀ (s : State) stamp, s.RunsEngine (.mnop stamp) 2 {} id)

/-! ### Events -/

/-- R52, R53, R71, R72, R371 to R374, R429: the events of launches and their barriers. The silence of a package counts from
the first arrival here or the first report (R373; DESIGN CHOICE, log 50). That a member's registers are at T0 what they were
after arming is the model's choice too (DESIGN CHOICE, log 75). -/
def Obligations.LaunchEvents : Prop :=
  (∀ (s : State) l, s.launchOf s.ev.n = some l → l.state = .armed → l.t0 ≤ s.cue →
    exec .launchStart s = .next (l.members.foldl (fun u m => u.startMember l m)
      (s.modLaunch l.id (fun l => { l with state := .running, reports := [], sent := [], sceneAt := none }))))
  ∧ (∀ (s : State) l m x, s.memberCtx l m = some x → (s.ctx m.core (1 - m.bank)).isNone = true →
    ∃ y, s.startMember l m = ((s.setCtx m.core m.bank y).modCore m.core (fun k => { k with stage := m.bank })).settle m.core
      ∧ y.life = .live ∧ y.clock = .run 0 ∧ y.rpCue = s.cue ∧ y.rpOff = 0
      ∧ y.regs.g = x.regs.g ∧ y.regs.x = x.regs.x ∧ y.regs.p = x.regs.p ∧ y.v = x.v)
  ∧ (∀ (s : State) l, s.launchOf s.ev.n = some l → l.sceneAt = some s.cue →
    exec .sceneStart s = .next (l.members.foldl (fun u m => u.sceneMember l m) (s.modLaunch l.id Launch.atScene)).barrierPump)
  ∧ (∀ (x : Ctx) t left, (x.nextScene t left).sceneno = x.sceneno + 1 ∧ (x.nextScene t left).clock = .run 0
      ∧ (x.nextScene t left).rpCue = t ∧ (x.nextScene t left).arrived = none
      ∧ (x.nextScene t left).vs.done = none ∧ (x.nextScene t left).regs.g = x.regs.g
      ∧ (x.nextScene t left).v = x.v ∧ (x.nextScene t left).tiles = x.tiles)
  ∧ (∀ (s : State) x, s.ctx s.ev.core s.ev.bank = some x → x.launch = none →
    exec .barrierArrival s = .next ((s.setCtx s.ev.core s.ev.bank
      { x with arrived := some (x.regs.str.done == some true) }).emitWhere (dieOf s.ev.core) (fun l => l.hasCore s.ev.core)))
  ∧ (∀ (s : State) x n, s.ctx s.ev.core s.ev.bank = some x → x.launch = some n →
    let last := x.regs.str.done == some true
    let u := (s.setCtx s.ev.core s.ev.bank { x with arrived := some last }).emitWhere (dieOf s.ev.core)
      (fun l => l.hasCore s.ev.core)
    ∀ l, u.launchOf n = some l →
    exec .barrierArrival s = .next (((u.pendNow l).modLaunch n (fun l => { l with members := l.members.map (fun m =>
        if m.core == s.ev.core && m.bank == s.ev.bank && m.pos == x.castpos.toNat then { m with arrived := some last }
        else m) })).barrierPump))
  ∧ (∀ (s : State) l, (l.rootPkg ≠ s.pkgNum ∨ l.pending = true → s.pendNow l = s)
    ∧ (l.rootPkg = s.pkgNum → l.pending = false → ∀ q, l.packages = [q] →
      s.pendNow l = (s.modLaunch l.id (fun l => { l with heard := l.heard.put q s.cue })).at_
        (s.cue + (s.die l.rootDie).fabtmo.toNat) .castRootTimeout { n := l.id, m := q }))
  ∧ (∀ (s : State) p l, s.ev.pkt = some p → s.tripped = false →
    (s.ev.flag = true ∨ (p.srcPkg = s.pkgNum ∧ p.dstPkg = s.pkgNum)) →
    (s.hear p.dstDie p.srcPkg).reportedTo p = some l → (s.hear p.dstDie p.srcPkg).launchOf l.id = some l → l.reports.contains (pairKey p.srcPkg p.srcDie) = false →
    let r := l.withReport s.pkgNum p
    let u := ((s.hear p.dstDie p.srcPkg).castFewer r (r.lost - l.lost)).modLaunch l.id (fun _ => r)
    r.deserted = false →
    (bitAt (ofLe ((p.payload.drop 4).take 4)) 0 = false → l.pending = true →
      (r.owed = [] → exec .barrierArrivalPacket s = .next (u.barrierComplete r))
      ∧ (r.owed ≠ [] → exec .barrierArrivalPacket s = .next u))
    ∧ (bitAt (ofLe ((p.payload.drop 4).take 4)) 0 = true →
      exec .barrierArrivalPacket s = .next (if r.owed = [] ∧ u.cue + 512 = r.t0 then u.sendGo r else u)))
  ∧ (∀ (s : State) p l, s.ev.pkt = some p → s.tripped = false →
    (s.ev.flag = true ∨ (p.srcPkg = s.pkgNum ∧ p.dstPkg = s.pkgNum)) →
    s.launches.find? (fun l => l.launchid.toNat == p.addr && l.state != .ended) = some l → l.state = .running →
    l.sceneAt = none → ofLe p.payload ≠ 0 →
    exec .barrierReleasePacket s = .next ((s.modLaunch l.id (fun l => { l with
      sceneAt := some (ofLe p.payload)
      lost := if l.rootPkg ≠ s.pkgNum then p.aux + l.untold s.pkgNum else l.lost })).at_ (ofLe p.payload) .sceneStart { n := l.id }))
  ∧ (∀ (s : State) l m, s.launches.findSome? (fun l =>
      (l.members.find? (fun m => m.core == s.ev.core && !m.left)).map (fun m => (l, m))) = some (l, m) →
    bitAt (s.core s.ev.core).castctl.toNat 0 = true → exec .leave s = .next (s.leaveCast l m))
  ∧ (∀ (s : State) l, s.launchOf s.ev.n = some l → l.pending = true → l.sceneAt = none →
    l.packages.contains s.ev.m = true → s.ev.m = s.pkgNum →
    l.heard.get 0 s.ev.m + (s.die l.rootDie).fabtmo.toNat ≤ s.cue →
    exec .castRootTimeout s = .next (l.members.foldl (fun u m => if m.left then u else match u.launchOf l.id with
      | some k => u.leaveCast k m
      | none => u) s))
  ∧ (∀ (s : State) l, s.launchOf s.ev.n = some l → l.pending = true → l.sceneAt = none →
    l.packages.contains s.ev.m = true → s.ev.m ≠ s.pkgNum →
    l.heard.get 0 s.ev.m + (s.die l.rootDie).fabtmo.toNat ≤ s.cue →
    let gone := l.members.length - l.told.get 0 s.ev.m
    let r := { l with
      packages := l.packages.filter (· != s.ev.m), lost := l.lost + gone, told := l.told.put s.ev.m l.members.length }
    let u := (s.castFewer r gone).modLaunch l.id (fun _ => r)
    exec .castRootTimeout s = .next (if r.deserted then u.launchEnd l.id else if r.owed = [] then u.barrierComplete r
      else u))

/-- R64, R76, R80 to R82, R433: loop levels and frames; R46, R94, R99, R200, R240, R283, R311, R321, R357: the writes in
flight of one kind that are due are made, and registers whose writes are events take their value. -/
def Obligations.LoopFrameAndWriteEvents : Prop :=
  (∀ (s : State) x, s.ctx s.ev.core (s.stageOf s.ev.core) = some x → x.innerActive s.ev.n = false →
    let v := x.levels.get {} s.ev.n
    ∃ t y, exec .loopIterationStart s = .next t ∧ t.ctx s.ev.core (s.stageOf s.ev.core) = some y
      ∧ (y.levels.get {} s.ev.n).active = v.active ∧ (y.levels.get {} s.ev.n).began = true
      ∧ (y.levels.get {} s.ev.n).start = (if v.began then v.start + v.period else v.first)
      ∧ (y.levels.get {} s.ev.n).idx = (if v.began then v.idx + 1 else 0)
      ∧ y.regs.g = x.regs.g ∧ y.regs.p = x.regs.p ∧ y.stack = x.stack ∧ s.SameBytes t)
  ∧ (∀ (s : State) x, s.ctx s.ev.core (s.stageOf s.ev.core) = some x →
    let v := x.levels.get {} s.ev.n
    ∃ t y, exec .loopLevelEnd s = .next t ∧ t.ctx s.ev.core (s.stageOf s.ev.core) = some y
      ∧ (y.levels.get {} s.ev.n).active = false ∧ (y.levels.get {} s.ev.n).idx = v.count
      ∧ y.stack = x.stack.filter (· != s.ev.n) ∧ y.regs.g = x.regs.g ∧ y.regs.p = x.regs.p ∧ s.SameBytes t)
  ∧ (∀ s : State, exec .restartIntervalExceeded s = .next (s.enterTrap s.ev.core (s.stageOf s.ev.core) 2 0 0 3))
  ∧ (∀ s : State,
    let c := s.ev.core
    let k := s.core c
    let own := (k.frameAt s.cue).1
    let old := (k.frameAt (s.cue - 1)).1
    let b := if old < 4 then 0 else if k.framesWorlds then 1 else k.stage
    (s.ev.n = 0 ∨ s.cue ≤ s.ev.n) → (k.frameAt s.cue).2.1 = s.cue → s.cue ≠ 0 → old ≠ own → k.gapEnd ≠ some (s.cue + 16384) →
    (∀ x, s.ctx c b = some x → x.entry = none) →
    let u := s.nextEdge c
    let u := (u.modCore c (fun k => { k with gapEnd := some (u.cue + 16384) })).settle c
    let u := (u.modCore c (fun k => { k with stage := if own < 4 then 0 else 1 })).settle c
    exec .frameEdge s = .next ((u.at_ (u.cue + 1) .worldSeal { core := c, bank := b }).at_ (u.cue + 16384) .frameGapEnd
      { core := c }))
  ∧ (∀ (s : State) x,
    let c := s.ev.core
    let own := ((s.core c).frameAt s.cue).1
    let u := (s.drain c s.ev.bank).emitWhere (dieOf c) (fun l => l.hasCtx c s.ev.bank)
    u.ctx c 0 = some x → x.own < 4 → x.own ≠ own → bitAt (u.core c).wlive.toNat x.own = true →
    let v := u.sealWorld c x.own x
    exec .worldSeal s = .next (match (v.core c).sealed.find? (fun (e : Nat × Ctx) => e.1 == own) with
      | some (_, y) => if bitAt (v.core c).wlive.toNat own then (v.restoreWorld c own y).settle c else v
      | none => v))
  ∧ (∀ s : State, (s.core s.ev.core).gapEnd = some s.cue → exec .frameGapEnd s
      = .next (((((s.modCore s.ev.core (fun k => { k with gapEnd := none })).releaseToks s.ev.core).settle s.ev.core).tryExchange
          s.ev.core).pump s.ev.core))
  ∧ (∀ s : State,
    let c := s.ev.core
    let b := s.ev.bank
    let z := s.ev.flag
    let made := fun (u : State) k => (u.modRegsOf c b z (fun r => { r with
      pend := r.pend.filter (fun p => !(leadKind k (u.dueList c b z)).contains p) })).applyList c b z (u.dueList c b z)
        (leadKind k (u.dueList c b z)) false
    exec .destinationWrite s = .next (made s 0)
    ∧ (z = true → exec .interlockedDelayedWrite s = .next (made s 1))
    ∧ (z = false → ∀ x p ps, s.ctx c b = some x → s.dueList c b false = p :: ps →
      let t := x.line s.cue
      exec .interlockedDelayedWrite s = .next (if x.bankFree (t - 1) p.w then
        ((s.modRegsOf c b false (fun r => { r with pend := r.pend.filter (fun q => q != p) })).modCtx c b
          (·.serveLate (t - 1) p.w)).applyList c b false (p :: ps) [p] false
      else s.modRegsOf c b false (fun r => { r with
        pend := r.pend.map (fun q => if q == p then { p with due := t + 1 } else q) })))
    ∧ exec .tileUpdate s = .next (made s 2) ∧ exec .runningSumAddition s = .next (made s 3)
    ∧ exec .lanternEntry s = .next ((made s 4).pump c))
  ∧ (∀ s : State,
    let t := (if s.ev.flag then s.cue else ((s.ctx s.ev.core s.ev.bank).getD {}).line s.cue) - 1
    exec .btgtWrite s = .next ((s.modRegsOf s.ev.core s.ev.bank s.ev.flag (fun r =>
      (r.setB (s.ev.n - 0x50) (s.ev.value.setWidth 32) t).setMark (codeB (s.ev.n - 0x50)) false)).modCore s.ev.core
        (·.logReg s.ev.bank s.ev.flag (codeB (s.ev.n - 0x50)))))
  ∧ (∀ (s : State) x, s.ctx s.ev.core s.ev.bank = some x → ∃ t y, exec .yctlWrite s = .next t
      ∧ t.ctx s.ev.core s.ev.bank = some y
      ∧ bits (y.yctl.get 0 (s.ev.n - 0x40)).toNat 5 0 = bits s.ev.value.toNat 5 0
      ∧ (∀ i, i = 8 ∨ i = 9 → bitAt (y.yctl.get 0 (s.ev.n - 0x40)).toNat i
          = (bitAt (x.yctl.get 0 (s.ev.n - 0x40)).toNat i && !bitAt s.ev.value.toNat i)) ∧ s.SameBytes t)
  ∧ (∀ s : State, s.ev.m ≠ 2 → s.ev.flag = true → exec .registerWrite s
      = .next (s.putCreg s.ev.core s.ev.bank (s.ev.width == 1) s.ev.n
          (s.cregFull s.ev.core s.ev.bank (s.ev.width == 1) s.ev.n s.ev.value (s.ev.m == 1))))
  ∧ (∀ s : State, s.ev.m ≠ 2 → s.ev.flag = false → exec .registerWrite s
      = .next (s.regPageWrite s.ev.req (s.ev.m == 1) s.ev.n s.ev.width s.ev.value.toNat))
  ∧ (∀ s : State, s.ev.m = 2 → s.bootCode = 0 → s.tripped = false → (s.ev.flag = true → exec .registerWrite s
        = .next { (s.barRead s.ev.die s.ev.n s.ev.width).2 with
            hostReads := (s.barRead s.ev.die s.ev.n s.ev.width).1 :: (s.barRead s.ev.die s.ev.n s.ev.width).2.hostReads })
      ∧ (s.ev.flag = false → exec .registerWrite s
        = .next (s.barWrite s.ev.die s.ev.n s.ev.width s.ev.value.toNat)))

/-- R85, R103 to R108, R146 to R149, R384 to R407, R441, R449: presence, waiting, parks, faults and self-tests. A transfer
through a CXL port that is down ends after `FABTMO`; a write-out whose block has accesses pending is taken up again in the
next cycle, behind the others (DESIGN CHOICE, logs 62, 69). -/
def Obligations.ServiceEvents : Prop :=
  (∀ (s : State) bs,
    let c := s.ev.core
    let b := s.ev.bank
    let n := s.ev.n
    let u : State := { s with agenda := s.agenda.filter (fun (e : Nat × Instr × EvArg) =>
        !(e.2.1 == Instr.blockPullEnd && e.2.2.core == c && e.2.2.bank == b && e.2.2.n == n)) }
    (s.core c).xfers.any (fun t => t.bank == b && t.block == n && !t.out && t.started) = true → n ≠ 0 → s.ev.flag = true →
    ∀ im, u.imageOf c b n = some im →
    (u.xferDown c b n (some im) = true → exec .blockPullEnd s = .next (u.at_ (u.cue + (u.die (dieOf c)).fabtmo.toNat)
      .blockPullEnd { s.ev with flag := false }))
    ∧ (u.xferDown c b n (some im) = false → im.img = true → 28 ≤ n → s.ev.granted = false →
      exec .blockPullEnd s = .next (u.xferAsk c n .blockPullEnd s.ev))
    ∧ (u.xferDown c b n (some im) = false → (im.img = false ∨ n < 28 ∨ s.ev.granted = true) →
      (u.underEntry im.addr (u.core c).xferRoute (fun s => (s.pullBytes c n im s.ev.bytes, s))).1 = some bs →
      u.presence c b n = .kindling false →
      exec .blockPullEnd s = .next (((if im.img then u.putBlock c b n bs else u.zeroBlock c b n).setPresence c b n
        .lit).xferDone c b n false)))
  ∧ (∀ s : State,
    let c := s.ev.core
    let b := s.ev.bank
    let n := s.ev.n
    let x := (s.ctx c b).getD {}
    (s.core c).xfers.any (fun t => t.bank == b && t.block == n && t.out && t.started) = true →
    (s.ev.m = 1 ∨ s.blockBusy c b n = true → exec .blockWriteOutEnd s = .next ((s.modCore c (fun k => { k with
      xfers := k.xfers.map (fun (t : Xfer) =>
        if t.bank == b && t.block == n && t.out then { t with started := false } else t) })).startXfers c))
    ∧ (s.ev.m ≠ 1 → s.blockBusy c b n = false → s.ev.flag = true → ∀ im, s.ctxImage x n = some im →
      (s.xferDown c b n (some im) = true → exec .blockWriteOutEnd s = .next (s.at_
        (s.cue + (s.die (dieOf c)).fabtmo.toNat) .blockWriteOutEnd { s.ev with flag := false }))
      ∧ (s.xferDown c b n (some im) = false → im.img = true → 28 ≤ n → s.ev.granted = false →
        exec .blockWriteOutEnd s = .next (s.xferAsk c n .blockWriteOutEnd s.ev))
      ∧ (s.xferDown c b n (some im) = false → im.img = true → (n < 28 ∨ s.ev.granted = true) →
        let held := s.blockBytes c b n
        ∀ u, s.underEntry im.addr (s.core c).xferRoute (fun s =>
          match s.writeImage c b n im held.1 held.2 with
          | some u => (true, u)
          | none => (false, s)) = (true, u) →
        let v := u.setPresence c b n .dark
        let v := if 28 ≤ n then v.modCore c (fun k => { k with spImg := k.spImg.put (n - 28) im }) else v
        exec .blockWriteOutEnd s = .next ((v.xferDone c b n true).parkPump c))))
  ∧ (∀ (s : State) w,
    let c := s.ev.core
    (s.core c).tagWaits.find? (fun w => w.clr && w.tokId == s.ev.n) = some w →
    (w.blocks = [] → exec .tagsetClearComplete s = .next
      ((s.modCore c (fun k => { k with tagWaits := k.tagWaits.filter (· != w) })).shDone c w.tok w.tokId 0))
    ∧ (∀ n rest, w.blocks = n :: rest → s.ev.granted = false →
      exec .tagsetClearComplete s = .next (s.portAsk c (65536 * n) portZero false .tagsetClearComplete s.ev))
    ∧ (∀ n rest, w.blocks = n :: rest → s.ev.granted = true → (s.core c).tagWaits = [w] →
      ∃ t, exec .tagsetClearComplete s = .next t
        ∧ (∀ a, spBlock a = n → (t.core c).sp.read a = 0)
        ∧ (∀ a, spBlock a ≠ n → (t.core c).sp.read a = (s.core c).sp.read a)
        ∧ (t.core c).tag n = w.tag ∧ (∀ m, m ≠ n → (t.core c).tag m = (s.core c).tag m)))
  ∧ (∀ s : State,
    let k := s.die s.ev.die
    let w := putHalf k.bouncetail s.ev.n s.ev.width s.ev.value.toNat
    let v := w.toNat
    (v % 32 = 0 → v < ringSize → (v + ringSize - k.bouncetail.toNat % ringSize) % ringSize ≤ k.bounceUsed →
      exec .bouncetailWrite s = .next (s.setDie s.ev.die { k with bouncetail := w }))
    ∧ (v % 32 ≠ 0 ∨ k.bounceUsed < (v + ringSize - k.bouncetail.toNat % ringSize) % ringSize →
      exec .bouncetailWrite s = .next s))
  ∧ (∀ (s : State) x w, s.ev.bank < 2 → s.ctx s.ev.core s.ev.bank = some x → x.waitv = some w → w.woken = false →
    exec .waitvWake s = .next (s.wakeCtx s.ev.core s.ev.bank)
    ∧ (s.stageOf s.ev.core = s.ev.bank → (s.core s.ev.core).exchange = none →
        let u : State := s.setCtx s.ev.core s.ev.bank { x with waitv := none }
        s.wakeCtx s.ev.core s.ev.bank = ((({ u with dies := u.dies.map (fun (e : Nat × Die) => (e.1, { e.2 with
          wakeTab := e.2.wakeTab.filter (fun t => !(t.1 == s.ev.core && t.2.1 == s.ev.bank)) })) } : State).settle
            s.ev.core).tryExchange s.ev.core)))
  ∧ (∀ (s : State) w, w.woken = false → w.entry = false → w.pollAt ≤ s.cue → w.read = none →
    let c := s.ev.core
    let b := s.ev.bank
    let n := min 65536 (2 * w.interval)
    let v : Wait := { w with interval := n, pollAt := s.cue + n, read := some s.nextId }
    let reads := fun (u : State) (a : Acc) =>
      let u := u.at_ (s.cue + n) .waitvPoll s.ev
      exec .waitvPoll s = .next (({ u with accs := u.accs ++ [a] } : State).pump c)
    (b < 2 → (s.ctx c b).bind (·.waitv) = some w → reads (s.fresh.2.modCtx c b (fun x => { x with waitv := some v }))
      ⟨s.nextId, c, b, false, 0, w.cls, w.va, w.pa, ((s.ctx c b).getD {}).ptroot.toNat, .watch w.expect, false, false⟩)
    ∧ (∀ word, b = shBank → (s.core c).shWatch = some (w, word) →
      reads (s.fresh.2.modCore c (fun k => { k with shWatch := some (v, word) }))
        ⟨s.nextId, c, s.stageOf c, true, 0, w.cls, w.va, w.pa, (s.core c).shroot.toNat, .watch w.expect, false, false⟩))
  ∧ (∀ (s : State) w, (s.ctx s.ev.core s.ev.bank).bind (·.waitv) = some w → w.woken = false → w.begun = s.ev.n →
    exec .waitBudgetSpent s = .next (s.ctxRec s.ev.core s.ev.bank false 0x4B 0 w.va (s.cue - w.begun)))
  ∧ (∀ s : State, (s.core s.ev.core).exchange = some s.cue → ∃ t, exec .bankExchange s = .next t
      ∧ ((s.core s.ev.core).sparing = [] → (s.core s.ev.core).parks = [] → ∃ u : State,
        t = (((u.releaseToks s.ev.core).settle s.ev.core).tryExchange s.ev.core) ∧ u.stageOf s.ev.core = 1 - s.stageOf s.ev.core
          ∧ (u.core s.ev.core).exchange = none))
  ∧ (∀ (s : State) p x, (s.core s.ev.core).parks = [p] → p.bank = s.ev.bank → p.phase = 0 →
    s.ctx s.ev.core s.ev.bank = some x → x.entry = none → s.parkDue s.ev.core p x = true →
    exec .parkPoint s = .next (s.parkAt s.ev.core p))
  ∧ (∀ (s : State) p x,
    let c := s.ev.core
    let b := s.ev.bank
    let r := ((s.keepRefusals c b).keepRecs c b).descTouch c b
    (s.core c).parks.find? (fun p => p.bank == b && p.phase == 2) = some p → r.ctx c b = some x → b < 2 →
    ∀ im, r.ctxImage x 0 = some im → im.img = true →
    (s.ev.flag = true → r.imageDown 0 im = true → exec .controlBlockWriteOut s = .next (r.at_
      (r.cue + (r.die (dieOf c)).fabtmo.toNat) .controlBlockWriteOut { s.ev with flag := false }))
    ∧ ∀ u, (s.ev.flag = false ∨ r.imageDown 0 im = false) → (r.fresh.2.writeImage c b 0 im (ctlImage x.script.level (x.lcue r.cue) r.fresh.1) []) = some u →
    ∃ t, exec .controlBlockWriteOut s = .next t ∧ ∃ v : State, (v.ctx c b).isNone = true ∧ t = (v.settle c).tryExchange c)
  ∧ (∀ (s : State) h,
    let c := s.ev.core
    let b := s.ev.value.toNat % 2
    (s.ctx c b).bind (·.held) = some h →
    exec .resume s = .next (((((s.unhold c b).unstick c b).pullAgain c b).tryStart c).settle c))
  ∧ (∀ s : State, exec .fbownerWrite s = .next (s.modDie s.ev.die (fun k => { k with fbowner := s.ev.value.toNat % 16 })))
  ∧ (∀ s : State, ((s.drainHeldRecs s.ev.die).die s.ev.die).fbheld = [] →
      exec .faultRecordEnter s = .next (s.drainHeldRecs s.ev.die))
  ∧ (∀ s : State, (s.core s.ev.core).shLimit = some s.cue → exec .shsleepLimit s = .next (s.wakeSh s.ev.core))
  ∧ (∀ s : State,
    let c := s.ev.core
    let sh := s.ev.flag && s.ev.n == 7
    let r : Nat → FaultRec := fun cause =>
      ⟨cause, whoByte c (if sh then 0 else s.ev.bank) false + 64, s.metBy c (if sh then 3 else s.ev.width % 8),
        s.ev.value.toNat, s.ev.n, s.cue⟩
    let tests := fun (u : State) cause => exec .errorSelfTest s = .next (u.popDelay.2.fresh.2.startTest c s.ev.n
      (s.cue + min u.popDelay.1 65536) 0 u.popDelay.2.fresh.1 (some (r cause)))
    (s.ev.m = 0 → tests (s.modCore c (fun k => { k with errcnt := k.errcnt + 1 })) 0x50)
    ∧ (s.ev.m = 1 → tests (s.poisonPair c s.ev.bank sh s.ev.n s.ev.value.toNat) 0x51))
  ∧ (∀ (s : State) t,
    let c := s.ev.core
    s.ev.flag = false → (s.core c).selftests.find? (fun t => t.tokId == s.ev.m && t.left == 0) = some t →
    ∃ (u : State) (cls : Nat), cls ≤ 2 ∧ (u.core c).stres = BitVec.ofNat 32 (t.unit % 16 * 16 + cls)
      ∧ (u.core c).selftests = (s.core c).selftests.filter (fun e => e.tokId != s.ev.m)
      ∧ exec .selfTestEnd s = .next (match t.record with
        | some r => u.pushRec (dieOf c) (some c) { r with who := r.who + b2n (cls == 2) * 128 }
        | none => u.shDone c t.tok t.tokId 0))

/-- R113, R136, R246, R254 to R257: a command of a copy or pool engine, which has no more than 1,024 requests outstanding
with the others of its core; that it reads its lines one after the other and then writes them is the model's choice (DESIGN
CHOICE, log 16). R220, R223: an access of the memory path. -/
def Obligations.CopyEvents : Prop :=
  let free := fun (s : State) (e : Engine) (k : Cmd) =>
    (∀ c, e = .copy c → s.xferServed c = false ∧ s.outstandingOf c < 1024) ∧ s.cmdAhead e k.id = false
  (∀ (s : State) k t u,
    let e := s.ev.engine
    let ps := if k.phys then [] else dstPages k.op k.shp
    let v := s.walkMarks e k ps
    s.cmdOf e s.ev.n = some k → k.phase = .walk → k.stuck = false → v.walkRefusal e k ps = none →
    (v.walkZeros e k ps).length ≤ (v.die (dieOf k.core)).frames → v.walkPages e k ps [] = (t, u) →
    exec .copyDestinationWalk s = .next ((u.modCmd e k.id (fun k => { k with pages := t, phase := .waiting })).pump k.core))
  ∧ (∀ (s : State) k, s.cmdOf s.ev.engine s.ev.n = some k → k.phase = .reading →
    (k.depFailed = false → exec .copyTransferStart s = .next (s.cmdRead s.ev.engine k.id))
    ∧ (k.depFailed = true → exec .copyTransferStart s = .next ((s.modCmd s.ev.engine k.id (fun k => { k with
        causes := [6], phase := .finishing })).at_ s.cue .copyCommandComplete (cmdEv s.ev.engine k))))
  ∧ (∀ (s : State) k line rest,
    let e := s.ev.engine
    s.cmdOf e s.ev.n = some k → k.stuck = false → k.phase = .reading → k.toRead = line :: rest →
    (s.ev.granted = true → exec .copyRequest s = .next (s.cmdFetch e k line))
    ∧ (s.ev.granted = false → free s e k →
      (keySp line = none → exec .copyRequest s = .next (s.cmdFetch e k line))
      ∧ (∀ a, keySp line = some a → exec .copyRequest s = .next (s.cmdPort e k a))))
  ∧ (∀ (s : State) k u,
    let e := s.ev.engine
    let l := frontChunk k.toWrite
    let sp := keySp (l.headD (0, 0, false)).1
    let r := s.cmdReaches e k l
    s.cmdOf e s.ev.n = some k → k.stuck = false → k.phase = .writing → r.cmdWrite e ((r.cmdOf e k.id).getD k) l = some u →
    let rest := k.toWrite.drop l.length
    let v := u.modCmd e k.id (fun k => { k with toWrite := rest, phase := if rest.isEmpty then .finishing else .writing })
    (s.ev.granted = true ∨ (s.ev.granted = false ∧ free s e k ∧ sp = none) →
      exec .copyRequest s = .next (if rest.isEmpty then v.cmdFinish e k.id else v.later .copyRequest (cmdEv e k)))
    ∧ (s.ev.granted = false → free s e k → ∀ a, sp = some a → exec .copyRequest s = .next (s.cmdPort e k a)))
  ∧ (∀ (s : State) k, s.cmdOf s.ev.engine s.ev.n = some k → k.phase = .finishing → k.flying = 0 →
    exec .copyCommandComplete s = .next ((((s.delCmd s.ev.engine k.id).tokDone k.core k.bank k.sh k.tok k.tokId
      (lowCause k.causes)).parkPump k.core).pump k.core).barrierPump)
  ∧ (∀ (s : State) a, s.accs.find? (fun a => a.id == s.ev.n) = some a →
    (a.bounce = false → exec .globalAccessComplete s = .next (s.accPerform a))
    ∧ (a.bounce = true → exec .globalAccessComplete s = .next (s.accBounce a)))

/-- R343 to R346, R353 to R365: packets where they arrive, in the `SEQ` order of their pair, and at their source. That a
die's landing queue has room is a free value (log 48). A module that holds in reset takes no packet (R448). -/
def Obligations.PacketEvents : Prop :=
  let posts := fun (i : Instr) (ok : Packet → State → Prop) (act : Packet → State → State) =>
    ∀ (s : State) p, s.ev.pkt = some p → s.tripped = false →
      (s.ev.flag = true ∨ (p.srcPkg = s.pkgNum ∧ p.dstPkg = s.pkgNum)) → s.ev.granted = false →
      let u := s.hear p.dstDie p.srcPkg
      let v : State := { u with freeIx := u.freeIx + b2n (!(u.die p.dstDie).landing.isEmpty) }
      (u.turnOf p = .now → ok p v → exec i s = .next (
        if u.noRoom p.dstDie then ({ u with freeIx := u.freeIx + 1 } : State).busy p else act p v))
      ∧ (u.turnOf p = .done → exec i s = .next (u.sendPacket (ackOf p [])))
      ∧ (u.turnOf p = .ahead → exec i s = .next (u.busy p))
  let lands := fun (p : Packet) (u : State) =>
    (u.modDie p.dstDie (fun k => { k with landing := k.landing ++ [(pairKey p.srcPkg p.srcDie, p.seq)] })).land p []
      (landElems p)
  let arrives := fun (s : State) (p : Packet) => s.ev.pkt = some p ∧ s.tripped = false ∧
    (s.ev.flag = true ∨ (p.srcPkg = s.pkgNum ∧ p.dstPkg = s.pkgNum))
  posts .globalWritePacket (fun p u => (p.route = 0 ∨ bitAt p.addr 51 = false) ∧ u.portDown (globalBytes p).1 = false)
    (fun p u => ((u.writeWords p.dstDie (requesterOf p) (u.trusts (requesterOf p)) (globalBytes p).1 (globalBytes p).2).turnPast
      p).answerAfter u
      p.dstDie (ackOf p []))
  ∧ posts .lanternPacket (fun _ _ => True) lands
  ∧ posts .fullStorePacket (fun _ _ => True) lands
  ∧ posts .wakePacket (fun _ _ => True) (fun p u => (match u.place p.addr with
      | .dieShared d off => if 0x8000 ≤ off && off < 0x8200 then
          u.at_ u.cue .wakeRegister { die := d, n := (off - 0x8000) / 8, width := 8, value := BitVec.ofNat 64 (ofLe p.payload) }
        else u
      | _ => u).performed p [])
  ∧ (∀ (s : State) p c eop a v,
    let old : Word := BitVec.ofNat 32 (ofLe ((s.core c).sp.readN a 4))
    let rest := (landElems p).drop (s.ev.causes.length + 1)
    arrives s p → s.ev.granted = true → (landElems p)[s.ev.causes.length]? = some (some (c, eop, a, v)) →
    let runs := fun (t : State) => exec .lanternPacket s = .next t ∧ exec .fullStorePacket s = .next t
    let put := fun (w : Word) =>
      runs ((s.portWrite c (cellsOf a (toLe 4 w.toNat)) [(a / 4, false)]).land p (s.ev.causes ++ [0]) rest)
    (s.ev.n = 1 → put (s.ev.value.setWidth 32))
    ∧ (s.ev.n ≠ 1 → s.entryRefusal p.owner (c, eop, a, v) = 0 →
      (eop < 0x10 → put (mergeBytes old v eop))
      ∧ (0x10 ≤ eop → (s.core c).spMarks.get false (a / 4) = true → runs (s.land p (s.ev.causes ++ [0]) rest))
      ∧ (0x10 ≤ eop → (s.core c).spMarks.get false (a / 4) = false → runs (s.portAsk c a 0 true (packetEvent p)
          { pkt := some p, causes := s.ev.causes, flag := true, n := 1, value := (eopResult eop old v).setWidth 64 })))
    ∧ (s.ev.n ≠ 1 → s.entryRefusal p.owner (c, eop, a, v) ≠ 0 →
      runs (s.land p (s.ev.causes ++ [s.entryRefusal p.owner (c, eop, a, v)]) rest)))
  ∧ (∀ (s : State) p, arrives s p → exec .unknownPacketDiscard s
      = .next ((s.hear p.dstDie p.srcPkg).dieRec p.dstDie 0x56 (reqWord s.pkgNum p.dstDie 0 4) p.addr p.type))
  ∧ (∀ (s : State) p,
    let h := s.hear p.dstDie p.srcPkg
    let u : State := { h with freeIx := h.freeIx + b2n (!(h.die p.dstDie).landing.isEmpty) }
    let r := u.agentAtomic p.dstDie (requesterOf p) p.addr p.aux
      (BitVec.ofNat 32 (ofLe (p.payload.take 4))) (BitVec.ofNat 32 (ofLe ((p.payload.drop 4).take 4)))
    arrives s p → (p.route = 0 ∨ bitAt p.addr 51 = false) →
    let full : State := ({ h with freeIx := h.freeIx + 1 } : State).busy p
    u.portDown p.addr = false →
    (u.place p.addr = .host → exec .readRequestPacket s = .next (if h.noRoom p.dstDie then full else
      u.answerAfter u p.dstDie { answer p 5 with
        addr := p.addr
        marks := packElems 1 ((wordsOf p.addr p.aux).map (fun w => b2n (u.pmark (4 * w) 4)))
        payload := u.pread p.addr p.aux ++ List.replicate ((8 - p.aux % 8) % 8) 0 }))
    ∧ exec .atomicRequestPacket s = .next (if h.noRoom p.dstDie then full else r.2.answerAfter u p.dstDie { answer p 7 with
        addr := p.addr, marks := b2n r.1.2, payload := toLe 8 r.1.1 }))
  ∧ (∀ (s : State) p t u, arrives s p →
    let v := s.hear p.dstDie p.srcPkg
    (v.die p.dstDie).tagUse.find? (fun e => e.1 == p.tag) = some (t, u) →
    ((v.die p.dstDie).tagAge.get 0 t = p.age →
      exec .readReplyPacket s = .next ((v.freeTag p.dstDie t).reply u (p.addr % 64) p.payload p.marks)
      ∧ exec .atomicReplyPacket s = .next ((v.freeTag p.dstDie t).reply u (p.addr % 64) p.payload p.marks))
    ∧ ((v.die p.dstDie).tagAge.get 0 t ≠ p.age →
      let w := v.setDie p.dstDie { v.die p.dstDie with latereply := (v.die p.dstDie).latereply + 1 }
      exec .readReplyPacket s = .next w ∧ exec .atomicReplyPacket s = .next w))
  ∧ (∀ (s : State) p e, arrives s p →
    let u := s.hear p.dstDie p.srcPkg
    (u.die p.dstDie).posted.find? (fun e => e.pkt.dstPkg == p.srcPkg && e.pkt.dstDie == p.srcDie && e.pkt.seq == p.ack) = some e →
    (e.pkt.type ≠ 11 ∨ (∀ x ∈ p.causes, x = 0) →
      exec .acknowledgementPacket s = .next (u.acknowledged p.dstDie e p.causes))
    ∧ (e.pkt.type = 11 → (∃ x ∈ p.causes, x ≠ 0) →
      exec .acknowledgementPacket s = .next (u.wakeLost p.dstDie e)))
  ∧ (∀ (s : State) p, s.ev.pkt = some p → s.tripped = true → s.ev.granted = false →
    ∀ i ∈ ([.globalWritePacket, .lanternPacket, .fullStorePacket, .wakePacket, .unknownPacketDiscard, .readRequestPacket,
      .atomicRequestPacket, .readReplyPacket, .atomicReplyPacket, .acknowledgementPacket, .barrierArrivalPacket,
      .barrierReleasePacket] : List Instr), exec i s = .next s)
  ∧ (∀ (s : State) p u rest, (s.die s.ev.die).tagWait = (p, u) :: rest → (s.die s.ev.die).freeTag.isSome = true →
    let v := (s.modDie s.ev.die (fun k => { k with tagWait := rest })).takeTag s.ev.die p u
    exec .tagGrant s = .next (if rest.isEmpty then v else v.at_ v.cue .tagGrant { die := s.ev.die }))
  ∧ (∀ (s : State) t u, (s.die s.ev.die).tagUse.find? (fun e => e.1 == s.ev.n) = some (t, u) →
    (s.die s.ev.die).tagAge.get 0 s.ev.n = s.ev.m →
    (s.ev.flag = true ∨ (s.die s.ev.die).tagDue.get 0 s.ev.n ≤ s.cue) →
    let v := (s.modDie s.ev.die (fun k => { k with tagAge := k.tagAge.put s.ev.n ((s.ev.m + 1) % 8) })).unstall (fun p =>
      (p.type == 4 || p.type == 6) && p.srcPkg == s.pkgNum && p.srcDie == s.ev.die && p.tag == s.ev.n && p.age == s.ev.m)
    exec .requestTimeout s = .next ((v.poisonLine.2.freeTag s.ev.die s.ev.n).reply u 0 v.poisonLine.1 (2 ^ 16 - 1)))
  ∧ (∀ (s : State) e, (s.die s.ev.die).posted.find? (fun e => e.id == s.ev.n) = some e →
    let ended := fun (u : State) => u.unstall (fun p => isPosted p && p.srcPkg == u.pkgNum && p.srcDie == s.ev.die
      && p.dstPkg == e.pkt.dstPkg && p.dstDie == e.pkt.dstDie && p.seq == e.pkt.seq)
    exec .postedPacketTimeout s = .next ((ended s).acknowledged s.ev.die e (wholeRefusal e.pkt))
    ∧ exec .wakeAckTimeout s = .next ((ended (s.dieRec s.ev.die 0x56 (reqWord s.pkgNum s.ev.die 0 4) e.pkt.addr
        0x0B)).acknowledged s.ev.die e []))
  ∧ (∀ (s : State) p, s.ev.pkt = some p →
    let asks := isPosted p = true ∨ p.type = 4 ∨ p.type = 6
    (s.ev.n = 0 → asks → p.busy ≠ 0 → p.srcPkg = s.pkgNum → exec .packetResend s = .next (s.returned p))
    ∧ ((s.ev.n ≠ 0 ∨ ¬ asks ∨ p.busy = 0 ∨ p.srcPkg ≠ s.pkgNum) → p.type ≠ 2 →
      (s.wanted p = true → exec .packetResend s = .next (s.sendPacket p))
      ∧ (s.wanted p = false → exec .packetResend s = .next s)))
  ∧ (∀ s : State,
    let u := s.enterDue s.ev.die
    ((u.die s.ev.die).lantern s.ev.n).state = 1 → ((u.die s.ev.die).lantern s.ev.n).deadline ≤ s.cue →
    exec .lanternBurnDeadline s = .next (u.emit s.ev.die s.ev.n).barrierPump)

/-- R409 to R431, R433, R447 to R450: queues, LAUNCH packets, arming and the measurement of a world, messages, world keys.
That a masked vector's message waits as its pending bit, and that a function-level reset empties the MSI-X table, are
PRESUMED (log 65); what cast cores of other packages say of a launch is a free value (log 50). -/
def Obligations.QueueEvents : Prop :=
  (∀ s : State, ∀ wake,
    let d := s.ev.die
    let u := s.queue d s.ev.n
    let n := s.ev.value.toNat % 2 ^ 32
    let i : Instr := if wake then .wakeRegister else .kick
    (wake = false → s.bootCode = 0 ∧ s.tripped = false) → s.ev.width = 8 → s.ev.value.toNat < 2 ^ 32 → u.en = true → u.kmeth = wake →
    (idxDiff n u.rd.toNat ≤ u.size → idxDiff n u.wr.toNat ≤ u.size →
      (u.state = 1 → n ≠ u.rd.toNat →
        let v := s.setQueue d s.ev.n { u with wr := BitVec.ofNat 32 n, state := 2 }
        ((s.die d).curQ ≠ none → exec i s = .next (v.wakeCp d))
        ∧ ((s.die d).curQ = none → exec i s = .next ((v.chooseQueue d).wakeCp d)))
      ∧ (u.state = 1 → n = u.rd.toNat → exec i s = .next (s.setQueue d s.ev.n { u with wr := BitVec.ofNat 32 n }))
      ∧ (u.state ≠ 1 → exec i s = .next (s.setQueue d s.ev.n { u with wr := BitVec.ofNat 32 n })))
    ∧ (u.size < idxDiff n u.rd.toNat → u.state ≠ 3 → exec i s = .next (s.queueError d s.ev.n 3)))
  ∧ (∀ (s : State) d q cause, (s.queue d q).en = true →
    let v := (s.setQueue d q { s.queue d q with state := 3, ecause := cause }).at_ s.cue .msixMessage
      { die := d, n := (s.queue d q).vec }
    s.queueError d q cause = v.boundaryOf d)
  ∧ (∀ (s : State) d q, (s.die d).curQ = none → q < 64 → (s.queue d q).state = 2 →
    (∀ p, p < 64 → p ≠ q → (s.queue d p).state ≠ 2) →
    ((s.chooseQueue d).die d).curQ = some q ∧ ((s.chooseQueue d).die d).slice = (s.queue d q).slice)
  ∧ (∀ s : State,
    let u := s.queue s.ev.die s.ev.n
    let r := s.ev.value.toNat % 2 ^ 32
    s.bootCode = 0 → s.tripped = false → (regWidthOk 8 s.ev.width = true → u.state = 3 → idxDiff u.wr.toNat r ≤ u.size → exec .qrepair s
      = .next ((s.setQueue s.ev.die s.ev.n { u with rd := BitVec.ofNat 32 r, ecause := 0, state := 1 }).wakeCp s.ev.die))
    ∧ (regWidthOk 8 s.ev.width = false → exec .qrepair s = .next (s.pageBad s.ev.die s.ev.n 8))
    ∧ (regWidthOk 0 s.ev.width = false → exec .kick s = .next (s.pageBad s.ev.die s.ev.n 0)))
  ∧ (∀ s : State, s.bootCode ≠ 0 ∨ s.tripped = true → exec .kick s = .next s ∧ exec .qrepair s = .next s
      ∧ (s.ev.m = 2 → exec .registerWrite s = .next s))
  ∧ (∀ s : State,
    let u := s.queue s.ev.die s.ev.n
    let v := s.ev.value.toNat % 2 ^ 32
    let t := s.setQueue s.ev.die s.ev.n { u with ctl := BitVec.ofNat 32 v, state := 0, ecause := 0 }
    (u.en = true ∧ v + 1 = u.ctl.toNat) ∨ (qctlBad v = false ∧ u.state ≠ 2 ∧ bitAt v 0 = false) →
    ((s.die s.ev.die).curQ = some s.ev.n ∧ (s.die s.ev.die).inPacket = false →
      exec .qctlWrite s = .next (t.chooseQueue s.ev.die))
    ∧ (¬ ((s.die s.ev.die).curQ = some s.ev.n ∧ (s.die s.ev.die).inPacket = false) → exec .qctlWrite s = .next t))
  ∧ (∀ s : State,
    let u := s.queue s.ev.die s.ev.n
    let v := s.ev.value.toNat % 2 ^ 32
    qctlBad v = false → u.state ≠ 2 → bitAt v 0 = true →
    (u.en = false → exec .qctlWrite s = .next (s.setQueue s.ev.die s.ev.n
      { u with ctl := BitVec.ofNat 32 v, rd := 0, wr := 0, state := 1, ecause := 0 }))
    ∧ (u.en = true → v + 1 ≠ u.ctl.toNat → exec .qctlWrite s
      = .next (s.setQueue s.ev.die s.ev.n { u with ctl := BitVec.ofNat 32 v })))
  ∧ (∀ (s : State) q, (s.die s.ev.die).curQ = some q →
    (∃ t, exec .qcurRead s = .next t ∧ (t.die s.ev.die).inPacket = true ∧ (t.die s.ev.die).curQ = some q)
    ∧ exec .qadvError s = .next (s.queueError s.ev.die q s.ev.n)
    ∧ exec .qadvYield s = .next (s.boundaryOf s.ev.die)
    ∧ (s.sliceLeft s.ev.die = 0 → exec .sliceExpiry s
        = .next (s.modDie s.ev.die (fun k => { k with slice := 0, sliceAt := s.cue })))
    ∧ (let u := s.queue s.ev.die q
       let v := s.setQueue s.ev.die q { u with rd := u.rd + 1, state := if u.state = 2 ∧ u.rd + 1 = u.wr then 1 else u.state }
       exec .qadvAdvance s = .next ((if bitAt (s.preadNum (u.base.toNat + 64 * (u.rd.toNat % u.size) + 1) 1) 0 then
         v.at_ v.cue .msixMessage { core := s.ev.core, die := s.ev.die, n := u.vec, m := v.nextId } else v).boundaryOf s.ev.die)))
  ∧ (∀ s : State, (∀ a ∈ s.accs, a.sh = false ∨ a.core ≠ s.ev.core ∨ s.ev.m ≤ a.id) →
    (∀ k ∈ s.cmdsOf s.ev.core, k.sh = false ∨ s.ev.m ≤ k.id) →
    (s.msixMasked s.ev.n = false → exec .msixMessage s = .next { s with msix := s.ev.n :: s.msix })
    ∧ (s.msixMasked s.ev.n = true → exec .msixMessage s
      = .next { s with msixPend := s.ev.n :: s.msixPend.filter (· != s.ev.n) }))
  ∧ (∀ s : State, ∃ t, exec .functionLevelReset s = .next t ∧ (∀ d q, (t.queue d q).state = 0 ∧ (t.queue d q).en = false)
      ∧ (∀ d, (t.die d).curQ = none) ∧ t.cores = s.cores ∧ t.phys = s.phys ∧ t.msixTab = [] ∧ t.msixPend = [])
  ∧ (∀ s : State, s.ev.flag = false → s.overPower = true → ∃ t, exec .qlaunchWrite s = .next t
      ∧ (t.die s.ev.die).qlstat = 4 ∧ (t.die s.ev.die).qlaunch = s.ev.value ∧ t.launches = s.launches)
  ∧ (∀ (s : State) ld own v q,
    let d := s.ev.die
    let s1 := (s.modDie d (fun k => { k with qlaunch := s.ev.value })).fresh
    let u := s1.2
    let packet := toLe 64 (u.peek s.ev.value.toNat 64)
    let p := LPacket.ofBytes packet
    let l := newLaunch s1.1 d (some q) (u.queue d q) p packet u.pkgNum
    s.ev.flag = false → s.ev.granted = false → s.overPower = false → (u.die d).curQ = some q →
    (u.launchDown d s.ev.value.toNat l.root = true → exec .qlaunchWrite s = .next (u.at_ (u.cue + (u.die d).fabtmo.toNat)
      .qlaunchWrite { s.ev with granted := true, m := q + 1 }))
    ∧ (u.launchDown d s.ev.value.toNat l.root = false → u.readable s.ev.value.toNat 64 = true →
    u.loadLaunch d p l.root = ((some ld, own), v) →
    ∀ x, v.doneOk d p l.root own = (true, x) → ∀ o w, x.otherCast ld = (o, w) → w.refusalCause d p ld o = 0 →
    let able := (w.castMembers p ld).all (fun m => (w.core m.core).eligible ld.head.world)
    (o.getLsbD 3 = true ∨ able = false → exec .qlaunchWrite s = .next (w.modDie d (fun k => { k with qlstat := 4 })))
    ∧ (o.getLsbD 3 = false → able = true →
    let root := ld.pkgs.headD w.pkgNum
    let a : Launch := { l with
      world := ld.head.world, pext := ld.head.pext, packages := ld.pkgs, rootPkg := root, rootDie := p.dies.headD d
      members := if root = w.pkgNum then w.castMembers p ld else [] }
    let x : State := { w with launches := w.launches ++ [a] }
    (root = w.pkgNum → exec .qlaunchWrite s = .next (x.armRound a p ld))
    ∧ (root ≠ w.pkgNum → exec .qlaunchWrite s = .next (x.modDie d (fun k => { k with qlstat := 1 }))))))
  ∧ (∀ (s : State) l, l.world < 4 →
    (l.state = .arming → l.members ≠ [] → (s.becomeArmed l).wmeas.get [] l.world
      = sm3 (s.wmeas.get (List.replicate 32 0) l.world ++ l.image))
    ∧ (l.state ≠ .arming ∨ l.members = [] → (s.becomeArmed l).wmeas = s.wmeas)
    ∧ (∀ w, w ≠ l.world → (s.becomeArmed l).wmeas.get [] w = s.wmeas.get [] w))
  ∧ (∀ (s : State) l, s.ev.flag = false → s.launchOf s.ev.n = some l → l.state = .arming → l.round = s.ev.m →
    (l.owed = [] → exec .armingGoDeadline s = .next (s.sendGo l))
    ∧ (l.owed ≠ [] → exec .armingGoDeadline s = .next s)
    ∧ (4 ≤ l.round → l.rootPkg = (s.emptyCast l).pkgNum → exec .armingAbandon s = .next ((s.emptyCast l).giveUp l 13)))
  ∧ (∀ s : State,
    let c := s.ev.core
    let w := (s.ev.n - 0x0860) / 16
    (bitAt (s.core c).wlive.toNat w = false → exec .wkeyWrite s
      = .next (({ s with wmeas := s.wmeas.del w } : State).modCore c (fun k => { k with
          keys := k.keys.writeN s.ev.n (toLe s.ev.width s.ev.value.toNat) })))
    ∧ (bitAt (s.core c).wlive.toNat w = true → exec .wkeyWrite s
      = .next (s.pushRec (dieOf c) none ⟨0x4F, c % 16, reqNum s.ev.req, 0, 0, s.cue⟩)))

/-- R340, R347 to R349, R370, R441, R442: links, routing, ports of the pool, alignment of house cues. A write of `RTAB` is of 4
or 8 bytes, byte `i` of the value into the entry `i` past its offset, and is refused for the table that `RTSEL` selects and
while old packets stand in the station (R119, R348). R373, R443 to R448: resets, power, temperature and the sideband: what
the manual names in each answer stands at its end, after free bytes (log 42), the refusal codes of other messages being
PRESUMED (log 42); the report of GET_MEASUREMENTS is laid out byte by byte and signed. Each of the 25 events named here
completes, in every state or in the states of the clauses that name it, which leave none out but a nonce of 32 bytes
(GET_MEASUREMENTS) and the widths that R119 discards. -/
def Obligations.LinkAndBoardEvents : Prop :=
  (∀ s : State,
    let d := s.ev.die
    let n := s.ev.n
    (bitAt (s.die d).linkdn.toNat n = true → exec .linkDown s = .next s)
    ∧ (bitAt (s.die d).linkdn.toNat n = false →
      let u := s.modDie d (fun k => { k with linkdn := k.linkdn ||| BitVec.ofNat 32 (2 ^ n) })
      exec .linkDown s = .next (u.dieRec d 0x55 (reqWord s.pkgNum d 0 4) 0 (u.die d).linkdn.toNat))
    ∧ (s.tripped = true → exec .linkEstablish s = .next s)
    ∧ (s.tripped = false → s.ev.flag = false → exec .linkEstablish s = exec .linkDown s)
    ∧ (s.tripped = false → s.ev.flag = true → n < 2 → exec .linkEstablish s
      = .next (s.modDie d (fun k => { k with linkdn := k.linkdn &&& ~~~ BitVec.ofNat 32 (2 ^ n) })).retryAll)
    ∧ (s.tripped = false → s.ev.flag = true → 2 ≤ n → exec .linkEstablish s
      = .next ({ s.modDie d (fun k => { k with linkdn := k.linkdn &&& ~~~ BitVec.ofNat 32 (2 ^ n) }) with
          linkKeys := s.linkKeys.put (8 * d + n) ((sm3 s.ev.bytes).take 16)
          linkCount := s.linkCount.put (8 * d + n) 0
          linkRxKeys := s.linkRxKeys.put (8 * d + n) ((sm3 s.ev.bytes).take 16)
          linkRxEpoch := s.linkRxEpoch.put (8 * d + n) 0 } : State).retryAll)
    ∧ (s.ev.flag = false → exec .flitCrcFailure s = .next (s.modDie d (fun k => { k with crcFails := k.crcFails.put n 1 })))
    ∧ (s.ev.flag = true → (s.die d).crcFails.get 0 n ≠ 15 → exec .flitCrcFailure s
      = .next (s.modDie d (fun k => { k with crcFails := k.crcFails.put n (k.crcFails.get 0 n + 1) })))
    ∧ (s.ev.flag = true → (s.die d).crcFails.get 0 n = 15 → exec .flitCrcFailure s
      = .next ((s.modDie d (fun k => { k with crcFails := k.crcFails.put n 16 })).at_ s.cue .linkDown { die := d, n := n })))
  ∧ (∀ s : State, ∃ t, exec .cxlPortDown s = .next t ∧ s.ev.n ∈ t.cxlDown
      ∧ (∀ p, p ≠ s.ev.n → (p ∈ t.cxlDown ↔ p ∈ s.cxlDown)))
  ∧ (∀ s : State,
    let v := s.ev.value.toNat % 2 ^ 32
    ((s.die s.ev.die).rtold = 0 → v < 2 → exec .rtselWrite s
      = .next (s.modDie s.ev.die (fun k => { k with rtsel := BitVec.ofNat 32 v }.countOld)))
    ∧ ((s.die s.ev.die).rtold ≠ 0 ∨ 2 ≤ v → exec .rtselWrite s
      = .next (s.discard56 s.ev.die (s.sharedReg s.ev.die 0x120) 0x120 s.ev.req)))
  ∧ (∀ s : State,
    let k := s.die s.ev.die
    let n := s.ev.n
    let w := s.ev.width
    (w = 4 ∨ w = 8 → s.ev.flag = true ∨ (n / 1024 ≠ k.rtsel.toNat ∧ k.rtold = 0) → ∃ t : Tab Byte,
      exec .rtabWrite s = .next (s.setDie s.ev.die { k with rtab := t }).retryAll
      ∧ (∀ i, i < w → t.get 0xFF (n + i) = BitVec.ofNat 8 (s.ev.value.toNat / 2 ^ (8 * i)))
      ∧ (∀ m, m < n ∨ n + w ≤ m → t.get 0xFF m = k.rtab.get 0xFF m))
    ∧ (s.ev.flag = false → n / 1024 = k.rtsel.toNat ∨ k.rtold ≠ 0 → exec .rtabWrite s
      = .next (s.discard56 s.ev.die (s.sharedReg s.ev.die (0x1000 + n)) (0x1000 + n) s.ev.req)))
  ∧ (∀ s : State,
    let e := s.ev.n / 8
    let v := putHalf (s.poolRoute.get 0 e) s.ev.n s.ev.width s.ev.value.toNat
    (s.ev.flag = false → exec .poolRouteWrite s = .next (s.at_ (s.cue + 1) .poolRouteWrite { s.ev with flag := true }))
    ∧ (s.ev.flag = true → bits v.toNat 31 28 ≤ 6 → (setBits 16 v.toNat).length ∈ [0, 1, 2, 4, 8, 16] →
      exec .poolRouteWrite s = .next { s with poolRoute := s.poolRoute.put e v })
    ∧ (s.ev.flag = true → 6 < bits v.toNat 31 28 ∨ (setBits 16 v.toNat).length ∉ [0, 1, 2, 4, 8, 16] →
      exec .poolRouteWrite s
        = .next (s.discard56 0 (s.pkgNum * 2 ^ 41 + 0x100006000 + s.ev.n) (0x6000 + s.ev.n) s.ev.req)))
  ∧ (∀ s : State, s.ev.width = 0 → exec .aligncComplete s
      = .next (({ s with freeIx := s.freeIx + 1 } : State).shDone s.ev.core s.ev.n s.ev.m (if s.ev.flag then 0 else 4)))
  ∧ (∀ s : State, ∃ (u : State), s.cue ≤ u.cue ∧ u.cores = s.cores ∧ u.dies = s.dies ∧ exec .aligncComplete s
      = .next (u.shDone s.ev.core s.ev.n s.ev.m (if s.ev.flag then 0 else 4)))
  ∧ (∀ s : State,
    (s.flash.cfgPower < s.ev.n → exec .powerLimitExceeded s = .next { s with overPower := true })
    ∧ (s.ev.n ≤ s.flash.cfgPower → exec .powerLimitExceeded s = .next s
        ∧ exec .powerLimitCleared s = .next { s with overPower := false })
    ∧ (s.flash.cfgPower < s.ev.n → exec .powerLimitCleared s = .next s)
    ∧ (s.tripped = false → exec .packageReset s = .next s.allLeave.cold.bootUp)
    ∧ (∃ t, exec .thermalTrip s = .next t ∧ t.tripped = true ∧ t.phys = s.allLeave.cold.phys
        ∧ (∀ c, c < 128 → (t.core c).outOfService = true ∧ (t.core c).bank0 = none ∧ (t.core c).bank1 = none))
    ∧ (s.tripped = true → exec .thermalTripRelease s
        = .next (({ s with tripped := false } : State).at_ s.cue .packageReset {}))
    ∧ (s.tripped = false → exec .thermalTripRelease s = .next s))
  ∧ (∀ s : State, s.tripped = true → exec .dieReset s = .next s ∧ exec .packageReset s = .next s)
  ∧ (∀ s : State, s.tripped = false → s.ev.flag = true →
    (s.ev.n ≠ 1 → exec .dieReset s = .next (s.resetCore s.ev.core))
    ∧ (s.ev.n = 1 → exec .dieReset s = .next (s.modCore s.ev.core (fun k => { k with outOfService := false }))))
  ∧ (∀ s : State, s.tripped = false → s.ev.flag = false →
    (s.ev.n ≠ 1 → ∃ u : State, exec .dieReset s = .next (u.setDie s.ev.die u.flash.die))
    ∧ (s.ev.n = 1 → exec .dieReset s = .next ((dieCores s.ev.die).foldl (fun u c =>
        u.modCore c (fun k => { k with outOfService := false })) s)))
  ∧ (∀ s : State,
    let answers := fun (i : Instr) (data : List Byte) => ∃ head, exec i s
      = .next { s with mailbox := (head ++ data) :: s.mailbox, freeIx := s.freeIx + 1 }
    answers .thermalWarning [BitVec.ofNat 8 s.ev.die] ∧ answers .mctpControl [] ∧ answers .pldmBaseDiscovery []
    ∧ answers .pldmPlatformMonitoring
      (BitVec.ofNat 8 s.bootCode :: (upFrom 1 10).map (fun n => BitVec.ofNat 8 (s.flash.step n)))
    ∧ answers .getVersion [0x12] ∧ answers .getCapabilities [] ∧ answers .negotiateAlgorithms (toLe 4 0x200 ++ toLe 4 0x40)
    ∧ answers .unsupportedMessage (if (s.ev.bytes.headD 0).toNat % 128 = 5 then [0x7F, 0x07] else [0x05])
    ∧ exec .getDigests s = .next { s with mailbox := sm3 Config.certificate :: s.mailbox }
    ∧ exec .getCertificate s = .next { s with mailbox := Config.certificate :: s.mailbox })
  ∧ (∀ s : State, s.ev.bytes.length = 32 → ∃ (r : List Byte), exec .getMeasurements s
      = .next { s with mailbox := (r ++ Config.sm2Sign s.freeIx (sm3 r)) :: s.mailbox, freeIx := s.freeIx + 1 }
    ∧ r.length = 240 ∧ r.take 32 = s.ev.bytes ∧ (r.drop 32).take 32 = sm3 s.flash.imgBytes
    ∧ (r.drop 64).take 32 = sm3 s.flash.cfgBytes
    ∧ (∀ w, w < 4 → ((s.wmeas.get [] w).length = 32 → (r.drop (96 + 32 * w)).take 32 = s.wmeas.get [] w)
      ∧ (s.wmeas.get [] w = [] → (r.drop (96 + 32 * w)).take 32 = List.replicate 32 0))
    ∧ (r.drop 224).take 4 = toLe 4 (s.feature 4).toNat ∧ (r.drop 228).take 4 = toLe 4 (s.feature 5).toNat
    ∧ (r.drop 232).take 4 = toLe 4 s.flash.imgVersion ∧ r.drop 236 = [0, 0, 0, 0])
end

