-- ==== Sys2Proof/Laws/Tab.lean ====
section
/-!
SUPPORT. Finite tables and byte memory: reads after writes, writes to one key, and the canonical form, which
every write keeps.
-/
set_option Elab.async false

namespace Sys2Proof.Machine

/-! ### Tables -/

@[simp] theorem Tab.get_put_same {α : Type} (d : α) (t : Tab α) (k : Nat) (v : α) : (t.put k v).get d k = v := by
  induction t with
  | nil => simp [Tab.put, Tab.get]
  | cons e t ih =>
    obtain ⟨j, w⟩ := e
    simp only [Tab.put]
    split
    · simp [Tab.get]
    · split
      · simp [Tab.get]
      · simp only [Tab.get]; rw [if_neg (by omega)]; exact ih

theorem Tab.get_put_other {α : Type} (d : α) (t : Tab α) (j k : Nat) (v : α) (h : j ≠ k) :
    (t.put k v).get d j = t.get d j := by
  induction t with
  | nil => simp [Tab.put, Tab.get]; omega
  | cons e t ih =>
    obtain ⟨i, w⟩ := e
    simp only [Tab.put]
    split
    · simp only [Tab.get]; rw [if_neg (by omega)]
    · split
      · next hk => subst hk; simp only [Tab.get]; rw [if_neg (by omega), if_neg (by omega)]
      · simp only [Tab.get]; split
        · rfl
        · exact ih

theorem Tab.get_put {α : Type} (d : α) (t : Tab α) (j k : Nat) (v : α) :
    (t.put k v).get d j = if j = k then v else t.get d j := by
  split
  · next h => subst h; exact Tab.get_put_same ..
  · next h => exact Tab.get_put_other _ _ _ _ _ h

@[simp] theorem Tab.put_put {α : Type} (t : Tab α) (k : Nat) (v w : α) : (t.put k v).put k w = t.put k w := by
  induction t with
  | nil => simp [Tab.put]
  | cons e t ih =>
    obtain ⟨j, u⟩ := e
    by_cases h1 : k < j
    · simp [Tab.put, h1]
    · by_cases h2 : k = j
      · simp [Tab.put, h2]
      · simp [Tab.put, h1, h2, ih]

/-- Where a key stands first, `find?` sees what was put there. -/
@[simp] theorem Tab.find_put {α : Type} (t : Tab α) (k : Nat) (v : α) :
    (t.put k v).find? (fun e => e.1 == k) = some (k, v) := by
  induction t with
  | nil => simp [Tab.put]
  | cons e t ih =>
    obtain ⟨j, u⟩ := e
    simp only [Tab.put]
    split
    · simp
    · split
      · simp
      · next h1 h2 =>
        rw [List.find?_cons_of_neg (by simp; omega)]; exact ih

theorem Tab.find_put_other {α : Type} (t : Tab α) (j k : Nat) (v : α) (h : j ≠ k) :
    (t.put k v).find? (fun e => e.1 == j) = t.find? (fun e => e.1 == j) := by
  induction t with
  | nil => simp [Tab.put]; omega
  | cons e t ih =>
    obtain ⟨i, u⟩ := e
    simp only [Tab.put]
    split
    · rw [List.find?_cons_of_neg (by simp; omega)]
    · split
      · next h1 h2 =>
        subst h2
        rw [List.find?_cons_of_neg (by simp; omega), List.find?_cons_of_neg (by simp; omega)]
      · simp only [List.find?_cons]; split
        · rfl
        · exact ih

/-! ### Byte memory -/

theorem Memory.wfFrom_cons (lo j : Nat) (v : Byte) (t : Memory) :
    Memory.wfFrom lo ((j, v) :: t) = true ↔ lo ≤ j ∧ v ≠ 0 ∧ Memory.wfFrom (j + 1) t = true := by
  simp only [Memory.wfFrom, Bool.and_eq_true, decide_eq_true_eq, bne_iff_ne, and_assoc]

theorem Memory.wfFrom_mono {lo lo' : Nat} {m : Memory} (h : m.wfFrom lo = true) (hl : lo' ≤ lo) :
    m.wfFrom lo' = true := by
  cases m with
  | nil => rfl
  | cons e t =>
    rw [Memory.wfFrom_cons] at h ⊢
    exact ⟨by omega, h.2⟩

theorem Memory.write_wfFrom (m : Memory) (lo k : Nat) (v : Byte) (h : m.wfFrom lo = true) (hk : lo ≤ k) :
    (m.write k v).wfFrom lo = true := by
  induction m generalizing lo with
  | nil =>
    simp only [Memory.write]; split
    · rfl
    · next hv => exact (Memory.wfFrom_cons ..).2 ⟨hk, hv, rfl⟩
  | cons e t ih =>
    obtain ⟨j, w⟩ := e
    have h' := (Memory.wfFrom_cons ..).1 h
    simp only [Memory.write]
    split
    · split
      · exact h
      · next hv => exact (Memory.wfFrom_cons ..).2 ⟨hk, hv, (Memory.wfFrom_cons ..).2 ⟨by omega, h'.2⟩⟩
    · split
      · next hj =>
        split
        · exact Memory.wfFrom_mono h'.2.2 (by omega)
        · next hv => exact (Memory.wfFrom_cons ..).2 ⟨hk, hv, hj ▸ h'.2.2⟩
      · next hj => exact (Memory.wfFrom_cons ..).2 ⟨h'.1, h'.2.1, ih (j + 1) h'.2.2 (by omega)⟩

/-- A write keeps the canonical form. -/
theorem Memory.write_wf (m : Memory) (k : Nat) (v : Byte) (h : m.wf = true) : (m.write k v).wf = true :=
  Memory.write_wfFrom m 0 k v h (Nat.zero_le k)

theorem Memory.writeN_wf (m : Memory) (a : Nat) (bs : List Byte) (h : m.wf = true) : (m.writeN a bs).wf = true := by
  induction bs generalizing m a with
  | nil => exact h
  | cons b bs ih => exact ih _ _ (Memory.write_wf m a b h)

theorem Memory.writeCells_wf (m : Memory) (cs : List Host.Cell) (h : m.wf = true) : (m.writeCells cs).wf = true := by
  unfold Memory.writeCells
  induction cs generalizing m with
  | nil => exact h
  | cons c cs ih => exact ih _ (Memory.write_wf m c.1 c.2 h)

theorem Memory.read_below (t : Memory) (lo j : Nat) (h : t.wfFrom lo = true) (hj : j < lo) : t.read j = 0 := by
  induction t generalizing lo with
  | nil => rfl
  | cons e t ih =>
    obtain ⟨q, u⟩ := e
    have h' := (Memory.wfFrom_cons ..).1 h
    simp only [Memory.read]; rw [if_neg (by omega)]
    exact ih (q + 1) h'.2.2 (by omega)

/-- A byte read back is the byte written, and every other byte is as before. -/
theorem Memory.read_write (m : Memory) (lo j k : Nat) (v : Byte) (h : m.wfFrom lo = true) :
    (m.write k v).read j = if j = k then v else m.read j := by
  induction m generalizing lo with
  | nil =>
    simp only [Memory.write]
    by_cases hv : v = 0
    · rw [if_pos hv]; split
      · rw [hv]; rfl
      · rfl
    · rw [if_neg hv]; simp only [Memory.read]
      by_cases hj : j = k
      · rw [if_pos hj, if_pos hj.symm]
      · rw [if_neg hj, if_neg (fun e => hj e.symm)]
  | cons e t ih =>
    obtain ⟨i, w⟩ := e
    have h' := (Memory.wfFrom_cons ..).1 h
    simp only [Memory.write]
    split
    · next hk =>
      split
      · next hv =>
        split
        · next hj =>
          simp only [Memory.read]; rw [if_neg (by omega), hv]
          exact Memory.read_below t (i + 1) j h'.2.2 (by omega)
        · rfl
      · by_cases hj : j = k
        · rw [if_pos hj]; simp only [Memory.read]; rw [if_pos hj.symm]
        · rw [if_neg hj]; simp only [Memory.read]; rw [if_neg (fun e => hj e.symm)]
    · split
      · next hk hi =>
        split
        · next hv =>
          split
          · next hj => rw [hv]; exact Memory.read_below t (i + 1) j h'.2.2 (by omega)
          · next hj => simp only [Memory.read]; rw [if_neg (by omega)]
        · by_cases hj : j = k
          · rw [if_pos hj]; simp only [Memory.read]; rw [if_pos hj.symm]
          · rw [if_neg hj]; simp only [Memory.read]; rw [if_neg (by omega), if_neg (by omega)]
      · simp only [Memory.read]
        by_cases hj : i = j
        · rw [if_pos hj, if_neg (by omega), if_pos hj]
        · rw [if_neg hj, if_neg hj]; exact ih _ h'.2.2

theorem Memory.read_write_wf (m : Memory) (j k : Nat) (v : Byte) (h : m.wf = true) :
    (m.write k v).read j = if j = k then v else m.read j := Memory.read_write m 0 j k v h

end Sys2Proof.Machine
end

