-- ==== Sys2Proof/Laws/State.lean ====
section
/-!
SUPPORT. The fields of a state after each update, and how updates of one core, context or register set
compose.
-/
namespace Sys2Proof.Machine

/-! ### Fields after `setCore` -/

@[simp] theorem State.setCore_cue (s : State) (c : Nat) (k : Core) : (s.setCore c k).cue = s.cue := rfl
@[simp] theorem State.setCore_phys (s : State) (c : Nat) (k : Core) : (s.setCore c k).phys = s.phys := rfl
@[simp] theorem State.setCore_physMarks (s : State) (c : Nat) (k : Core) : (s.setCore c k).physMarks = s.physMarks := rfl
@[simp] theorem State.setCore_dies (s : State) (c : Nat) (k : Core) : (s.setCore c k).dies = s.dies := rfl
@[simp] theorem State.setCore_pkgNum (s : State) (c : Nat) (k : Core) : (s.setCore c k).pkgNum = s.pkgNum := rfl
@[simp] theorem State.setCore_exposed (s : State) (c : Nat) (k : Core) : (s.setCore c k).exposed = s.exposed := rfl
@[simp] theorem State.setCore_poolRoute (s : State) (c : Nat) (k : Core) : (s.setCore c k).poolRoute = s.poolRoute := rfl
@[simp] theorem State.setCore_cxlDown (s : State) (c : Nat) (k : Core) : (s.setCore c k).cxlDown = s.cxlDown := rfl
@[simp] theorem State.setCore_launches (s : State) (c : Nat) (k : Core) : (s.setCore c k).launches = s.launches := rfl
@[simp] theorem State.setCore_msix (s : State) (c : Nat) (k : Core) : (s.setCore c k).msix = s.msix := rfl
@[simp] theorem State.setCore_msixTab (s : State) (c : Nat) (k : Core) : (s.setCore c k).msixTab = s.msixTab := rfl
@[simp] theorem State.setCore_msixPend (s : State) (c : Nat) (k : Core) : (s.setCore c k).msixPend = s.msixPend := rfl
@[simp] theorem State.setCore_hostReads (s : State) (c : Nat) (k : Core) : (s.setCore c k).hostReads = s.hostReads := rfl
@[simp] theorem State.setCore_outbox (s : State) (c : Nat) (k : Core) : (s.setCore c k).outbox = s.outbox := rfl
@[simp] theorem State.setCore_mailbox (s : State) (c : Nat) (k : Core) : (s.setCore c k).mailbox = s.mailbox := rfl
@[simp] theorem State.setCore_flash (s : State) (c : Nat) (k : Core) : (s.setCore c k).flash = s.flash := rfl
@[simp] theorem State.setCore_bootCode (s : State) (c : Nat) (k : Core) : (s.setCore c k).bootCode = s.bootCode := rfl
@[simp] theorem State.setCore_minVersion (s : State) (c : Nat) (k : Core) : (s.setCore c k).minVersion = s.minVersion := rfl
@[simp] theorem State.setCore_rootDigest (s : State) (c : Nat) (k : Core) : (s.setCore c k).rootDigest = s.rootDigest := rfl
@[simp] theorem State.setCore_i3c (s : State) (c : Nat) (k : Core) : (s.setCore c k).i3c = s.i3c := rfl
@[simp] theorem State.setCore_wmeas (s : State) (c : Nat) (k : Core) : (s.setCore c k).wmeas = s.wmeas := rfl
@[simp] theorem State.setCore_linkKeys (s : State) (c : Nat) (k : Core) : (s.setCore c k).linkKeys = s.linkKeys := rfl
@[simp] theorem State.setCore_linkCount (s : State) (c : Nat) (k : Core) : (s.setCore c k).linkCount = s.linkCount := rfl
@[simp] theorem State.setCore_linkRxKeys (s : State) (c : Nat) (k : Core) : (s.setCore c k).linkRxKeys = s.linkRxKeys := rfl
@[simp] theorem State.setCore_linkRxEpoch (s : State) (c : Nat) (k : Core) : (s.setCore c k).linkRxEpoch = s.linkRxEpoch := rfl
@[simp] theorem State.setCore_linkOut (s : State) (c : Nat) (k : Core) : (s.setCore c k).linkOut = s.linkOut := rfl
@[simp] theorem State.setCore_overPower (s : State) (c : Nat) (k : Core) : (s.setCore c k).overPower = s.overPower := rfl
@[simp] theorem State.setCore_tripped (s : State) (c : Nat) (k : Core) : (s.setCore c k).tripped = s.tripped := rfl
@[simp] theorem State.setCore_ctlImages (s : State) (c : Nat) (k : Core) : (s.setCore c k).ctlImages = s.ctlImages := rfl
@[simp] theorem State.setCore_agenda (s : State) (c : Nat) (k : Core) : (s.setCore c k).agenda = s.agenda := rfl
@[simp] theorem State.setCore_delays (s : State) (c : Nat) (k : Core) : (s.setCore c k).delays = s.delays := rfl
@[simp] theorem State.setCore_freeIx (s : State) (c : Nat) (k : Core) : (s.setCore c k).freeIx = s.freeIx := rfl
@[simp] theorem State.setCore_nextId (s : State) (c : Nat) (k : Core) : (s.setCore c k).nextId = s.nextId := rfl
@[simp] theorem State.setCore_accs (s : State) (c : Nat) (k : Core) : (s.setCore c k).accs = s.accs := rfl
@[simp] theorem State.setCore_fences (s : State) (c : Nat) (k : Core) : (s.setCore c k).fences = s.fences := rfl
@[simp] theorem State.setCore_tokWaits (s : State) (c : Nat) (k : Core) : (s.setCore c k).tokWaits = s.tokWaits := rfl
@[simp] theorem State.setCore_ports (s : State) (c : Nat) (k : Core) : (s.setCore c k).ports = s.ports := rfl
@[simp] theorem State.setCore_cur (s : State) (c : Nat) (k : Core) : (s.setCore c k).cur = s.cur := rfl
@[simp] theorem State.setCore_ev (s : State) (c : Nat) (k : Core) : (s.setCore c k).ev = s.ev := rfl

/-! ### Fields after `modCore` -/

@[simp] theorem State.modCore_cue (s : State) (c : Nat) (f : Core → Core) : (s.modCore c f).cue = s.cue := rfl
@[simp] theorem State.modCore_phys (s : State) (c : Nat) (f : Core → Core) : (s.modCore c f).phys = s.phys := rfl
@[simp] theorem State.modCore_physMarks (s : State) (c : Nat) (f : Core → Core) : (s.modCore c f).physMarks = s.physMarks := rfl
@[simp] theorem State.modCore_dies (s : State) (c : Nat) (f : Core → Core) : (s.modCore c f).dies = s.dies := rfl
@[simp] theorem State.modCore_pkgNum (s : State) (c : Nat) (f : Core → Core) : (s.modCore c f).pkgNum = s.pkgNum := rfl
@[simp] theorem State.modCore_exposed (s : State) (c : Nat) (f : Core → Core) : (s.modCore c f).exposed = s.exposed := rfl
@[simp] theorem State.modCore_poolRoute (s : State) (c : Nat) (f : Core → Core) : (s.modCore c f).poolRoute = s.poolRoute := rfl
@[simp] theorem State.modCore_cxlDown (s : State) (c : Nat) (f : Core → Core) : (s.modCore c f).cxlDown = s.cxlDown := rfl
@[simp] theorem State.modCore_launches (s : State) (c : Nat) (f : Core → Core) : (s.modCore c f).launches = s.launches := rfl
@[simp] theorem State.modCore_msix (s : State) (c : Nat) (f : Core → Core) : (s.modCore c f).msix = s.msix := rfl
@[simp] theorem State.modCore_msixTab (s : State) (c : Nat) (f : Core → Core) : (s.modCore c f).msixTab = s.msixTab := rfl
@[simp] theorem State.modCore_msixPend (s : State) (c : Nat) (f : Core → Core) : (s.modCore c f).msixPend = s.msixPend := rfl
@[simp] theorem State.modCore_hostReads (s : State) (c : Nat) (f : Core → Core) : (s.modCore c f).hostReads = s.hostReads := rfl
@[simp] theorem State.modCore_outbox (s : State) (c : Nat) (f : Core → Core) : (s.modCore c f).outbox = s.outbox := rfl
@[simp] theorem State.modCore_mailbox (s : State) (c : Nat) (f : Core → Core) : (s.modCore c f).mailbox = s.mailbox := rfl
@[simp] theorem State.modCore_flash (s : State) (c : Nat) (f : Core → Core) : (s.modCore c f).flash = s.flash := rfl
@[simp] theorem State.modCore_bootCode (s : State) (c : Nat) (f : Core → Core) : (s.modCore c f).bootCode = s.bootCode := rfl
@[simp] theorem State.modCore_minVersion (s : State) (c : Nat) (f : Core → Core) : (s.modCore c f).minVersion = s.minVersion := rfl
@[simp] theorem State.modCore_rootDigest (s : State) (c : Nat) (f : Core → Core) : (s.modCore c f).rootDigest = s.rootDigest := rfl
@[simp] theorem State.modCore_i3c (s : State) (c : Nat) (f : Core → Core) : (s.modCore c f).i3c = s.i3c := rfl
@[simp] theorem State.modCore_wmeas (s : State) (c : Nat) (f : Core → Core) : (s.modCore c f).wmeas = s.wmeas := rfl
@[simp] theorem State.modCore_linkKeys (s : State) (c : Nat) (f : Core → Core) : (s.modCore c f).linkKeys = s.linkKeys := rfl
@[simp] theorem State.modCore_linkCount (s : State) (c : Nat) (f : Core → Core) : (s.modCore c f).linkCount = s.linkCount := rfl
@[simp] theorem State.modCore_linkRxKeys (s : State) (c : Nat) (f : Core → Core) : (s.modCore c f).linkRxKeys = s.linkRxKeys := rfl
@[simp] theorem State.modCore_linkRxEpoch (s : State) (c : Nat) (f : Core → Core) : (s.modCore c f).linkRxEpoch = s.linkRxEpoch := rfl
@[simp] theorem State.modCore_linkOut (s : State) (c : Nat) (f : Core → Core) : (s.modCore c f).linkOut = s.linkOut := rfl
@[simp] theorem State.modCore_overPower (s : State) (c : Nat) (f : Core → Core) : (s.modCore c f).overPower = s.overPower := rfl
@[simp] theorem State.modCore_tripped (s : State) (c : Nat) (f : Core → Core) : (s.modCore c f).tripped = s.tripped := rfl
@[simp] theorem State.modCore_ctlImages (s : State) (c : Nat) (f : Core → Core) : (s.modCore c f).ctlImages = s.ctlImages := rfl
@[simp] theorem State.modCore_agenda (s : State) (c : Nat) (f : Core → Core) : (s.modCore c f).agenda = s.agenda := rfl
@[simp] theorem State.modCore_delays (s : State) (c : Nat) (f : Core → Core) : (s.modCore c f).delays = s.delays := rfl
@[simp] theorem State.modCore_freeIx (s : State) (c : Nat) (f : Core → Core) : (s.modCore c f).freeIx = s.freeIx := rfl
@[simp] theorem State.modCore_nextId (s : State) (c : Nat) (f : Core → Core) : (s.modCore c f).nextId = s.nextId := rfl
@[simp] theorem State.modCore_accs (s : State) (c : Nat) (f : Core → Core) : (s.modCore c f).accs = s.accs := rfl
@[simp] theorem State.modCore_fences (s : State) (c : Nat) (f : Core → Core) : (s.modCore c f).fences = s.fences := rfl
@[simp] theorem State.modCore_tokWaits (s : State) (c : Nat) (f : Core → Core) : (s.modCore c f).tokWaits = s.tokWaits := rfl
@[simp] theorem State.modCore_ports (s : State) (c : Nat) (f : Core → Core) : (s.modCore c f).ports = s.ports := rfl
@[simp] theorem State.modCore_cur (s : State) (c : Nat) (f : Core → Core) : (s.modCore c f).cur = s.cur := rfl
@[simp] theorem State.modCore_ev (s : State) (c : Nat) (f : Core → Core) : (s.modCore c f).ev = s.ev := rfl

/-! ### Fields after `setDie` -/

@[simp] theorem State.setDie_cue (s : State) (d : Nat) (k : Die) : (s.setDie d k).cue = s.cue := rfl
@[simp] theorem State.setDie_phys (s : State) (d : Nat) (k : Die) : (s.setDie d k).phys = s.phys := rfl
@[simp] theorem State.setDie_physMarks (s : State) (d : Nat) (k : Die) : (s.setDie d k).physMarks = s.physMarks := rfl
@[simp] theorem State.setDie_cores (s : State) (d : Nat) (k : Die) : (s.setDie d k).cores = s.cores := rfl
@[simp] theorem State.setDie_pkgNum (s : State) (d : Nat) (k : Die) : (s.setDie d k).pkgNum = s.pkgNum := rfl
@[simp] theorem State.setDie_exposed (s : State) (d : Nat) (k : Die) : (s.setDie d k).exposed = s.exposed := rfl
@[simp] theorem State.setDie_poolRoute (s : State) (d : Nat) (k : Die) : (s.setDie d k).poolRoute = s.poolRoute := rfl
@[simp] theorem State.setDie_cxlDown (s : State) (d : Nat) (k : Die) : (s.setDie d k).cxlDown = s.cxlDown := rfl
@[simp] theorem State.setDie_launches (s : State) (d : Nat) (k : Die) : (s.setDie d k).launches = s.launches := rfl
@[simp] theorem State.setDie_msix (s : State) (d : Nat) (k : Die) : (s.setDie d k).msix = s.msix := rfl
@[simp] theorem State.setDie_msixTab (s : State) (d : Nat) (k : Die) : (s.setDie d k).msixTab = s.msixTab := rfl
@[simp] theorem State.setDie_msixPend (s : State) (d : Nat) (k : Die) : (s.setDie d k).msixPend = s.msixPend := rfl
@[simp] theorem State.setDie_hostReads (s : State) (d : Nat) (k : Die) : (s.setDie d k).hostReads = s.hostReads := rfl
@[simp] theorem State.setDie_outbox (s : State) (d : Nat) (k : Die) : (s.setDie d k).outbox = s.outbox := rfl
@[simp] theorem State.setDie_mailbox (s : State) (d : Nat) (k : Die) : (s.setDie d k).mailbox = s.mailbox := rfl
@[simp] theorem State.setDie_flash (s : State) (d : Nat) (k : Die) : (s.setDie d k).flash = s.flash := rfl
@[simp] theorem State.setDie_bootCode (s : State) (d : Nat) (k : Die) : (s.setDie d k).bootCode = s.bootCode := rfl
@[simp] theorem State.setDie_minVersion (s : State) (d : Nat) (k : Die) : (s.setDie d k).minVersion = s.minVersion := rfl
@[simp] theorem State.setDie_rootDigest (s : State) (d : Nat) (k : Die) : (s.setDie d k).rootDigest = s.rootDigest := rfl
@[simp] theorem State.setDie_i3c (s : State) (d : Nat) (k : Die) : (s.setDie d k).i3c = s.i3c := rfl
@[simp] theorem State.setDie_wmeas (s : State) (d : Nat) (k : Die) : (s.setDie d k).wmeas = s.wmeas := rfl
@[simp] theorem State.setDie_linkKeys (s : State) (d : Nat) (k : Die) : (s.setDie d k).linkKeys = s.linkKeys := rfl
@[simp] theorem State.setDie_linkCount (s : State) (d : Nat) (k : Die) : (s.setDie d k).linkCount = s.linkCount := rfl
@[simp] theorem State.setDie_linkRxKeys (s : State) (d : Nat) (k : Die) : (s.setDie d k).linkRxKeys = s.linkRxKeys := rfl
@[simp] theorem State.setDie_linkRxEpoch (s : State) (d : Nat) (k : Die) : (s.setDie d k).linkRxEpoch = s.linkRxEpoch := rfl
@[simp] theorem State.setDie_linkOut (s : State) (d : Nat) (k : Die) : (s.setDie d k).linkOut = s.linkOut := rfl
@[simp] theorem State.setDie_overPower (s : State) (d : Nat) (k : Die) : (s.setDie d k).overPower = s.overPower := rfl
@[simp] theorem State.setDie_tripped (s : State) (d : Nat) (k : Die) : (s.setDie d k).tripped = s.tripped := rfl
@[simp] theorem State.setDie_ctlImages (s : State) (d : Nat) (k : Die) : (s.setDie d k).ctlImages = s.ctlImages := rfl
@[simp] theorem State.setDie_agenda (s : State) (d : Nat) (k : Die) : (s.setDie d k).agenda = s.agenda := rfl
@[simp] theorem State.setDie_delays (s : State) (d : Nat) (k : Die) : (s.setDie d k).delays = s.delays := rfl
@[simp] theorem State.setDie_freeIx (s : State) (d : Nat) (k : Die) : (s.setDie d k).freeIx = s.freeIx := rfl
@[simp] theorem State.setDie_nextId (s : State) (d : Nat) (k : Die) : (s.setDie d k).nextId = s.nextId := rfl
@[simp] theorem State.setDie_accs (s : State) (d : Nat) (k : Die) : (s.setDie d k).accs = s.accs := rfl
@[simp] theorem State.setDie_fences (s : State) (d : Nat) (k : Die) : (s.setDie d k).fences = s.fences := rfl
@[simp] theorem State.setDie_tokWaits (s : State) (d : Nat) (k : Die) : (s.setDie d k).tokWaits = s.tokWaits := rfl
@[simp] theorem State.setDie_ports (s : State) (d : Nat) (k : Die) : (s.setDie d k).ports = s.ports := rfl
@[simp] theorem State.setDie_cur (s : State) (d : Nat) (k : Die) : (s.setDie d k).cur = s.cur := rfl
@[simp] theorem State.setDie_ev (s : State) (d : Nat) (k : Die) : (s.setDie d k).ev = s.ev := rfl

/-! ### Fields after `modDie` -/

@[simp] theorem State.modDie_cue (s : State) (d : Nat) (f : Die → Die) : (s.modDie d f).cue = s.cue := rfl
@[simp] theorem State.modDie_phys (s : State) (d : Nat) (f : Die → Die) : (s.modDie d f).phys = s.phys := rfl
@[simp] theorem State.modDie_physMarks (s : State) (d : Nat) (f : Die → Die) : (s.modDie d f).physMarks = s.physMarks := rfl
@[simp] theorem State.modDie_cores (s : State) (d : Nat) (f : Die → Die) : (s.modDie d f).cores = s.cores := rfl
@[simp] theorem State.modDie_pkgNum (s : State) (d : Nat) (f : Die → Die) : (s.modDie d f).pkgNum = s.pkgNum := rfl
@[simp] theorem State.modDie_exposed (s : State) (d : Nat) (f : Die → Die) : (s.modDie d f).exposed = s.exposed := rfl
@[simp] theorem State.modDie_poolRoute (s : State) (d : Nat) (f : Die → Die) : (s.modDie d f).poolRoute = s.poolRoute := rfl
@[simp] theorem State.modDie_cxlDown (s : State) (d : Nat) (f : Die → Die) : (s.modDie d f).cxlDown = s.cxlDown := rfl
@[simp] theorem State.modDie_launches (s : State) (d : Nat) (f : Die → Die) : (s.modDie d f).launches = s.launches := rfl
@[simp] theorem State.modDie_msix (s : State) (d : Nat) (f : Die → Die) : (s.modDie d f).msix = s.msix := rfl
@[simp] theorem State.modDie_msixTab (s : State) (d : Nat) (f : Die → Die) : (s.modDie d f).msixTab = s.msixTab := rfl
@[simp] theorem State.modDie_msixPend (s : State) (d : Nat) (f : Die → Die) : (s.modDie d f).msixPend = s.msixPend := rfl
@[simp] theorem State.modDie_hostReads (s : State) (d : Nat) (f : Die → Die) : (s.modDie d f).hostReads = s.hostReads := rfl
@[simp] theorem State.modDie_outbox (s : State) (d : Nat) (f : Die → Die) : (s.modDie d f).outbox = s.outbox := rfl
@[simp] theorem State.modDie_mailbox (s : State) (d : Nat) (f : Die → Die) : (s.modDie d f).mailbox = s.mailbox := rfl
@[simp] theorem State.modDie_flash (s : State) (d : Nat) (f : Die → Die) : (s.modDie d f).flash = s.flash := rfl
@[simp] theorem State.modDie_bootCode (s : State) (d : Nat) (f : Die → Die) : (s.modDie d f).bootCode = s.bootCode := rfl
@[simp] theorem State.modDie_minVersion (s : State) (d : Nat) (f : Die → Die) : (s.modDie d f).minVersion = s.minVersion := rfl
@[simp] theorem State.modDie_rootDigest (s : State) (d : Nat) (f : Die → Die) : (s.modDie d f).rootDigest = s.rootDigest := rfl
@[simp] theorem State.modDie_i3c (s : State) (d : Nat) (f : Die → Die) : (s.modDie d f).i3c = s.i3c := rfl
@[simp] theorem State.modDie_wmeas (s : State) (d : Nat) (f : Die → Die) : (s.modDie d f).wmeas = s.wmeas := rfl
@[simp] theorem State.modDie_linkKeys (s : State) (d : Nat) (f : Die → Die) : (s.modDie d f).linkKeys = s.linkKeys := rfl
@[simp] theorem State.modDie_linkCount (s : State) (d : Nat) (f : Die → Die) : (s.modDie d f).linkCount = s.linkCount := rfl
@[simp] theorem State.modDie_linkRxKeys (s : State) (d : Nat) (f : Die → Die) : (s.modDie d f).linkRxKeys = s.linkRxKeys := rfl
@[simp] theorem State.modDie_linkRxEpoch (s : State) (d : Nat) (f : Die → Die) : (s.modDie d f).linkRxEpoch = s.linkRxEpoch := rfl
@[simp] theorem State.modDie_linkOut (s : State) (d : Nat) (f : Die → Die) : (s.modDie d f).linkOut = s.linkOut := rfl
@[simp] theorem State.modDie_overPower (s : State) (d : Nat) (f : Die → Die) : (s.modDie d f).overPower = s.overPower := rfl
@[simp] theorem State.modDie_tripped (s : State) (d : Nat) (f : Die → Die) : (s.modDie d f).tripped = s.tripped := rfl
@[simp] theorem State.modDie_ctlImages (s : State) (d : Nat) (f : Die → Die) : (s.modDie d f).ctlImages = s.ctlImages := rfl
@[simp] theorem State.modDie_agenda (s : State) (d : Nat) (f : Die → Die) : (s.modDie d f).agenda = s.agenda := rfl
@[simp] theorem State.modDie_delays (s : State) (d : Nat) (f : Die → Die) : (s.modDie d f).delays = s.delays := rfl
@[simp] theorem State.modDie_freeIx (s : State) (d : Nat) (f : Die → Die) : (s.modDie d f).freeIx = s.freeIx := rfl
@[simp] theorem State.modDie_nextId (s : State) (d : Nat) (f : Die → Die) : (s.modDie d f).nextId = s.nextId := rfl
@[simp] theorem State.modDie_accs (s : State) (d : Nat) (f : Die → Die) : (s.modDie d f).accs = s.accs := rfl
@[simp] theorem State.modDie_fences (s : State) (d : Nat) (f : Die → Die) : (s.modDie d f).fences = s.fences := rfl
@[simp] theorem State.modDie_tokWaits (s : State) (d : Nat) (f : Die → Die) : (s.modDie d f).tokWaits = s.tokWaits := rfl
@[simp] theorem State.modDie_ports (s : State) (d : Nat) (f : Die → Die) : (s.modDie d f).ports = s.ports := rfl
@[simp] theorem State.modDie_cur (s : State) (d : Nat) (f : Die → Die) : (s.modDie d f).cur = s.cur := rfl
@[simp] theorem State.modDie_ev (s : State) (d : Nat) (f : Die → Die) : (s.modDie d f).ev = s.ev := rfl

/-! ### Fields after `setCtx` -/

@[simp] theorem State.setCtx_cue (s : State) (c b : Nat) (x : Ctx) : (s.setCtx c b x).cue = s.cue := rfl
@[simp] theorem State.setCtx_phys (s : State) (c b : Nat) (x : Ctx) : (s.setCtx c b x).phys = s.phys := rfl
@[simp] theorem State.setCtx_physMarks (s : State) (c b : Nat) (x : Ctx) : (s.setCtx c b x).physMarks = s.physMarks := rfl
@[simp] theorem State.setCtx_dies (s : State) (c b : Nat) (x : Ctx) : (s.setCtx c b x).dies = s.dies := rfl
@[simp] theorem State.setCtx_pkgNum (s : State) (c b : Nat) (x : Ctx) : (s.setCtx c b x).pkgNum = s.pkgNum := rfl
@[simp] theorem State.setCtx_exposed (s : State) (c b : Nat) (x : Ctx) : (s.setCtx c b x).exposed = s.exposed := rfl
@[simp] theorem State.setCtx_poolRoute (s : State) (c b : Nat) (x : Ctx) : (s.setCtx c b x).poolRoute = s.poolRoute := rfl
@[simp] theorem State.setCtx_cxlDown (s : State) (c b : Nat) (x : Ctx) : (s.setCtx c b x).cxlDown = s.cxlDown := rfl
@[simp] theorem State.setCtx_launches (s : State) (c b : Nat) (x : Ctx) : (s.setCtx c b x).launches = s.launches := rfl
@[simp] theorem State.setCtx_msix (s : State) (c b : Nat) (x : Ctx) : (s.setCtx c b x).msix = s.msix := rfl
@[simp] theorem State.setCtx_msixTab (s : State) (c b : Nat) (x : Ctx) : (s.setCtx c b x).msixTab = s.msixTab := rfl
@[simp] theorem State.setCtx_msixPend (s : State) (c b : Nat) (x : Ctx) : (s.setCtx c b x).msixPend = s.msixPend := rfl
@[simp] theorem State.setCtx_hostReads (s : State) (c b : Nat) (x : Ctx) : (s.setCtx c b x).hostReads = s.hostReads := rfl
@[simp] theorem State.setCtx_outbox (s : State) (c b : Nat) (x : Ctx) : (s.setCtx c b x).outbox = s.outbox := rfl
@[simp] theorem State.setCtx_mailbox (s : State) (c b : Nat) (x : Ctx) : (s.setCtx c b x).mailbox = s.mailbox := rfl
@[simp] theorem State.setCtx_flash (s : State) (c b : Nat) (x : Ctx) : (s.setCtx c b x).flash = s.flash := rfl
@[simp] theorem State.setCtx_bootCode (s : State) (c b : Nat) (x : Ctx) : (s.setCtx c b x).bootCode = s.bootCode := rfl
@[simp] theorem State.setCtx_minVersion (s : State) (c b : Nat) (x : Ctx) : (s.setCtx c b x).minVersion = s.minVersion := rfl
@[simp] theorem State.setCtx_rootDigest (s : State) (c b : Nat) (x : Ctx) : (s.setCtx c b x).rootDigest = s.rootDigest := rfl
@[simp] theorem State.setCtx_i3c (s : State) (c b : Nat) (x : Ctx) : (s.setCtx c b x).i3c = s.i3c := rfl
@[simp] theorem State.setCtx_wmeas (s : State) (c b : Nat) (x : Ctx) : (s.setCtx c b x).wmeas = s.wmeas := rfl
@[simp] theorem State.setCtx_linkKeys (s : State) (c b : Nat) (x : Ctx) : (s.setCtx c b x).linkKeys = s.linkKeys := rfl
@[simp] theorem State.setCtx_linkCount (s : State) (c b : Nat) (x : Ctx) : (s.setCtx c b x).linkCount = s.linkCount := rfl
@[simp] theorem State.setCtx_linkRxKeys (s : State) (c b : Nat) (x : Ctx) : (s.setCtx c b x).linkRxKeys = s.linkRxKeys := rfl
@[simp] theorem State.setCtx_linkRxEpoch (s : State) (c b : Nat) (x : Ctx) : (s.setCtx c b x).linkRxEpoch = s.linkRxEpoch := rfl
@[simp] theorem State.setCtx_linkOut (s : State) (c b : Nat) (x : Ctx) : (s.setCtx c b x).linkOut = s.linkOut := rfl
@[simp] theorem State.setCtx_overPower (s : State) (c b : Nat) (x : Ctx) : (s.setCtx c b x).overPower = s.overPower := rfl
@[simp] theorem State.setCtx_tripped (s : State) (c b : Nat) (x : Ctx) : (s.setCtx c b x).tripped = s.tripped := rfl
@[simp] theorem State.setCtx_ctlImages (s : State) (c b : Nat) (x : Ctx) : (s.setCtx c b x).ctlImages = s.ctlImages := rfl
@[simp] theorem State.setCtx_agenda (s : State) (c b : Nat) (x : Ctx) : (s.setCtx c b x).agenda = s.agenda := rfl
@[simp] theorem State.setCtx_delays (s : State) (c b : Nat) (x : Ctx) : (s.setCtx c b x).delays = s.delays := rfl
@[simp] theorem State.setCtx_freeIx (s : State) (c b : Nat) (x : Ctx) : (s.setCtx c b x).freeIx = s.freeIx := rfl
@[simp] theorem State.setCtx_nextId (s : State) (c b : Nat) (x : Ctx) : (s.setCtx c b x).nextId = s.nextId := rfl
@[simp] theorem State.setCtx_accs (s : State) (c b : Nat) (x : Ctx) : (s.setCtx c b x).accs = s.accs := rfl
@[simp] theorem State.setCtx_fences (s : State) (c b : Nat) (x : Ctx) : (s.setCtx c b x).fences = s.fences := rfl
@[simp] theorem State.setCtx_tokWaits (s : State) (c b : Nat) (x : Ctx) : (s.setCtx c b x).tokWaits = s.tokWaits := rfl
@[simp] theorem State.setCtx_ports (s : State) (c b : Nat) (x : Ctx) : (s.setCtx c b x).ports = s.ports := rfl
@[simp] theorem State.setCtx_cur (s : State) (c b : Nat) (x : Ctx) : (s.setCtx c b x).cur = s.cur := rfl
@[simp] theorem State.setCtx_ev (s : State) (c b : Nat) (x : Ctx) : (s.setCtx c b x).ev = s.ev := rfl

/-! ### Fields after `modCtx` -/

@[simp] theorem State.modCtx_cue (s : State) (c b : Nat) (f : Ctx → Ctx) : (s.modCtx c b f).cue = s.cue := by unfold State.modCtx; split <;> rfl
@[simp] theorem State.modCtx_phys (s : State) (c b : Nat) (f : Ctx → Ctx) : (s.modCtx c b f).phys = s.phys := by unfold State.modCtx; split <;> rfl
@[simp] theorem State.modCtx_physMarks (s : State) (c b : Nat) (f : Ctx → Ctx) : (s.modCtx c b f).physMarks = s.physMarks := by unfold State.modCtx; split <;> rfl
@[simp] theorem State.modCtx_dies (s : State) (c b : Nat) (f : Ctx → Ctx) : (s.modCtx c b f).dies = s.dies := by unfold State.modCtx; split <;> rfl
@[simp] theorem State.modCtx_pkgNum (s : State) (c b : Nat) (f : Ctx → Ctx) : (s.modCtx c b f).pkgNum = s.pkgNum := by unfold State.modCtx; split <;> rfl
@[simp] theorem State.modCtx_exposed (s : State) (c b : Nat) (f : Ctx → Ctx) : (s.modCtx c b f).exposed = s.exposed := by unfold State.modCtx; split <;> rfl
@[simp] theorem State.modCtx_poolRoute (s : State) (c b : Nat) (f : Ctx → Ctx) : (s.modCtx c b f).poolRoute = s.poolRoute := by unfold State.modCtx; split <;> rfl
@[simp] theorem State.modCtx_cxlDown (s : State) (c b : Nat) (f : Ctx → Ctx) : (s.modCtx c b f).cxlDown = s.cxlDown := by unfold State.modCtx; split <;> rfl
@[simp] theorem State.modCtx_launches (s : State) (c b : Nat) (f : Ctx → Ctx) : (s.modCtx c b f).launches = s.launches := by unfold State.modCtx; split <;> rfl
@[simp] theorem State.modCtx_msix (s : State) (c b : Nat) (f : Ctx → Ctx) : (s.modCtx c b f).msix = s.msix := by unfold State.modCtx; split <;> rfl
@[simp] theorem State.modCtx_msixTab (s : State) (c b : Nat) (f : Ctx → Ctx) : (s.modCtx c b f).msixTab = s.msixTab := by unfold State.modCtx; split <;> rfl
@[simp] theorem State.modCtx_msixPend (s : State) (c b : Nat) (f : Ctx → Ctx) : (s.modCtx c b f).msixPend = s.msixPend := by unfold State.modCtx; split <;> rfl
@[simp] theorem State.modCtx_hostReads (s : State) (c b : Nat) (f : Ctx → Ctx) : (s.modCtx c b f).hostReads = s.hostReads := by unfold State.modCtx; split <;> rfl
@[simp] theorem State.modCtx_outbox (s : State) (c b : Nat) (f : Ctx → Ctx) : (s.modCtx c b f).outbox = s.outbox := by unfold State.modCtx; split <;> rfl
@[simp] theorem State.modCtx_mailbox (s : State) (c b : Nat) (f : Ctx → Ctx) : (s.modCtx c b f).mailbox = s.mailbox := by unfold State.modCtx; split <;> rfl
@[simp] theorem State.modCtx_flash (s : State) (c b : Nat) (f : Ctx → Ctx) : (s.modCtx c b f).flash = s.flash := by unfold State.modCtx; split <;> rfl
@[simp] theorem State.modCtx_bootCode (s : State) (c b : Nat) (f : Ctx → Ctx) : (s.modCtx c b f).bootCode = s.bootCode := by unfold State.modCtx; split <;> rfl
@[simp] theorem State.modCtx_minVersion (s : State) (c b : Nat) (f : Ctx → Ctx) : (s.modCtx c b f).minVersion = s.minVersion := by unfold State.modCtx; split <;> rfl
@[simp] theorem State.modCtx_rootDigest (s : State) (c b : Nat) (f : Ctx → Ctx) : (s.modCtx c b f).rootDigest = s.rootDigest := by unfold State.modCtx; split <;> rfl
@[simp] theorem State.modCtx_i3c (s : State) (c b : Nat) (f : Ctx → Ctx) : (s.modCtx c b f).i3c = s.i3c := by unfold State.modCtx; split <;> rfl
@[simp] theorem State.modCtx_wmeas (s : State) (c b : Nat) (f : Ctx → Ctx) : (s.modCtx c b f).wmeas = s.wmeas := by unfold State.modCtx; split <;> rfl
@[simp] theorem State.modCtx_linkKeys (s : State) (c b : Nat) (f : Ctx → Ctx) : (s.modCtx c b f).linkKeys = s.linkKeys := by unfold State.modCtx; split <;> rfl
@[simp] theorem State.modCtx_linkCount (s : State) (c b : Nat) (f : Ctx → Ctx) : (s.modCtx c b f).linkCount = s.linkCount := by unfold State.modCtx; split <;> rfl
@[simp] theorem State.modCtx_linkRxKeys (s : State) (c b : Nat) (f : Ctx → Ctx) : (s.modCtx c b f).linkRxKeys = s.linkRxKeys := by unfold State.modCtx; split <;> rfl
@[simp] theorem State.modCtx_linkRxEpoch (s : State) (c b : Nat) (f : Ctx → Ctx) : (s.modCtx c b f).linkRxEpoch = s.linkRxEpoch := by unfold State.modCtx; split <;> rfl
@[simp] theorem State.modCtx_linkOut (s : State) (c b : Nat) (f : Ctx → Ctx) : (s.modCtx c b f).linkOut = s.linkOut := by unfold State.modCtx; split <;> rfl
@[simp] theorem State.modCtx_overPower (s : State) (c b : Nat) (f : Ctx → Ctx) : (s.modCtx c b f).overPower = s.overPower := by unfold State.modCtx; split <;> rfl
@[simp] theorem State.modCtx_tripped (s : State) (c b : Nat) (f : Ctx → Ctx) : (s.modCtx c b f).tripped = s.tripped := by unfold State.modCtx; split <;> rfl
@[simp] theorem State.modCtx_ctlImages (s : State) (c b : Nat) (f : Ctx → Ctx) : (s.modCtx c b f).ctlImages = s.ctlImages := by unfold State.modCtx; split <;> rfl
@[simp] theorem State.modCtx_agenda (s : State) (c b : Nat) (f : Ctx → Ctx) : (s.modCtx c b f).agenda = s.agenda := by unfold State.modCtx; split <;> rfl
@[simp] theorem State.modCtx_delays (s : State) (c b : Nat) (f : Ctx → Ctx) : (s.modCtx c b f).delays = s.delays := by unfold State.modCtx; split <;> rfl
@[simp] theorem State.modCtx_freeIx (s : State) (c b : Nat) (f : Ctx → Ctx) : (s.modCtx c b f).freeIx = s.freeIx := by unfold State.modCtx; split <;> rfl
@[simp] theorem State.modCtx_nextId (s : State) (c b : Nat) (f : Ctx → Ctx) : (s.modCtx c b f).nextId = s.nextId := by unfold State.modCtx; split <;> rfl
@[simp] theorem State.modCtx_accs (s : State) (c b : Nat) (f : Ctx → Ctx) : (s.modCtx c b f).accs = s.accs := by unfold State.modCtx; split <;> rfl
@[simp] theorem State.modCtx_fences (s : State) (c b : Nat) (f : Ctx → Ctx) : (s.modCtx c b f).fences = s.fences := by unfold State.modCtx; split <;> rfl
@[simp] theorem State.modCtx_tokWaits (s : State) (c b : Nat) (f : Ctx → Ctx) : (s.modCtx c b f).tokWaits = s.tokWaits := by unfold State.modCtx; split <;> rfl
@[simp] theorem State.modCtx_ports (s : State) (c b : Nat) (f : Ctx → Ctx) : (s.modCtx c b f).ports = s.ports := by unfold State.modCtx; split <;> rfl
@[simp] theorem State.modCtx_cur (s : State) (c b : Nat) (f : Ctx → Ctx) : (s.modCtx c b f).cur = s.cur := by unfold State.modCtx; split <;> rfl
@[simp] theorem State.modCtx_ev (s : State) (c b : Nat) (f : Ctx → Ctx) : (s.modCtx c b f).ev = s.ev := by unfold State.modCtx; split <;> rfl

/-! ### Fields after `modMe` -/

@[simp] theorem State.modMe_cue (s : State) (f : Ctx → Ctx) : (s.modMe f).cue = s.cue := s.modCtx_cue _ _ f
@[simp] theorem State.modMe_phys (s : State) (f : Ctx → Ctx) : (s.modMe f).phys = s.phys := s.modCtx_phys _ _ f
@[simp] theorem State.modMe_physMarks (s : State) (f : Ctx → Ctx) : (s.modMe f).physMarks = s.physMarks := s.modCtx_physMarks _ _ f
@[simp] theorem State.modMe_dies (s : State) (f : Ctx → Ctx) : (s.modMe f).dies = s.dies := s.modCtx_dies _ _ f
@[simp] theorem State.modMe_pkgNum (s : State) (f : Ctx → Ctx) : (s.modMe f).pkgNum = s.pkgNum := s.modCtx_pkgNum _ _ f
@[simp] theorem State.modMe_exposed (s : State) (f : Ctx → Ctx) : (s.modMe f).exposed = s.exposed := s.modCtx_exposed _ _ f
@[simp] theorem State.modMe_poolRoute (s : State) (f : Ctx → Ctx) : (s.modMe f).poolRoute = s.poolRoute := s.modCtx_poolRoute _ _ f
@[simp] theorem State.modMe_cxlDown (s : State) (f : Ctx → Ctx) : (s.modMe f).cxlDown = s.cxlDown := s.modCtx_cxlDown _ _ f
@[simp] theorem State.modMe_launches (s : State) (f : Ctx → Ctx) : (s.modMe f).launches = s.launches := s.modCtx_launches _ _ f
@[simp] theorem State.modMe_msix (s : State) (f : Ctx → Ctx) : (s.modMe f).msix = s.msix := s.modCtx_msix _ _ f
@[simp] theorem State.modMe_msixTab (s : State) (f : Ctx → Ctx) : (s.modMe f).msixTab = s.msixTab := s.modCtx_msixTab _ _ f
@[simp] theorem State.modMe_msixPend (s : State) (f : Ctx → Ctx) : (s.modMe f).msixPend = s.msixPend := s.modCtx_msixPend _ _ f
@[simp] theorem State.modMe_hostReads (s : State) (f : Ctx → Ctx) : (s.modMe f).hostReads = s.hostReads := s.modCtx_hostReads _ _ f
@[simp] theorem State.modMe_outbox (s : State) (f : Ctx → Ctx) : (s.modMe f).outbox = s.outbox := s.modCtx_outbox _ _ f
@[simp] theorem State.modMe_mailbox (s : State) (f : Ctx → Ctx) : (s.modMe f).mailbox = s.mailbox := s.modCtx_mailbox _ _ f
@[simp] theorem State.modMe_flash (s : State) (f : Ctx → Ctx) : (s.modMe f).flash = s.flash := s.modCtx_flash _ _ f
@[simp] theorem State.modMe_bootCode (s : State) (f : Ctx → Ctx) : (s.modMe f).bootCode = s.bootCode := s.modCtx_bootCode _ _ f
@[simp] theorem State.modMe_minVersion (s : State) (f : Ctx → Ctx) : (s.modMe f).minVersion = s.minVersion := s.modCtx_minVersion _ _ f
@[simp] theorem State.modMe_rootDigest (s : State) (f : Ctx → Ctx) : (s.modMe f).rootDigest = s.rootDigest := s.modCtx_rootDigest _ _ f
@[simp] theorem State.modMe_i3c (s : State) (f : Ctx → Ctx) : (s.modMe f).i3c = s.i3c := s.modCtx_i3c _ _ f
@[simp] theorem State.modMe_wmeas (s : State) (f : Ctx → Ctx) : (s.modMe f).wmeas = s.wmeas := s.modCtx_wmeas _ _ f
@[simp] theorem State.modMe_linkKeys (s : State) (f : Ctx → Ctx) : (s.modMe f).linkKeys = s.linkKeys := s.modCtx_linkKeys _ _ f
@[simp] theorem State.modMe_linkCount (s : State) (f : Ctx → Ctx) : (s.modMe f).linkCount = s.linkCount := s.modCtx_linkCount _ _ f
@[simp] theorem State.modMe_linkRxKeys (s : State) (f : Ctx → Ctx) : (s.modMe f).linkRxKeys = s.linkRxKeys := s.modCtx_linkRxKeys _ _ f
@[simp] theorem State.modMe_linkRxEpoch (s : State) (f : Ctx → Ctx) : (s.modMe f).linkRxEpoch = s.linkRxEpoch := s.modCtx_linkRxEpoch _ _ f
@[simp] theorem State.modMe_linkOut (s : State) (f : Ctx → Ctx) : (s.modMe f).linkOut = s.linkOut := s.modCtx_linkOut _ _ f
@[simp] theorem State.modMe_overPower (s : State) (f : Ctx → Ctx) : (s.modMe f).overPower = s.overPower := s.modCtx_overPower _ _ f
@[simp] theorem State.modMe_tripped (s : State) (f : Ctx → Ctx) : (s.modMe f).tripped = s.tripped := s.modCtx_tripped _ _ f
@[simp] theorem State.modMe_ctlImages (s : State) (f : Ctx → Ctx) : (s.modMe f).ctlImages = s.ctlImages := s.modCtx_ctlImages _ _ f
@[simp] theorem State.modMe_agenda (s : State) (f : Ctx → Ctx) : (s.modMe f).agenda = s.agenda := s.modCtx_agenda _ _ f
@[simp] theorem State.modMe_delays (s : State) (f : Ctx → Ctx) : (s.modMe f).delays = s.delays := s.modCtx_delays _ _ f
@[simp] theorem State.modMe_freeIx (s : State) (f : Ctx → Ctx) : (s.modMe f).freeIx = s.freeIx := s.modCtx_freeIx _ _ f
@[simp] theorem State.modMe_nextId (s : State) (f : Ctx → Ctx) : (s.modMe f).nextId = s.nextId := s.modCtx_nextId _ _ f
@[simp] theorem State.modMe_accs (s : State) (f : Ctx → Ctx) : (s.modMe f).accs = s.accs := s.modCtx_accs _ _ f
@[simp] theorem State.modMe_fences (s : State) (f : Ctx → Ctx) : (s.modMe f).fences = s.fences := s.modCtx_fences _ _ f
@[simp] theorem State.modMe_tokWaits (s : State) (f : Ctx → Ctx) : (s.modMe f).tokWaits = s.tokWaits := s.modCtx_tokWaits _ _ f
@[simp] theorem State.modMe_ports (s : State) (f : Ctx → Ctx) : (s.modMe f).ports = s.ports := s.modCtx_ports _ _ f
@[simp] theorem State.modMe_cur (s : State) (f : Ctx → Ctx) : (s.modMe f).cur = s.cur := s.modCtx_cur _ _ f
@[simp] theorem State.modMe_ev (s : State) (f : Ctx → Ctx) : (s.modMe f).ev = s.ev := s.modCtx_ev _ _ f

/-! ### Fields after `modRegs` -/

@[simp] theorem State.modRegs_cue (s : State) (f : Regs → Regs) : (s.modRegs f).cue = s.cue := by unfold State.modRegs; split <;> simp
@[simp] theorem State.modRegs_phys (s : State) (f : Regs → Regs) : (s.modRegs f).phys = s.phys := by unfold State.modRegs; split <;> simp
@[simp] theorem State.modRegs_physMarks (s : State) (f : Regs → Regs) : (s.modRegs f).physMarks = s.physMarks := by unfold State.modRegs; split <;> simp
@[simp] theorem State.modRegs_dies (s : State) (f : Regs → Regs) : (s.modRegs f).dies = s.dies := by unfold State.modRegs; split <;> simp
@[simp] theorem State.modRegs_pkgNum (s : State) (f : Regs → Regs) : (s.modRegs f).pkgNum = s.pkgNum := by unfold State.modRegs; split <;> simp
@[simp] theorem State.modRegs_exposed (s : State) (f : Regs → Regs) : (s.modRegs f).exposed = s.exposed := by unfold State.modRegs; split <;> simp
@[simp] theorem State.modRegs_poolRoute (s : State) (f : Regs → Regs) : (s.modRegs f).poolRoute = s.poolRoute := by unfold State.modRegs; split <;> simp
@[simp] theorem State.modRegs_cxlDown (s : State) (f : Regs → Regs) : (s.modRegs f).cxlDown = s.cxlDown := by unfold State.modRegs; split <;> simp
@[simp] theorem State.modRegs_launches (s : State) (f : Regs → Regs) : (s.modRegs f).launches = s.launches := by unfold State.modRegs; split <;> simp
@[simp] theorem State.modRegs_msix (s : State) (f : Regs → Regs) : (s.modRegs f).msix = s.msix := by unfold State.modRegs; split <;> simp
@[simp] theorem State.modRegs_msixTab (s : State) (f : Regs → Regs) : (s.modRegs f).msixTab = s.msixTab := by unfold State.modRegs; split <;> simp
@[simp] theorem State.modRegs_msixPend (s : State) (f : Regs → Regs) : (s.modRegs f).msixPend = s.msixPend := by unfold State.modRegs; split <;> simp
@[simp] theorem State.modRegs_hostReads (s : State) (f : Regs → Regs) : (s.modRegs f).hostReads = s.hostReads := by unfold State.modRegs; split <;> simp
@[simp] theorem State.modRegs_outbox (s : State) (f : Regs → Regs) : (s.modRegs f).outbox = s.outbox := by unfold State.modRegs; split <;> simp
@[simp] theorem State.modRegs_mailbox (s : State) (f : Regs → Regs) : (s.modRegs f).mailbox = s.mailbox := by unfold State.modRegs; split <;> simp
@[simp] theorem State.modRegs_flash (s : State) (f : Regs → Regs) : (s.modRegs f).flash = s.flash := by unfold State.modRegs; split <;> simp
@[simp] theorem State.modRegs_bootCode (s : State) (f : Regs → Regs) : (s.modRegs f).bootCode = s.bootCode := by unfold State.modRegs; split <;> simp
@[simp] theorem State.modRegs_minVersion (s : State) (f : Regs → Regs) : (s.modRegs f).minVersion = s.minVersion := by unfold State.modRegs; split <;> simp
@[simp] theorem State.modRegs_rootDigest (s : State) (f : Regs → Regs) : (s.modRegs f).rootDigest = s.rootDigest := by unfold State.modRegs; split <;> simp
@[simp] theorem State.modRegs_i3c (s : State) (f : Regs → Regs) : (s.modRegs f).i3c = s.i3c := by unfold State.modRegs; split <;> simp
@[simp] theorem State.modRegs_wmeas (s : State) (f : Regs → Regs) : (s.modRegs f).wmeas = s.wmeas := by unfold State.modRegs; split <;> simp
@[simp] theorem State.modRegs_linkKeys (s : State) (f : Regs → Regs) : (s.modRegs f).linkKeys = s.linkKeys := by unfold State.modRegs; split <;> simp
@[simp] theorem State.modRegs_linkCount (s : State) (f : Regs → Regs) : (s.modRegs f).linkCount = s.linkCount := by unfold State.modRegs; split <;> simp
@[simp] theorem State.modRegs_linkRxKeys (s : State) (f : Regs → Regs) : (s.modRegs f).linkRxKeys = s.linkRxKeys := by unfold State.modRegs; split <;> simp
@[simp] theorem State.modRegs_linkRxEpoch (s : State) (f : Regs → Regs) : (s.modRegs f).linkRxEpoch = s.linkRxEpoch := by unfold State.modRegs; split <;> simp
@[simp] theorem State.modRegs_linkOut (s : State) (f : Regs → Regs) : (s.modRegs f).linkOut = s.linkOut := by unfold State.modRegs; split <;> simp
@[simp] theorem State.modRegs_overPower (s : State) (f : Regs → Regs) : (s.modRegs f).overPower = s.overPower := by unfold State.modRegs; split <;> simp
@[simp] theorem State.modRegs_tripped (s : State) (f : Regs → Regs) : (s.modRegs f).tripped = s.tripped := by unfold State.modRegs; split <;> simp
@[simp] theorem State.modRegs_ctlImages (s : State) (f : Regs → Regs) : (s.modRegs f).ctlImages = s.ctlImages := by unfold State.modRegs; split <;> simp
@[simp] theorem State.modRegs_agenda (s : State) (f : Regs → Regs) : (s.modRegs f).agenda = s.agenda := by unfold State.modRegs; split <;> simp
@[simp] theorem State.modRegs_delays (s : State) (f : Regs → Regs) : (s.modRegs f).delays = s.delays := by unfold State.modRegs; split <;> simp
@[simp] theorem State.modRegs_freeIx (s : State) (f : Regs → Regs) : (s.modRegs f).freeIx = s.freeIx := by unfold State.modRegs; split <;> simp
@[simp] theorem State.modRegs_nextId (s : State) (f : Regs → Regs) : (s.modRegs f).nextId = s.nextId := by unfold State.modRegs; split <;> simp
@[simp] theorem State.modRegs_accs (s : State) (f : Regs → Regs) : (s.modRegs f).accs = s.accs := by unfold State.modRegs; split <;> simp
@[simp] theorem State.modRegs_fences (s : State) (f : Regs → Regs) : (s.modRegs f).fences = s.fences := by unfold State.modRegs; split <;> simp
@[simp] theorem State.modRegs_tokWaits (s : State) (f : Regs → Regs) : (s.modRegs f).tokWaits = s.tokWaits := by unfold State.modRegs; split <;> simp
@[simp] theorem State.modRegs_ports (s : State) (f : Regs → Regs) : (s.modRegs f).ports = s.ports := by unfold State.modRegs; split <;> simp
@[simp] theorem State.modRegs_cur (s : State) (f : Regs → Regs) : (s.modRegs f).cur = s.cur := by unfold State.modRegs; split <;> simp
@[simp] theorem State.modRegs_ev (s : State) (f : Regs → Regs) : (s.modRegs f).ev = s.ev := by unfold State.modRegs; split <;> simp

/-! ### Fields after `modRegsOf` -/

@[simp] theorem State.modRegsOf_cue (s : State) (c b : Nat) (sh : Bool) (f : Regs → Regs) : (s.modRegsOf c b sh f).cue = s.cue := by unfold State.modRegsOf; split <;> simp
@[simp] theorem State.modRegsOf_phys (s : State) (c b : Nat) (sh : Bool) (f : Regs → Regs) : (s.modRegsOf c b sh f).phys = s.phys := by unfold State.modRegsOf; split <;> simp
@[simp] theorem State.modRegsOf_physMarks (s : State) (c b : Nat) (sh : Bool) (f : Regs → Regs) : (s.modRegsOf c b sh f).physMarks = s.physMarks := by unfold State.modRegsOf; split <;> simp
@[simp] theorem State.modRegsOf_dies (s : State) (c b : Nat) (sh : Bool) (f : Regs → Regs) : (s.modRegsOf c b sh f).dies = s.dies := by unfold State.modRegsOf; split <;> simp
@[simp] theorem State.modRegsOf_pkgNum (s : State) (c b : Nat) (sh : Bool) (f : Regs → Regs) : (s.modRegsOf c b sh f).pkgNum = s.pkgNum := by unfold State.modRegsOf; split <;> simp
@[simp] theorem State.modRegsOf_exposed (s : State) (c b : Nat) (sh : Bool) (f : Regs → Regs) : (s.modRegsOf c b sh f).exposed = s.exposed := by unfold State.modRegsOf; split <;> simp
@[simp] theorem State.modRegsOf_poolRoute (s : State) (c b : Nat) (sh : Bool) (f : Regs → Regs) : (s.modRegsOf c b sh f).poolRoute = s.poolRoute := by unfold State.modRegsOf; split <;> simp
@[simp] theorem State.modRegsOf_cxlDown (s : State) (c b : Nat) (sh : Bool) (f : Regs → Regs) : (s.modRegsOf c b sh f).cxlDown = s.cxlDown := by unfold State.modRegsOf; split <;> simp
@[simp] theorem State.modRegsOf_launches (s : State) (c b : Nat) (sh : Bool) (f : Regs → Regs) : (s.modRegsOf c b sh f).launches = s.launches := by unfold State.modRegsOf; split <;> simp
@[simp] theorem State.modRegsOf_msix (s : State) (c b : Nat) (sh : Bool) (f : Regs → Regs) : (s.modRegsOf c b sh f).msix = s.msix := by unfold State.modRegsOf; split <;> simp
@[simp] theorem State.modRegsOf_msixTab (s : State) (c b : Nat) (sh : Bool) (f : Regs → Regs) : (s.modRegsOf c b sh f).msixTab = s.msixTab := by unfold State.modRegsOf; split <;> simp
@[simp] theorem State.modRegsOf_msixPend (s : State) (c b : Nat) (sh : Bool) (f : Regs → Regs) : (s.modRegsOf c b sh f).msixPend = s.msixPend := by unfold State.modRegsOf; split <;> simp
@[simp] theorem State.modRegsOf_hostReads (s : State) (c b : Nat) (sh : Bool) (f : Regs → Regs) : (s.modRegsOf c b sh f).hostReads = s.hostReads := by unfold State.modRegsOf; split <;> simp
@[simp] theorem State.modRegsOf_outbox (s : State) (c b : Nat) (sh : Bool) (f : Regs → Regs) : (s.modRegsOf c b sh f).outbox = s.outbox := by unfold State.modRegsOf; split <;> simp
@[simp] theorem State.modRegsOf_mailbox (s : State) (c b : Nat) (sh : Bool) (f : Regs → Regs) : (s.modRegsOf c b sh f).mailbox = s.mailbox := by unfold State.modRegsOf; split <;> simp
@[simp] theorem State.modRegsOf_flash (s : State) (c b : Nat) (sh : Bool) (f : Regs → Regs) : (s.modRegsOf c b sh f).flash = s.flash := by unfold State.modRegsOf; split <;> simp
@[simp] theorem State.modRegsOf_bootCode (s : State) (c b : Nat) (sh : Bool) (f : Regs → Regs) : (s.modRegsOf c b sh f).bootCode = s.bootCode := by unfold State.modRegsOf; split <;> simp
@[simp] theorem State.modRegsOf_minVersion (s : State) (c b : Nat) (sh : Bool) (f : Regs → Regs) : (s.modRegsOf c b sh f).minVersion = s.minVersion := by unfold State.modRegsOf; split <;> simp
@[simp] theorem State.modRegsOf_rootDigest (s : State) (c b : Nat) (sh : Bool) (f : Regs → Regs) : (s.modRegsOf c b sh f).rootDigest = s.rootDigest := by unfold State.modRegsOf; split <;> simp
@[simp] theorem State.modRegsOf_i3c (s : State) (c b : Nat) (sh : Bool) (f : Regs → Regs) : (s.modRegsOf c b sh f).i3c = s.i3c := by unfold State.modRegsOf; split <;> simp
@[simp] theorem State.modRegsOf_wmeas (s : State) (c b : Nat) (sh : Bool) (f : Regs → Regs) : (s.modRegsOf c b sh f).wmeas = s.wmeas := by unfold State.modRegsOf; split <;> simp
@[simp] theorem State.modRegsOf_linkKeys (s : State) (c b : Nat) (sh : Bool) (f : Regs → Regs) : (s.modRegsOf c b sh f).linkKeys = s.linkKeys := by unfold State.modRegsOf; split <;> simp
@[simp] theorem State.modRegsOf_linkCount (s : State) (c b : Nat) (sh : Bool) (f : Regs → Regs) : (s.modRegsOf c b sh f).linkCount = s.linkCount := by unfold State.modRegsOf; split <;> simp
@[simp] theorem State.modRegsOf_linkRxKeys (s : State) (c b : Nat) (sh : Bool) (f : Regs → Regs) : (s.modRegsOf c b sh f).linkRxKeys = s.linkRxKeys := by unfold State.modRegsOf; split <;> simp
@[simp] theorem State.modRegsOf_linkRxEpoch (s : State) (c b : Nat) (sh : Bool) (f : Regs → Regs) : (s.modRegsOf c b sh f).linkRxEpoch = s.linkRxEpoch := by unfold State.modRegsOf; split <;> simp
@[simp] theorem State.modRegsOf_linkOut (s : State) (c b : Nat) (sh : Bool) (f : Regs → Regs) : (s.modRegsOf c b sh f).linkOut = s.linkOut := by unfold State.modRegsOf; split <;> simp
@[simp] theorem State.modRegsOf_overPower (s : State) (c b : Nat) (sh : Bool) (f : Regs → Regs) : (s.modRegsOf c b sh f).overPower = s.overPower := by unfold State.modRegsOf; split <;> simp
@[simp] theorem State.modRegsOf_tripped (s : State) (c b : Nat) (sh : Bool) (f : Regs → Regs) : (s.modRegsOf c b sh f).tripped = s.tripped := by unfold State.modRegsOf; split <;> simp
@[simp] theorem State.modRegsOf_ctlImages (s : State) (c b : Nat) (sh : Bool) (f : Regs → Regs) : (s.modRegsOf c b sh f).ctlImages = s.ctlImages := by unfold State.modRegsOf; split <;> simp
@[simp] theorem State.modRegsOf_agenda (s : State) (c b : Nat) (sh : Bool) (f : Regs → Regs) : (s.modRegsOf c b sh f).agenda = s.agenda := by unfold State.modRegsOf; split <;> simp
@[simp] theorem State.modRegsOf_delays (s : State) (c b : Nat) (sh : Bool) (f : Regs → Regs) : (s.modRegsOf c b sh f).delays = s.delays := by unfold State.modRegsOf; split <;> simp
@[simp] theorem State.modRegsOf_freeIx (s : State) (c b : Nat) (sh : Bool) (f : Regs → Regs) : (s.modRegsOf c b sh f).freeIx = s.freeIx := by unfold State.modRegsOf; split <;> simp
@[simp] theorem State.modRegsOf_nextId (s : State) (c b : Nat) (sh : Bool) (f : Regs → Regs) : (s.modRegsOf c b sh f).nextId = s.nextId := by unfold State.modRegsOf; split <;> simp
@[simp] theorem State.modRegsOf_accs (s : State) (c b : Nat) (sh : Bool) (f : Regs → Regs) : (s.modRegsOf c b sh f).accs = s.accs := by unfold State.modRegsOf; split <;> simp
@[simp] theorem State.modRegsOf_fences (s : State) (c b : Nat) (sh : Bool) (f : Regs → Regs) : (s.modRegsOf c b sh f).fences = s.fences := by unfold State.modRegsOf; split <;> simp
@[simp] theorem State.modRegsOf_tokWaits (s : State) (c b : Nat) (sh : Bool) (f : Regs → Regs) : (s.modRegsOf c b sh f).tokWaits = s.tokWaits := by unfold State.modRegsOf; split <;> simp
@[simp] theorem State.modRegsOf_ports (s : State) (c b : Nat) (sh : Bool) (f : Regs → Regs) : (s.modRegsOf c b sh f).ports = s.ports := by unfold State.modRegsOf; split <;> simp
@[simp] theorem State.modRegsOf_cur (s : State) (c b : Nat) (sh : Bool) (f : Regs → Regs) : (s.modRegsOf c b sh f).cur = s.cur := by unfold State.modRegsOf; split <;> simp
@[simp] theorem State.modRegsOf_ev (s : State) (c b : Nat) (sh : Bool) (f : Regs → Regs) : (s.modRegsOf c b sh f).ev = s.ev := by unfold State.modRegsOf; split <;> simp

/-! ### Fields after `at_` -/

@[simp] theorem State.at__cue (s : State) (t : Nat) (e : Instr) (a : EvArg) : (s.at_ t e a).cue = s.cue := rfl
@[simp] theorem State.at__phys (s : State) (t : Nat) (e : Instr) (a : EvArg) : (s.at_ t e a).phys = s.phys := rfl
@[simp] theorem State.at__physMarks (s : State) (t : Nat) (e : Instr) (a : EvArg) : (s.at_ t e a).physMarks = s.physMarks := rfl
@[simp] theorem State.at__cores (s : State) (t : Nat) (e : Instr) (a : EvArg) : (s.at_ t e a).cores = s.cores := rfl
@[simp] theorem State.at__dies (s : State) (t : Nat) (e : Instr) (a : EvArg) : (s.at_ t e a).dies = s.dies := rfl
@[simp] theorem State.at__pkgNum (s : State) (t : Nat) (e : Instr) (a : EvArg) : (s.at_ t e a).pkgNum = s.pkgNum := rfl
@[simp] theorem State.at__exposed (s : State) (t : Nat) (e : Instr) (a : EvArg) : (s.at_ t e a).exposed = s.exposed := rfl
@[simp] theorem State.at__poolRoute (s : State) (t : Nat) (e : Instr) (a : EvArg) : (s.at_ t e a).poolRoute = s.poolRoute := rfl
@[simp] theorem State.at__cxlDown (s : State) (t : Nat) (e : Instr) (a : EvArg) : (s.at_ t e a).cxlDown = s.cxlDown := rfl
@[simp] theorem State.at__launches (s : State) (t : Nat) (e : Instr) (a : EvArg) : (s.at_ t e a).launches = s.launches := rfl
@[simp] theorem State.at__msix (s : State) (t : Nat) (e : Instr) (a : EvArg) : (s.at_ t e a).msix = s.msix := rfl
@[simp] theorem State.at__msixTab (s : State) (t : Nat) (e : Instr) (a : EvArg) : (s.at_ t e a).msixTab = s.msixTab := rfl
@[simp] theorem State.at__msixPend (s : State) (t : Nat) (e : Instr) (a : EvArg) : (s.at_ t e a).msixPend = s.msixPend := rfl
@[simp] theorem State.at__hostReads (s : State) (t : Nat) (e : Instr) (a : EvArg) : (s.at_ t e a).hostReads = s.hostReads := rfl
@[simp] theorem State.at__outbox (s : State) (t : Nat) (e : Instr) (a : EvArg) : (s.at_ t e a).outbox = s.outbox := rfl
@[simp] theorem State.at__mailbox (s : State) (t : Nat) (e : Instr) (a : EvArg) : (s.at_ t e a).mailbox = s.mailbox := rfl
@[simp] theorem State.at__flash (s : State) (t : Nat) (e : Instr) (a : EvArg) : (s.at_ t e a).flash = s.flash := rfl
@[simp] theorem State.at__bootCode (s : State) (t : Nat) (e : Instr) (a : EvArg) : (s.at_ t e a).bootCode = s.bootCode := rfl
@[simp] theorem State.at__minVersion (s : State) (t : Nat) (e : Instr) (a : EvArg) : (s.at_ t e a).minVersion = s.minVersion := rfl
@[simp] theorem State.at__rootDigest (s : State) (t : Nat) (e : Instr) (a : EvArg) : (s.at_ t e a).rootDigest = s.rootDigest := rfl
@[simp] theorem State.at__i3c (s : State) (t : Nat) (e : Instr) (a : EvArg) : (s.at_ t e a).i3c = s.i3c := rfl
@[simp] theorem State.at__wmeas (s : State) (t : Nat) (e : Instr) (a : EvArg) : (s.at_ t e a).wmeas = s.wmeas := rfl
@[simp] theorem State.at__linkKeys (s : State) (t : Nat) (e : Instr) (a : EvArg) : (s.at_ t e a).linkKeys = s.linkKeys := rfl
@[simp] theorem State.at__linkCount (s : State) (t : Nat) (e : Instr) (a : EvArg) : (s.at_ t e a).linkCount = s.linkCount := rfl
@[simp] theorem State.at__linkRxKeys (s : State) (t : Nat) (e : Instr) (a : EvArg) : (s.at_ t e a).linkRxKeys = s.linkRxKeys := rfl
@[simp] theorem State.at__linkRxEpoch (s : State) (t : Nat) (e : Instr) (a : EvArg) : (s.at_ t e a).linkRxEpoch = s.linkRxEpoch := rfl
@[simp] theorem State.at__linkOut (s : State) (t : Nat) (e : Instr) (a : EvArg) : (s.at_ t e a).linkOut = s.linkOut := rfl
@[simp] theorem State.at__overPower (s : State) (t : Nat) (e : Instr) (a : EvArg) : (s.at_ t e a).overPower = s.overPower := rfl
@[simp] theorem State.at__tripped (s : State) (t : Nat) (e : Instr) (a : EvArg) : (s.at_ t e a).tripped = s.tripped := rfl
@[simp] theorem State.at__ctlImages (s : State) (t : Nat) (e : Instr) (a : EvArg) : (s.at_ t e a).ctlImages = s.ctlImages := rfl
@[simp] theorem State.at__delays (s : State) (t : Nat) (e : Instr) (a : EvArg) : (s.at_ t e a).delays = s.delays := rfl
@[simp] theorem State.at__freeIx (s : State) (t : Nat) (e : Instr) (a : EvArg) : (s.at_ t e a).freeIx = s.freeIx := rfl
@[simp] theorem State.at__nextId (s : State) (t : Nat) (e : Instr) (a : EvArg) : (s.at_ t e a).nextId = s.nextId := rfl
@[simp] theorem State.at__accs (s : State) (t : Nat) (e : Instr) (a : EvArg) : (s.at_ t e a).accs = s.accs := rfl
@[simp] theorem State.at__fences (s : State) (t : Nat) (e : Instr) (a : EvArg) : (s.at_ t e a).fences = s.fences := rfl
@[simp] theorem State.at__tokWaits (s : State) (t : Nat) (e : Instr) (a : EvArg) : (s.at_ t e a).tokWaits = s.tokWaits := rfl
@[simp] theorem State.at__ports (s : State) (t : Nat) (e : Instr) (a : EvArg) : (s.at_ t e a).ports = s.ports := rfl
@[simp] theorem State.at__cur (s : State) (t : Nat) (e : Instr) (a : EvArg) : (s.at_ t e a).cur = s.cur := rfl
@[simp] theorem State.at__ev (s : State) (t : Nat) (e : Instr) (a : EvArg) : (s.at_ t e a).ev = s.ev := rfl

/-! ### Fields after `addPend` -/

@[simp] theorem State.addPend_cue (s : State) (strm k : Nat) (w : PWrite) : (s.addPend strm k w).cue = s.cue := by simp [State.addPend, State.fresh]
@[simp] theorem State.addPend_phys (s : State) (strm k : Nat) (w : PWrite) : (s.addPend strm k w).phys = s.phys := by simp [State.addPend, State.fresh]
@[simp] theorem State.addPend_physMarks (s : State) (strm k : Nat) (w : PWrite) : (s.addPend strm k w).physMarks = s.physMarks := by simp [State.addPend, State.fresh]
@[simp] theorem State.addPend_dies (s : State) (strm k : Nat) (w : PWrite) : (s.addPend strm k w).dies = s.dies := by simp [State.addPend, State.fresh]
@[simp] theorem State.addPend_pkgNum (s : State) (strm k : Nat) (w : PWrite) : (s.addPend strm k w).pkgNum = s.pkgNum := by simp [State.addPend, State.fresh]
@[simp] theorem State.addPend_exposed (s : State) (strm k : Nat) (w : PWrite) : (s.addPend strm k w).exposed = s.exposed := by simp [State.addPend, State.fresh]
@[simp] theorem State.addPend_poolRoute (s : State) (strm k : Nat) (w : PWrite) : (s.addPend strm k w).poolRoute = s.poolRoute := by simp [State.addPend, State.fresh]
@[simp] theorem State.addPend_cxlDown (s : State) (strm k : Nat) (w : PWrite) : (s.addPend strm k w).cxlDown = s.cxlDown := by simp [State.addPend, State.fresh]
@[simp] theorem State.addPend_launches (s : State) (strm k : Nat) (w : PWrite) : (s.addPend strm k w).launches = s.launches := by simp [State.addPend, State.fresh]
@[simp] theorem State.addPend_msix (s : State) (strm k : Nat) (w : PWrite) : (s.addPend strm k w).msix = s.msix := by simp [State.addPend, State.fresh]
@[simp] theorem State.addPend_msixTab (s : State) (strm k : Nat) (w : PWrite) : (s.addPend strm k w).msixTab = s.msixTab := by simp [State.addPend, State.fresh]
@[simp] theorem State.addPend_msixPend (s : State) (strm k : Nat) (w : PWrite) : (s.addPend strm k w).msixPend = s.msixPend := by simp [State.addPend, State.fresh]
@[simp] theorem State.addPend_hostReads (s : State) (strm k : Nat) (w : PWrite) : (s.addPend strm k w).hostReads = s.hostReads := by simp [State.addPend, State.fresh]
@[simp] theorem State.addPend_outbox (s : State) (strm k : Nat) (w : PWrite) : (s.addPend strm k w).outbox = s.outbox := by simp [State.addPend, State.fresh]
@[simp] theorem State.addPend_mailbox (s : State) (strm k : Nat) (w : PWrite) : (s.addPend strm k w).mailbox = s.mailbox := by simp [State.addPend, State.fresh]
@[simp] theorem State.addPend_flash (s : State) (strm k : Nat) (w : PWrite) : (s.addPend strm k w).flash = s.flash := by simp [State.addPend, State.fresh]
@[simp] theorem State.addPend_bootCode (s : State) (strm k : Nat) (w : PWrite) : (s.addPend strm k w).bootCode = s.bootCode := by simp [State.addPend, State.fresh]
@[simp] theorem State.addPend_minVersion (s : State) (strm k : Nat) (w : PWrite) : (s.addPend strm k w).minVersion = s.minVersion := by simp [State.addPend, State.fresh]
@[simp] theorem State.addPend_rootDigest (s : State) (strm k : Nat) (w : PWrite) : (s.addPend strm k w).rootDigest = s.rootDigest := by simp [State.addPend, State.fresh]
@[simp] theorem State.addPend_i3c (s : State) (strm k : Nat) (w : PWrite) : (s.addPend strm k w).i3c = s.i3c := by simp [State.addPend, State.fresh]
@[simp] theorem State.addPend_wmeas (s : State) (strm k : Nat) (w : PWrite) : (s.addPend strm k w).wmeas = s.wmeas := by simp [State.addPend, State.fresh]
@[simp] theorem State.addPend_linkKeys (s : State) (strm k : Nat) (w : PWrite) : (s.addPend strm k w).linkKeys = s.linkKeys := by simp [State.addPend, State.fresh]
@[simp] theorem State.addPend_linkCount (s : State) (strm k : Nat) (w : PWrite) : (s.addPend strm k w).linkCount = s.linkCount := by simp [State.addPend, State.fresh]
@[simp] theorem State.addPend_linkRxKeys (s : State) (strm k : Nat) (w : PWrite) : (s.addPend strm k w).linkRxKeys = s.linkRxKeys := by simp [State.addPend, State.fresh]
@[simp] theorem State.addPend_linkRxEpoch (s : State) (strm k : Nat) (w : PWrite) : (s.addPend strm k w).linkRxEpoch = s.linkRxEpoch := by simp [State.addPend, State.fresh]
@[simp] theorem State.addPend_linkOut (s : State) (strm k : Nat) (w : PWrite) : (s.addPend strm k w).linkOut = s.linkOut := by simp [State.addPend, State.fresh]
@[simp] theorem State.addPend_overPower (s : State) (strm k : Nat) (w : PWrite) : (s.addPend strm k w).overPower = s.overPower := by simp [State.addPend, State.fresh]
@[simp] theorem State.addPend_tripped (s : State) (strm k : Nat) (w : PWrite) : (s.addPend strm k w).tripped = s.tripped := by simp [State.addPend, State.fresh]
@[simp] theorem State.addPend_ctlImages (s : State) (strm k : Nat) (w : PWrite) : (s.addPend strm k w).ctlImages = s.ctlImages := by simp [State.addPend, State.fresh]
@[simp] theorem State.addPend_agenda (s : State) (strm k : Nat) (w : PWrite) : (s.addPend strm k w).agenda = s.agenda := by simp [State.addPend, State.fresh]
@[simp] theorem State.addPend_delays (s : State) (strm k : Nat) (w : PWrite) : (s.addPend strm k w).delays = s.delays := by simp [State.addPend, State.fresh]
@[simp] theorem State.addPend_freeIx (s : State) (strm k : Nat) (w : PWrite) : (s.addPend strm k w).freeIx = s.freeIx := by simp [State.addPend, State.fresh]
@[simp] theorem State.addPend_accs (s : State) (strm k : Nat) (w : PWrite) : (s.addPend strm k w).accs = s.accs := by simp [State.addPend, State.fresh]
@[simp] theorem State.addPend_fences (s : State) (strm k : Nat) (w : PWrite) : (s.addPend strm k w).fences = s.fences := by simp [State.addPend, State.fresh]
@[simp] theorem State.addPend_tokWaits (s : State) (strm k : Nat) (w : PWrite) : (s.addPend strm k w).tokWaits = s.tokWaits := by simp [State.addPend, State.fresh]
@[simp] theorem State.addPend_ports (s : State) (strm k : Nat) (w : PWrite) : (s.addPend strm k w).ports = s.ports := by simp [State.addPend, State.fresh]
@[simp] theorem State.addPend_cur (s : State) (strm k : Nat) (w : PWrite) : (s.addPend strm k w).cur = s.cur := by simp [State.addPend, State.fresh]
@[simp] theorem State.addPend_ev (s : State) (strm k : Nat) (w : PWrite) : (s.addPend strm k w).ev = s.ev := by simp [State.addPend, State.fresh]

/-! ### Reading back -/

@[simp] theorem State.core_setCore (s : State) (c : Nat) (k : Core) : (s.setCore c k).core c = k := by
  simp [State.core, State.setCore]
theorem State.core_setCore_other (s : State) (c c' : Nat) (k : Core) (h : c' ≠ c) :
    (s.setCore c k).core c' = s.core c' := by
  simp [State.core, State.setCore, Tab.get_put_other _ _ _ _ _ h]
@[simp] theorem State.core_modCore (s : State) (c : Nat) (f : Core → Core) : (s.modCore c f).core c = f (s.core c) := by
  simp [State.modCore]
theorem State.core_modCore_other (s : State) (c c' : Nat) (f : Core → Core) (h : c' ≠ c) :
    (s.modCore c f).core c' = s.core c' := by
  simp [State.modCore, State.core_setCore_other _ _ _ _ h]
@[simp] theorem State.die_setDie (s : State) (d : Nat) (k : Die) : (s.setDie d k).die d = k := by
  simp [State.die, State.setDie]
@[simp] theorem State.die_modDie (s : State) (d : Nat) (f : Die → Die) : (s.modDie d f).die d = f (s.die d) := by
  simp [State.modDie]
@[simp] theorem State.core_setDie (s : State) (d c : Nat) (k : Die) : (s.setDie d k).core c = s.core c := rfl
@[simp] theorem State.core_modDie (s : State) (d c : Nat) (f : Die → Die) : (s.modDie d f).core c = s.core c := rfl
@[simp] theorem State.core_at_ (s : State) (c t : Nat) (e : Instr) (a : EvArg) : (s.at_ t e a).core c = s.core c := rfl
@[simp] theorem State.die_modCore (s : State) (d c : Nat) (f : Core → Core) : (s.modCore c f).die d = s.die d := rfl

/-- Two changes of one core are one. -/
theorem State.modCore_modCore (s : State) (c : Nat) (f g : Core → Core) :
    (s.modCore c f).modCore c g = s.modCore c (g ∘ f) := by
  simp [State.modCore, State.setCore, State.core]

theorem State.setCore_setCore (s : State) (c : Nat) (k l : Core) : (s.setCore c k).setCore c l = s.setCore c l := by
  simp [State.setCore]

@[simp] theorem Core.bank_setBank (k : Core) (b : Nat) (x : Ctx) : (k.setBank b (some x)).bank b = some x := by
  unfold Core.setBank Core.bank
  by_cases h0 : b = 0
  · simp [h0]
  · by_cases h1 : b = 1
    · simp [h1]
    · simp [h0, h1]

theorem Core.bank_setBank_other (k : Core) (b b' : Nat) (x : Ctx) (h : b' ≠ b) :
    (k.setBank b (some x)).bank b' = k.bank b' := by
  unfold Core.setBank Core.bank
  by_cases h0 : b = 0
  · subst h0; simp [h]
  · by_cases h1 : b = 1
    · subst h1; simp [h]
    · by_cases h2 : b' = 0
      · simp [h0, h1, h2]
      · by_cases h3 : b' = 1
        · simp [h0, h1, h3]
        · simp only [h0, h1, h2, h3, if_false]
          rw [Tab.find_put_other]; omega

@[simp] theorem Core.setBank_setBank (k : Core) (b : Nat) (x y : Ctx) :
    (k.setBank b (some x)).setBank b (some y) = k.setBank b (some y) := by
  unfold Core.setBank
  by_cases h0 : b = 0
  · simp [h0]
  · by_cases h1 : b = 1
    · simp [h1]
    · simp [h0, h1]

@[simp] theorem Core.setBank_stage (k : Core) (b : Nat) (x : Option Ctx) : (k.setBank b x).stage = k.stage := by
  unfold Core.setBank; split
  · rfl
  · split <;> rfl
@[simp] theorem Core.setBank_sp (k : Core) (b : Nat) (x : Option Ctx) : (k.setBank b x).sp = k.sp := by
  unfold Core.setBank; split
  · rfl
  · split <;> rfl
@[simp] theorem Core.setBank_sh (k : Core) (b : Nat) (x : Option Ctx) : (k.setBank b x).sh = k.sh := by
  unfold Core.setBank; split
  · rfl
  · split <;> rfl

@[simp] theorem State.ctx_setCtx (s : State) (c b : Nat) (x : Ctx) : (s.setCtx c b x).ctx c b = some x := by
  simp [State.ctx, State.setCtx]
@[simp] theorem State.stageOf_setCtx (s : State) (c b c' : Nat) (x : Ctx) : (s.setCtx c b x).stageOf c' = s.stageOf c' := by
  unfold State.stageOf State.setCtx
  by_cases h : c' = c
  · subst h; simp
  · rw [State.core_modCore_other _ _ _ _ h]
@[simp] theorem State.stageOf_modCtx (s : State) (c b c' : Nat) (f : Ctx → Ctx) :
    (s.modCtx c b f).stageOf c' = s.stageOf c' := by
  unfold State.modCtx; split <;> simp
@[simp] theorem State.stageOf_modMe (s : State) (c' : Nat) (f : Ctx → Ctx) : (s.modMe f).stageOf c' = s.stageOf c' := by
  simp [State.modMe]
theorem State.ctx_modCtx (s : State) (c b : Nat) (f : Ctx → Ctx) : (s.modCtx c b f).ctx c b = (s.ctx c b).map f := by
  unfold State.modCtx; split
  · next h => simp [h]
  · next h => simp [h]
theorem State.setCtx_setCtx (s : State) (c b : Nat) (x y : Ctx) : (s.setCtx c b x).setCtx c b y = s.setCtx c b y := by
  simp only [State.setCtx, State.modCore_modCore]
  congr 1; funext k; simp
theorem State.modCtx_modCtx (s : State) (c b : Nat) (f g : Ctx → Ctx) :
    (s.modCtx c b f).modCtx c b g = s.modCtx c b (g ∘ f) := by
  cases h : s.ctx c b with
  | none => simp [State.modCtx, h]
  | some x => simp [State.modCtx, h, State.setCtx_setCtx]

/-- The current context after a change of it. -/
theorem State.me_modMe (s : State) (f : Ctx → Ctx) (h : (s.ctx s.cur.core (s.stageOf s.cur.core)).isSome = true) :
    (s.modMe f).me = f s.me := by
  obtain ⟨x, hx⟩ := Option.isSome_iff_exists.1 h
  unfold State.me
  simp only [State.modMe_cur, State.stageOf_modMe]
  rw [State.modMe, State.ctx_modCtx, hx]; rfl

theorem State.modMe_modMe (s : State) (f g : Ctx → Ctx) : (s.modMe f).modMe g = s.modMe (g ∘ f) := by
  unfold State.modMe
  simp only [State.modCtx_cur, State.stageOf_modCtx, State.modCtx_modCtx]

/-- A program's current context exists. -/
theorem State.hasAgent_ctx {s : State} (h : s.hasAgent = true) (hs : s.cur.sh = false) :
    (s.ctx s.cur.core (s.stageOf s.cur.core)).isSome = true := by
  simpa [State.hasAgent, hs] using h

@[simp] theorem State.modRegs_modRegs (s : State) (f g : Regs → Regs) :
    (s.modRegs f).modRegs g = s.modRegs (g ∘ f) := by
  unfold State.modRegs
  by_cases h : s.cur.sh = true
  · simp [h, State.modCore_modCore, Function.comp_def]
  · simp [h, State.modMe_modMe, Function.comp_def]

theorem State.regs_modRegs (s : State) (f : Regs → Regs) (h : s.hasAgent = true) :
    (s.modRegs f).regs = f s.regs := by
  unfold State.regs
  simp only [State.modRegs_cur]
  by_cases hs : s.cur.sh = true
  · simp [hs, State.modRegs]
  · have hs' : s.cur.sh = false := by simpa using hs
    simp only [hs, State.modRegs]
    simp [State.me_modMe _ _ (State.hasAgent_ctx h hs')]

@[simp] theorem State.hasAgent_modMe (s : State) (f : Ctx → Ctx) : (s.modMe f).hasAgent = s.hasAgent := by
  unfold State.hasAgent
  simp only [State.modMe_cur, State.stageOf_modMe]
  congr 1
  rw [State.modMe, State.ctx_modCtx]; simp

@[simp] theorem State.hasAgent_modRegs (s : State) (f : Regs → Regs) : (s.modRegs f).hasAgent = s.hasAgent := by
  unfold State.modRegs
  by_cases h : s.cur.sh = true
  · simp [h, State.hasAgent]
  · simp [h]

end Sys2Proof.Machine
end

