-- ==== Sys2Proof/Laws/Issue.lean ====
section
/-!
SUPPORT. How words issue: what a scalar or engine word that meets no condition of R164 does, when a word that
only reads and writes registers meets none, and what joining the writes in flight leaves unchanged.
-/
set_option Elab.async false

namespace Sys2Proof.Machine

/-! ### Words that take effect -/

theorem State.scalar_goes {s : State} {h : SHdr} {f : Form} (g : s.scalarGoes h f) (eff : State → State) :
    s.scalar h f eff = .next (eff (s.started (f.guarded h))).retire := by
  obtain ⟨hg, ha, hf⟩ := g
  simp [State.scalar, ha, hg, hf, State.started]

theorem State.engine_goes {s : State} {strm : Nat} {f : Form} (g : s.engineGoes strm f) (eff : State → State) :
    s.engine strm f eff = .next (s.passed (eff (s.started f)) strm f.occ) := by
  obtain ⟨hs, ha, hf⟩ := g
  simp [State.engine, hs, ha, hf, State.started, State.passed]

/-! ### Words that only read and write registers -/

theorem firstOf_nones : ∀ l : List (Option Verdict), (∀ o ∈ l, o = none) → firstOf l = .went
  | [], _ => rfl
  | none :: l, h => by simpa [firstOf] using firstOf_nones l (fun o ho => h o (by simp [ho]))
  | some v :: l, h => by simpa using h (some v) (by simp)

theorem writesTo_nil (l : List Pend) (codes : List Nat) (h : ∀ p ∈ l, ∀ n ∈ codes, n ∉ pwriteCodes p.w) :
    writesTo l codes = [] := by
  simp only [writesTo, List.filter_eq_nil_iff, List.any_eq_true, not_exists, not_and, List.contains_iff_mem]
  exact fun p hp n hn hc => h p hp n hc hn

theorem writesOf_nil (l : List Pend) (strm : Nat) : writesOf l strm [] = [] := rfl

theorem Regs.pending_zero (r : Regs) : r.pending 0 = false := by simp [Regs.pending]

/-- A form that names no token, no scratchpad byte and no wait waits for nothing when no write in flight is of what it
reads. -/
theorem State.pendFate_none {s : State} {strm : Nat} {f : Form} (hb : f.bytes = []) (hw : f.spWrite = false)
    (hp : f.prod = 0) (ht : f.toks = []) (hu : f.wait = none)
    (h : s.interlocked = true → ∀ p ∈ s.olderPend, ∀ n ∈ f.reads, n ∉ pwriteCodes p.w) :
    s.pendFate strm f = none := by
  unfold State.pendFate
  by_cases hi : s.interlocked = true
  · have hl : s.awaited strm f = [] := by
      simp [State.awaited, writesTo_nil _ _ (h hi), hb, writesOf_nil, State.tableWait, hw, hp, ht, Regs.pending_zero]
    simp [hi, hl, hu]
  · simp [hi]

/-- What a register word asks for. -/
def regForm (reads writes consumed : List Nat) : Form := { reads := reads, writes := writes, consumed := consumed }

theorem State.Ready.boundBy {s : State} {reads writes consumed : List Nat} (r : s.Ready reads writes consumed) :
    s.regs.boundBy (reads ++ writes) = [] := by
  unfold Regs.boundBy
  rw [List.map_eq_nil_iff, List.filter_eq_nil_iff]
  intro b hb hc
  exact r.free b hb (by simpa using hc)

theorem State.missing_nil (s : State) (c b : Nat) : s.missing c b [] = [] := rfl

theorem refusedRows_nil (x : Ctx) (t : Nat) : refusedRows x t [] = [] := rfl

theorem State.fate_ready {s : State} {reads writes consumed : List Nat} (r : s.Ready reads writes consumed)
    (p : Bool) : s.fate 0 p (regForm reads writes consumed) = .went := by
  have hb := r.boundBy
  have hp : ∀ l w c : List Nat, (∀ n ∈ l, n ∈ reads) → s.pendFate 0 { reads := l, writes := w, consumed := c } = none :=
    fun l w c hl => State.pendFate_none rfl rfl rfl rfl rfl (fun hi q hq n hn => r.settled hi q hq n (hl n hn))
  have hc : consumed.find? s.regs.mark = none := by
    rw [List.find?_eq_none]; intro n hn; simp [r.clean n hn]
  have ht : s.tokenFate 0 [] [] = none := by simp [State.tokenFate, Regs.failedAmong]
  cases p with
  | false =>
    have h1 : s.regs.boundBy [] = [] := by simp [Regs.boundBy]
    unfold State.fate
    simp only [regForm, r.sched]
    simp [hp (reads.take 1) [] [] (fun n hn => List.mem_of_mem_take hn), h1, ht, State.bankFate, refusedRows_nil, firstOf]
  | true =>
    unfold State.fate
    simp only [regForm, r.sched]
    simp [State.blocksFate, distinct, State.missing_nil, State.windowFate, hb, ht, Regs.pending_zero, State.engineFate,
      hp reads writes consumed (fun n hn => hn), State.bankFate, refusedRows_nil, State.portFate, State.ownerFate,
      State.poisonFate, hc, firstOf]

/-! ### What booking and writes in flight leave unchanged -/

/-- The cores of the package with the registers of one agent changed. -/
def regCores (cores : Tab Core) (c : Nat) (sh : Bool) (f : Regs → Regs) : Tab Core :=
  let k := cores.get {} c
  if sh then cores.put c { k with sh := f k.sh }
  else match k.bank k.stage with
    | some x => cores.put c (k.setBank k.stage (some { x with regs := f x.regs }))
    | none => cores

theorem State.modRegs_eq (s : State) (f : Regs → Regs) :
    s.modRegs f = { s with cores := regCores s.cores s.cur.core s.cur.sh f } := by
  unfold State.modRegs regCores
  cases s.cur.sh with
  | true => rfl
  | false =>
    simp only [Bool.false_eq_true, if_false, State.modMe, State.modCtx, State.stageOf, State.ctx, State.core]
    cases (s.cores.get {} s.cur.core).bank (s.cores.get {} s.cur.core).stage <;> rfl

theorem State.calm_modRegs (s : State) (f : Regs → Regs) : (s.modRegs f).calm = s.calm.modRegs f := by
  simp only [State.calm, State.modRegs_eq, State.portSelf]

/-- A change of the writes in flight alone is hidden by `quiet`. -/
theorem State.quiet_of_modRegs {s : State} (f : Regs → Regs)
    (hf : ∀ r : Regs, { f r with pend := [] } = { r with pend := [] }) : (s.modRegs f).quiet = s.quiet := by
  unfold State.quiet
  rw [State.calm_modRegs, State.modRegs_modRegs, State.modRegs_cur]
  congr 3
  funext r
  exact hf r

end Sys2Proof.Machine
end

