-- ==== Sys2Proof/Laws/Effects.lean ====
section
/-!
SUPPORT. What words leave unchanged: which parts `quiet` hides, updates that keep every byte, words of registers
under way, and the writes in flight that they make.
-/
set_option Elab.async false

namespace Sys2Proof.Machine

/-- The cores of the package with the context of core `c`'s stage bank changed. -/
def meCores (cores : Tab Core) (c : Nat) (f : Ctx → Ctx) : Tab Core :=
  let k := cores.get {} c
  match k.bank k.stage with
  | some x => cores.put c (k.setBank k.stage (some (f x)))
  | none => cores

theorem State.modMe_eq (s : State) (f : Ctx → Ctx) : s.modMe f = { s with cores := meCores s.cores s.cur.core f } := by
  unfold meCores
  simp only [State.modMe, State.modCtx, State.stageOf, State.ctx, State.core]
  cases (s.cores.get {} s.cur.core).bank (s.cores.get {} s.cur.core).stage <;> rfl

theorem State.calm_modMe (s : State) (f : Ctx → Ctx) : (s.modMe f).calm = s.calm.modMe f := by
  simp only [State.calm, State.modMe_eq, State.portSelf]

/-- Booking is hidden by `quiet`. -/
theorem State.quiet_of_modMe {s : State} (f : Ctx → Ctx) (hs : s.cur.sh = false)
    (hf : ∀ x : Ctx, { f x with booked := [], touched := 0, regs := { (f x).regs with pend := [] } }
      = { x with booked := [], touched := 0, regs := { x.regs with pend := [] } }) : (s.modMe f).quiet = s.quiet := by
  have h2 : ∀ (t : State) (g : Regs → Regs), t.cur.sh = false →
      t.modRegs g = t.modMe (fun x => { x with regs := g x.regs }) := by
    intro t g ht
    simp [State.modRegs, ht]
  unfold State.quiet
  rw [State.calm_modMe, h2 _ _ (by simpa [State.calm] using hs), h2 s.calm _ hs, State.modMe_modMe, State.modMe_modMe,
    State.modMe_modMe, State.modMe_cur]
  congr 2
  funext x
  exact hf x

/-- Every byte reads as before where the cores' memories and the registers' spill stores are as before. -/
theorem State.SameBytes.refl (s : State) : s.SameBytes s := ⟨fun _ => rfl, fun _ _ => rfl, fun _ _ _ _ => rfl, fun _ _ _ => rfl⟩

theorem State.SameBytes.trans {s t u : State} (h : s.SameBytes t) (k : t.SameBytes u) : s.SameBytes u :=
  ⟨fun a => (k.phys a).trans (h.phys a), fun c a => (k.sp c a).trans (h.sp c a),
    fun c b z a => (k.spill c b z a).trans (h.spill c b z a), fun c b a => (k.latch c b a).trans (h.latch c b a)⟩

/-- A core whose memory, stagehand and banks hold the same bytes in place of another. -/
theorem State.SameBytes.of_setCore {s : State} {c : Nat} {k : Core} (h1 : k.sp = (s.core c).sp)
    (h2 : k.sh.spill = (s.core c).sh.spill)
    (h3 : ∀ b, ((k.bank b).getD {}).regs.spill = (((s.core c).bank b).getD {}).regs.spill)
    (h4 : ∀ b, ((k.bank b).getD {}).klatch = (((s.core c).bank b).getD {}).klatch) : s.SameBytes (s.setCore c k) := by
  have hc : ∀ j, (s.setCore c k).core j = if j = c then k else s.core j := by
    intro j; simp [State.core, State.setCore, Tab.get_put]
  refine ⟨fun _ => rfl, ?_, ?_, ?_⟩
  · intro j a; rw [hc]; split
    · next h => subst h; rw [h1]
    · rfl
  · intro j b z a
    unfold State.regsOf State.ctx
    rw [hc]
    split
    · split
      · next h => subst h; rw [h2]
      · rfl
    · split
      · next h => subst h; rw [h3]
      · rfl
  · intro j b a
    unfold State.ctx
    rw [hc]
    split
    · next h => subst h; rw [h4]
    · rfl

theorem Core.bank_setBank_getD {α : Type} (k : Core) (b : Nat) (x y : Ctx) (hx : k.bank b = some x) (f : Ctx → α)
    (h : f y = f x) (j : Nat) : f (((k.setBank b (some y)).bank j).getD {}) = f ((k.bank j).getD {}) := by
  by_cases e : j = b
  · subst e; simp [hx, h]
  · rw [Core.bank_setBank_other _ _ _ _ e]

theorem State.SameBytes.of_modCtx {s : State} {c b : Nat} {f : Ctx → Ctx}
    (h1 : ∀ x, (f x).regs.spill = x.regs.spill) (h2 : ∀ x, (f x).klatch = x.klatch) : s.SameBytes (s.modCtx c b f) := by
  unfold State.modCtx
  split
  · next x hx =>
    have hx' : (s.core c).bank b = some x := hx
    refine State.SameBytes.of_setCore ?_ ?_ ?_ ?_
    · unfold Core.setBank; split; · rfl
      split <;> rfl
    · unfold Core.setBank; split; · rfl
      split <;> rfl
    · exact fun j => Core.bank_setBank_getD _ _ x _ hx' (fun y => y.regs.spill) (h1 x) j
    · exact fun j => Core.bank_setBank_getD _ _ x _ hx' (fun y => y.klatch) (h2 x) j
  · exact .refl s

theorem State.SameBytes.of_modMe {s : State} {f : Ctx → Ctx}
    (h1 : ∀ x, (f x).regs.spill = x.regs.spill) (h2 : ∀ x, (f x).klatch = x.klatch) : s.SameBytes (s.modMe f) :=
  State.SameBytes.of_modCtx h1 h2

theorem State.SameBytes.of_modRegs {s : State} {f : Regs → Regs} (h : ∀ r, (f r).spill = r.spill) :
    s.SameBytes (s.modRegs f) := by
  unfold State.modRegs
  split
  · exact State.SameBytes.of_setCore rfl (h _) (fun _ => rfl) (fun _ => rfl)
  · exact State.SameBytes.of_modMe (fun x => h x.regs) (fun _ => rfl)

/-- Nothing but hidden parts changes. -/
theorem State.Adds.refl {s : State} (h : s.cur.verdict = .went) : s.Adds s [] := ⟨h, by simp, rfl⟩

theorem State.Adds.trans {s t u : State} {l m : List Pend} (h : s.Adds t l) (k : t.Adds u m) : s.Adds u (l ++ m) :=
  ⟨k.went, by rw [k.pend, h.pend, List.append_assoc], k.frame.trans h.frame⟩

/-- A write joins the writes in flight. -/
theorem State.addPend_adds {s : State} (ha : s.hasAgent = true) (hv : s.cur.verdict = .went) (strm k : Nat) (w : PWrite) :
    s.Adds (s.addPend strm k w) [⟨s.now + k, s.nextId, strm, false, w⟩] ∧ s.SameBytes (s.addPend strm k w) := by
  let f : Regs → Regs := fun r => { r with pend := r.pend ++ [⟨s.now + k, s.nextId, strm, false, w⟩] }
  let t : State := { s with nextId := s.nextId + 1 }
  have e : s.addPend strm k w = t.modRegs f := rfl
  rw [e]
  refine ⟨⟨?_, ?_, ?_⟩, ?_⟩
  · simp [t, hv]
  · rw [State.regs_modRegs t f ha]; rfl
  · exact (State.quiet_of_modRegs (s := t) f (fun r => rfl)).trans rfl
  · have h : t.SameBytes (t.modRegs f) := State.SameBytes.of_modRegs (fun _ => rfl)
    exact ⟨h.phys, h.sp, h.spill, h.latch⟩

/-- A register word that takes effect changes only what `quiet` hides. -/
theorem State.started_reg {s : State} (ha : s.hasAgent = true) (f : Form) (hr : f.rows = []) (hw : f.touch ++ f.wtouch = []) :
    s.Adds (s.started f) [] ∧ s.SameBytes (s.started f) ∧ (s.started f).nextId = s.nextId
      ∧ (s.started f).delays = s.delays ∧ (s.started f).now = s.now ∧ (s.started f).interlocked = s.interlocked
      ∧ (s.started f).hasAgent = true := by
  let t : State := { s with cur := { s.cur with verdict := .went } }
  obtain ⟨hm, hn⟩ := List.append_eq_nil_iff.1 hw
  by_cases ht : s.timed = true
  · have hs : s.cur.sh = false := by
      unfold State.timed at ht; simp at ht; exact ht.1
    have e : s.started f = t.modMe (fun x => book x t.now f.rows) := by
      unfold State.started State.commit
      simp only [hm, hn, List.append_nil, distinct, List.foldl_nil, if_true, List.isEmpty_nil, Bool.not_true, Bool.and_false,
        Bool.false_eq_true, if_false]
      exact if_pos ht
    obtain ⟨m, hmm⟩ : ∃ m, m = t.now := ⟨_, rfl⟩
    rw [← hmm] at e
    have hm : (t.modMe (fun x => book x m f.rows)).me = book t.me m f.rows :=
      State.me_modMe t _ (State.hasAgent_ctx (s := t) ha hs)
    rw [e]
    refine ⟨⟨by simp [t], ?_, ?_⟩, ?_, by simp [t], by simp [t], ?_, ?_, ?_⟩
    · unfold State.regs
      rw [hm]
      simp only [State.modMe_cur]
      simp [t, hs, book, State.me, State.stageOf, State.ctx, State.core]
    · exact (State.quiet_of_modMe (s := t) (fun x => book x m f.rows) hs (fun x => rfl)).trans rfl
    · have h : t.SameBytes (t.modMe (fun x => book x m f.rows)) := State.SameBytes.of_modMe (fun _ => rfl) (fun _ => rfl)
      exact ⟨h.phys, h.sp, h.spill, h.latch⟩
    · unfold State.now
      rw [hm]
      simp only [State.modMe_cur, State.modMe_cue]
      rfl
    · unfold State.interlocked
      rw [hm]
      simp only [State.modMe_cur]
      rfl
    · rw [State.hasAgent_modMe]; exact ha
  · have e : s.started f = t := by
      unfold State.started State.commit
      simp only [hm, hn, List.append_nil, distinct, List.foldl_nil, if_true, List.isEmpty_nil, Bool.not_true, Bool.and_false,
        Bool.false_eq_true, if_false]
      exact (if_neg ht).trans (by rw [hr]; rfl)
    rw [e]
    exact ⟨⟨rfl, by simp [t, State.regs, State.me, State.stageOf, State.ctx, State.core], rfl⟩,
      ⟨fun _ => rfl, fun _ _ => rfl, fun _ _ _ _ => rfl, fun _ _ _ => rfl⟩, rfl, rfl, rfl, rfl, ha⟩

/-- The latency of a write depends on what no word under way changes; the free durations are hidden. -/
theorem State.latency_adds {s : State} (hv : s.cur.verdict = .went) (k : Nat) :
    s.Adds (s.latency k).2 [] ∧ s.SameBytes (s.latency k).2 ∧ (s.latency k).2.nextId = s.nextId
      ∧ (s.latency k).2.now = s.now ∧ (s.latency k).2.hasAgent = s.hasAgent := by
  unfold State.latency
  split
  · split
    · exact ⟨.refl hv, .refl s, rfl, rfl, rfl⟩
    · exact ⟨⟨hv, by simp [State.regs, State.me, State.stageOf, State.ctx, State.core], rfl⟩,
        ⟨fun _ => rfl, fun _ _ => rfl, fun _ _ _ _ => rfl, fun _ _ _ => rfl⟩, rfl, rfl, rfl⟩
  · exact ⟨.refl hv, .refl s, rfl, rfl, rfl⟩

/-- A word of registers under way makes one write after its latency. -/
theorem State.writes_after {s : State} (ha : s.hasAgent = true) (f : Form) (hr : f.rows = []) (hw : f.touch ++ f.wtouch = []) (k : Nat) (w : PWrite) :
    s.Writes ((((s.started f).latency k).2.addPend 0 ((s.started f).latency k).1 w).retire) k w := by
  obtain ⟨h1, h2, h3, h4, h5, h6, h7⟩ := State.started_reg ha f hr hw
  obtain ⟨l1, l2, l3, l4, l5⟩ := State.latency_adds (s := s.started f) h1.went k
  obtain ⟨p1, p2⟩ := State.addPend_adds (s := ((s.started f).latency k).2) (l5.trans h7) l1.went 0
    ((s.started f).latency k).1 w
  have hl : ((s.started f).latency k).1 = (s.latency k).1 := by
    unfold State.latency; rw [h6, h4]; split
    · split <;> rfl
    · rfl
  refine ⟨_, rfl, ?_, (h2.trans l2).trans p2⟩
  have := (h1.trans l1).trans p1
  simpa [l4, l3, h3, h5, hl] using this

theorem State.rests_after {s : State} (ha : s.hasAgent = true) (f : Form) (hr : f.rows = []) (hw : f.touch ++ f.wtouch = []) :
    s.Rests (s.started f).retire := by
  obtain ⟨h1, h2, -⟩ := State.started_reg ha f hr hw
  exact ⟨_, rfl, h1, h2⟩

/-- A register word that meets `Ready`: a passed guard gives its effect, a failed one nothing. -/
theorem State.scalar_ready {s : State} {h : SHdr} {f : Form} {reads writes consumed : List Nat}
    (r : s.Ready reads writes consumed) (hf : f.guarded h = regForm reads writes consumed) (eff : State → State) :
    s.scalar h f eff = .next (if s.guard h then (eff (s.started (f.guarded h))).retire
      else (s.started (f.guarded h)).retire) := by
  have hg : s.fate 0 (s.guard h) (f.guarded h) = .went := by rw [hf]; exact State.fate_ready r _
  unfold State.scalar
  simp only [r.agent, hg, State.started]
  cases hp : s.guard h with
  | true => simp
  | false => simp [hf, regForm, State.commit, distinct]

/-- A word that ends with `gwrite` of R177 sets its g register. -/
theorem State.SetsG.of_gwrite {s : State} (ha : s.hasAgent = true) (f : Form) (hr : f.rows = []) (hw : f.touch ++ f.wtouch = []) (h : SHdr) (d : BitVec 5)
    (v : Word) (k : Nat) :
    s.SetsG (if s.guard h then ((s.started f).gwrite d.toNat v k).retire else (s.started f).retire) h d v k := by
  unfold State.SetsG
  by_cases hp : s.guard h = true
  · by_cases hd : d = 0
    · subst hd
      simp only [hp, State.gwrite, State.gwriteM]
      exact State.rests_after ha f hr hw
    · have hn : d.toNat ≠ 0 := fun e => hd (BitVec.eq_of_toNat_eq e)
      rw [if_pos ⟨hp, hd⟩, if_pos hp]
      simp only [State.gwrite, State.gwriteM, if_neg hn]
      exact State.writes_after ha f hr hw k _
  · rw [if_neg (fun e => hp e.1), if_neg hp]
    exact State.rests_after ha f hr hw

/-- The same for a p register. -/
theorem State.SetsP.of_pwriteP {s : State} (ha : s.hasAgent = true) (f : Form) (hr : f.rows = []) (hw : f.touch ++ f.wtouch = []) (h : SHdr) (d : BitVec 3)
    (v : Bool) (k : Nat) :
    s.SetsP (if s.guard h then ((s.started f).pwriteP d.toNat v k).retire else (s.started f).retire) h d v k := by
  unfold State.SetsP
  by_cases hp : s.guard h = true
  · by_cases hd : d = 0
    · subst hd
      simp only [hp, State.pwriteP]
      exact State.rests_after ha f hr hw
    · have hn : d.toNat ≠ 0 := fun e => hd (BitVec.eq_of_toNat_eq e)
      rw [if_pos ⟨hp, hd⟩, if_pos hp]
      simp only [State.pwriteP, if_neg hn]
      exact State.writes_after ha f hr hw k _
  · rw [if_neg (fun e => hp e.1), if_neg hp]
    exact State.rests_after ha f hr hw

/-- The same for an x register. -/
theorem State.SetsX.of_xwrite {s : State} (ha : s.hasAgent = true) (f : Form) (hr : f.rows = []) (hw : f.touch ++ f.wtouch = []) (h : SHdr)
    (d : BitVec 3) (v : DWord) (k : Nat) :
    s.SetsX (if s.guard h then ((s.started f).xwrite d.toNat v k).retire else (s.started f).retire) h d v k := by
  unfold State.SetsX
  split
  · exact State.writes_after ha f hr hw k _
  · exact State.rests_after ha f hr hw

end Sys2Proof.Machine
end

