-- ==== Sys2Proof/Tests/Slice0.lean ====
section
/-!
SUPPORT. Tests: ill-formed terms that WellFormed refuses, words written out from the encodings of the manual, results the
manual's notes or a hand calculation give, and for each statement states and operands that meet its hypotheses.
-/
set_option Elab.async false

namespace Sys2Proof.Machine.Tests

/-! ### Words (the tables of R157 to R173, and the worked words of the manual's notes on encoding) -/

def isScalar (e : Nat × Instr) : Bool := match decodeScalar e.1 with | .ok i => i == e.2 | .error _ => false
def isVector (e : Nat × Instr) : Bool := match decodeVector e.1 with | .ok i => i == e.2 | .error _ => false
def isMatrix (e : Nat × Instr) : Bool := match decodeMatrix e.1 with | .ok i => i == e.2 | .error _ => false

/-- The worked words of the notes: ADDI g5, g3, -12; VADD of i32 elements; MDOT into c2. -/
theorem test_worked_words : isScalar (0x404147F4, .addi ⟨2, 0, false⟩ 5 3 500) = true
    ∧ isScalar (0x424147F4, .addi ⟨2, 0, true⟩ 5 3 500) = true
    ∧ isVector (0x300081400000030000184002, .vadd ⟨3, 0, false, .i32, 1, 1, .rne, false, false, false, 0, .v 3, .v 1, .sp 4 0 2⟩) = true
    ∧ isMatrix (0x01000084091C000A80080004100400000000080000000000,
      .mdot ⟨8, 1, 0, 9, 7, 0, 0, 2, true, 1, 0, false, false, 0, 0x200, 1, 0x200, 2, 0, 1, 0⟩) = true := by decide +kernel

/-- R159: integer, multiply and divide words. -/
theorem test_words_integer : [
  (0x3A081550, .add ⟨1, 6, true⟩ 0 10 21),
  (0x1409E3C1, .sub ⟨0, 5, false⟩ 7 17 28),
  (0xF20BB032, .and ⟨7, 4, true⟩ 14 24 3),
  (0xCC0D7EA3, .or ⟨6, 3, false⟩ 21 31 10),
  (0xAA0F0D14, .xor ⟨5, 2, true⟩ 28 6 17),
  (0x8408DB85, .andn ⟨4, 1, false⟩ 3 13 24),
  (0x620AA9F6, .shl ⟨3, 0, true⟩ 10 20 31),
  (0x5C0C7667, .shr ⟨2, 7, false⟩ 17 27 6),
  (0x3A0E04D8, .sra ⟨1, 6, true⟩ 24 2 13),
  (0x140FD349, .min ⟨0, 5, false⟩ 31 9 20),
  (0xF209A1BA, .max ⟨7, 4, true⟩ 6 16 27),
  (0xCC0B6E2B, .minu ⟨6, 3, false⟩ 13 23 2),
  (0xAA0D3C9C, .maxu ⟨5, 2, true⟩ 20 30 9),
  (0x8416CB00, .mul ⟨4, 1, false⟩ 27 5 16),
  (0x62109971, .mulh ⟨3, 0, true⟩ 2 12 23),
  (0x5C1267E2, .mulhu ⟨2, 7, false⟩ 9 19 30),
  (0x3A143454, .div ⟨1, 6, true⟩ 16 26 5),
  (0x1415C2C5, .divu ⟨0, 5, false⟩ 23 1 12),
  (0xF2179136, .rem ⟨7, 4, true⟩ 30 8 19),
  (0xCC115FA7, .remu ⟨6, 3, false⟩ 5 15 26)].all isScalar = true := by decide +kernel

/-- Compares, predicate logic. -/
theorem test_words_compare : [
  (0xAA192C10, .ceq ⟨5, 2, true⟩ 4 22 1),
  (0x8418FA81, .cne ⟨4, 1, false⟩ 3 29 8),
  (0x621888F2, .clt ⟨3, 0, true⟩ 2 4 15),
  (0x5C185763, .cle ⟨2, 7, false⟩ 1 11 22),
  (0x3A1825D4, .cltu ⟨1, 6, true⟩ 0 18 29),
  (0x1419F245, .cleu ⟨0, 5, false⟩ 7 25 4),
  (0xF21980B8, .fceq ⟨7, 4, true⟩ 6 0 11),
  (0xCC194F29, .fclt ⟨6, 3, false⟩ 5 7 18),
  (0xAA191D9A, .fcle ⟨5, 2, true⟩ 4 14 25),
  (0x8418EA0B, .fcun ⟨4, 1, false⟩ 3 21 0),
  (0x62208870, .pand ⟨3, 0, true⟩ 2 4 7),
  (0x5C204661, .por ⟨2, 7, false⟩ 1 3 6),
  (0x3A200452, .pxor ⟨1, 6, true⟩ 0 2 5),
  (0x1421C243, .pandn ⟨0, 5, false⟩ 7 1 4),
  (0x8420C004, .pnot ⟨4, 1, false⟩ 3 0),
  (0x1427C008, .psave ⟨0, 5, false⟩ 31),
  (0xF2200C09, .pload ⟨7, 4, true⟩ 6)].all isScalar = true := by decide +kernel

/-- FP32 words. -/
theorem test_words_float : [
  (0x8428DB80, .fadd ⟨4, 1, false⟩ 3 13 24),
  (0x622AA9F1, .fsub ⟨3, 0, true⟩ 10 20 31),
  (0x5C2C7662, .fmul ⟨2, 7, false⟩ 17 27 6),
  (0x3A2E04D3, .fma ⟨1, 6, true⟩ 24 2 13),
  (0x142FD344, .fdiv ⟨0, 5, false⟩ 31 9 20),
  (0xF229A1B5, .fmin ⟨7, 4, true⟩ 6 16 27),
  (0xCC2B6E26, .fmax ⟨6, 3, false⟩ 13 23 2),
  (0x5C2A7C07, .fabs ⟨2, 7, false⟩ 9 30),
  (0x3A2C0A08, .fneg ⟨1, 6, true⟩ 16 5),
  (0x142DD809, .fcvti ⟨0, 5, false⟩ 23 12),
  (0xF22FA60A, .fcvtiz ⟨7, 4, true⟩ 30 19),
  (0xCC29740B, .fcvtf ⟨6, 3, false⟩ 5 26)].all isScalar = true := by decide +kernel

/-- Address words, immediates, constants. -/
theorem test_words_immediate : [
  (0x1431C2C0, .xadd ⟨0, 5, false⟩ 7 1 12),
  (0xF2319131, .xset ⟨7, 4, true⟩ 6 8 19),
  (0x62368E02, .xlo ⟨3, 0, true⟩ 26 7),
  (0x5C304C03, .xhi ⟨2, 7, false⟩ 1 6),
  (0x3A300A04, .xmov ⟨1, 6, true⟩ 0 5),
  (0x1443C9BB, .addi ⟨0, 5, false⟩ 15 4 443),
  (0xF24D97C2, .andi ⟨7, 4, true⟩ 22 11 450),
  (0xCC5765C9, .ori ⟨6, 3, false⟩ 29 18 457),
  (0xAA5933D0, .xori ⟨5, 2, true⟩ 4 25 464),
  (0x8462C017, .shli ⟨4, 1, false⟩ 11 0 23),
  (0x626C8E1E, .shri ⟨3, 0, true⟩ 18 7 30),
  (0x5C765C05, .srai ⟨2, 7, false⟩ 25 14 5),
  (0x3A782BEC, .ceqi ⟨1, 6, true⟩ 0 21 492),
  (0x1481F9F3, .clti ⟨0, 5, false⟩ 7 28 499),
  (0xF28987FA, .xaddi ⟨7, 4, true⟩ 6 3 506),
  (0x629281F6, .liu ⟨3, 0, true⟩ 10 502),
  (0x5C9C41FD, .lim ⟨2, 7, false⟩ 17 509)].all isScalar = true := by decide +kernel

/-- Scratchpad and global memory, local atomics. -/
theorem test_words_memory : [
  (0xF2A3B07A, .ldb ⟨7, 4, true⟩ 14 24 3 26),
  (0xCCAD7F41, .ldh ⟨6, 3, false⟩ 21 31 10 1),
  (0xAAB70C28, .ldw ⟨5, 2, true⟩ 28 6 1 8),
  (0x84B8DB0F, .stb ⟨4, 1, false⟩ 3 13 8 15),
  (0x62C2A9F6, .sth ⟨3, 0, true⟩ 10 20 15 22),
  (0x5CCC76DD, .stw ⟨2, 7, false⟩ 17 27 6 29),
  (0x3AD605A4, .ldwAcq ⟨1, 6, true⟩ 24 2 13 4),
  (0x14DFD28B, .stwRel ⟨0, 5, false⟩ 31 9 4 11),
  (0x84E6E825, .ldg ⟨4, 1, false⟩ 27 5 0 18 true),
  (0x62E8A3B2, .stg ⟨3, 0, true⟩ 2 4 7 25 false),
  (0x5CF05F41, .ldgx ⟨2, 7, false⟩ 1 3 14 32 true),
  (0x3AF812CE, .stgx ⟨1, 6, true⟩ 0 2 5 39 false),
  (0x1505CE5D, .gadd ⟨0, 5, false⟩ 23 1 12 46 true),
  (0xF30F81EA, .gmax ⟨7, 4, true⟩ 30 0 3 53 false),
  (0xCD117D79, .gswap ⟨6, 3, false⟩ 5 7 10 60 true),
  (0xAB1E3086, .gcas ⟨5, 2, true⟩ 24 6 1 3 false),
  (0xF327906A, .aadd ⟨7, 4, true⟩ 30 8 3 10),
  (0xCD295F51, .amin ⟨6, 3, false⟩ 5 15 10 17),
  (0xAB332C38, .amax ⟨5, 2, true⟩ 12 22 1 24),
  (0x853CFB1F, .aor ⟨4, 1, false⟩ 19 29 8 31),
  (0x634689E6, .aswap ⟨3, 0, true⟩ 26 4 15 6),
  (0x5D4896CD, .acas ⟨2, 7, false⟩ 2 11 6 13)].all isScalar = true := by decide +kernel

/-- Spill store, transfers, control registers, waiting. -/
theorem test_words_control : [
  (0x6354829E, .spl ⟨3, 0, true⟩ 18 670),
  (0x5D5E42A5, .sps ⟨2, 7, false⟩ 25 677),
  (0xCD675581, .pbr ⟨6, 3, false⟩ 7 684 1),
  (0xAB680000, .br ⟨5, 2, true⟩ 0),
  (0x85770000, .call ⟨4, 1, false⟩ 7),
  (0x63780000, .ret ⟨3, 0, true⟩),
  (0x5D850000, .lstart ⟨2, 7, false⟩ 5),
  (0x8588C2CF, .crd ⟨4, 1, false⟩ 3 719),
  (0x638A92D6, .cwr ⟨3, 0, true⟩ 10 726),
  (0x539202C7, .cfence ⟨2, 4, true⟩ 1 711),
  (0x8598FC00, .waitv ⟨4, 1, false⟩ 3 7 8),
  (0xE1B002D5, .idle 7 725),
  (0x84000000, .nop ⟨4, 1, false⟩)].all isScalar = true := by decide +kernel

/-- Traps and the stagehand's words. -/
theorem test_words_system : [
  (0x62380000, .tret ⟨3, 0, true⟩),
  (0x5C387500, .trap ⟨2, 7, false⟩ 53),
  (0x8438801B, .featq ⟨4, 1, false⟩ 27),
  (0x6238CE22, .tlbinv ⟨3, 0, true⟩ 14 1 2),
  (0x5C3A1509, .ctxpark ⟨2, 7, false⟩ 21 9),
  (0x3A3A5CF0, .ctxrun ⟨1, 6, true⟩ 28 7 16),
  (0x143AA317, .kindle ⟨0, 5, false⟩ 35 23),
  (0xF23AEA1E, .douse ⟨7, 4, true⟩ 42 30),
  (0xCC3B3105, .tagset ⟨6, 3, false⟩ 49 5),
  (0xAA3B400C, .fbpop ⟨5, 2, true⟩ 12),
  (0x843BBF13, .selftest ⟨4, 1, false⟩ 63 19),
  (0x623BC01A, .shsleep ⟨3, 0, true⟩ 26)].all isScalar = true := by decide +kernel

/-- Copy and pool commands, stream registers. -/
theorem test_words_copy : [
  (0x5DA00D01, .cpy ⟨2, 7, false⟩ 13 0 1),
  (0x3BA054E8, .cpyt ⟨1, 6, true⟩ 20 7 8),
  (0x15A09BCF, .ccvt ⟨0, 5, false⟩ 27 6 15),
  (0xF3A0E2B6, .cqnt ⟨7, 4, true⟩ 34 5 22),
  (0xCDA1299D, .cqnth ⟨6, 3, false⟩ 41 4 29),
  (0xABA17064, .csort ⟨5, 2, true⟩ 48 3 4),
  (0x85A1B74B, .ccmpb ⟨4, 1, false⟩ 55 2 11),
  (0x63A1FE32, .cexpb ⟨3, 0, true⟩ 62 1 18),
  (0x5DA20519, .ccmpp ⟨2, 7, false⟩ 5 0 25),
  (0x3BA24CE0, .cexpp ⟨1, 6, true⟩ 12 7 0),
  (0x15A293C7, .cdec ⟨0, 5, false⟩ 19 6 7),
  (0xF3A2DAAE, .cenc ⟨7, 4, true⟩ 26 5 14),
  (0xCDA32115, .cfill ⟨6, 3, false⟩ 33 21),
  (0xABA3687C, .cgath ⟨5, 2, true⟩ 40 3 28),
  (0x85A3AF43, .cscat ⟨4, 1, false⟩ 47 2 3),
  (0x63A4362A, .pcpy ⟨3, 0, true⟩ 54 1 10),
  (0x5DA47D11, .pcvt ⟨2, 7, false⟩ 61 0 17),
  (0x3BA484F8, .pdec ⟨1, 6, true⟩ 4 7 24),
  (0x15A4CBDF, .penc ⟨0, 5, false⟩ 11 6 31),
  (0xF3A60046, .qbind ⟨7, 4, true⟩ 2 6),
  (0x63A640C0, .qrel ⟨3, 0, true⟩ 6)].all isScalar = true := by decide +kernel

/-- Scene words. -/
theorem test_words_scene : [
  (0xABA82014, .lflush ⟨5, 2, true⟩ 32 20),
  (0x61A84000, .scene 3),
  (0x41A88000, .sceneLast 2),
  (0x5DA8F509, .alignc ⟨2, 7, false⟩ 53 9)].all isScalar = true := by decide +kernel

/-- R168, R287: arithmetic, bitwise, masks. -/
theorem test_vwords_arithmetic : [
  (0x3200025800001100005532A8, .vadd ⟨3, 1, false, .f32, 2, 1, .rtz, true, false, false, 0, .v 17, .v 5, .row 9 18 21⟩),
  (0x890129A000000120006C3F80, .vsub ⟨8, 4, true, .bf16, 9, 2, .rdn, false, false, false, 0, .v 1, .q 6, .imm 0x3F80⟩),
  (0xDE0291C800000200003A001D, .vmul ⟨13, 7, false, .i16, 1, 3, .rne, true, false, false, 0, .v 2, .v 3, .g 29⟩),
  (0x250308300667F00000300004, .vfma ⟨2, 2, true, .f32, 8, 0, .rup, false, false, false, 0, .col 3 7 30, .v 3, .v 4⟩),
  (0x7A0410500000069569A00008, .vfms ⟨7, 5, false, .f16, 0, 1, .rtz, false, false, false, 0, .v 6, .sp 21 6 154, .v 8⟩),
  (0xC105B7800000090000A0000B, .vmin ⟨12, 0, true, .i4, 7, 2, .rne, false, false, false, 0, .v 9, .v 10, .v 11⟩),
  (0x1606EEC000000C0000D0000E, .vmax ⟨1, 3, false, .n8, 14, 3, .rne, false, false, false, 0, .v 12, .v 13, .v 14⟩),
  (0x6D07A60800000F0001000000, .vabs ⟨6, 6, true, .i8, 6, 0, .rne, true, false, false, 0, .v 15, .v 16, .v 0⟩),
  (0xB2081D400000110001200000, .vneg ⟨11, 1, false, .f16, 13, 1, .rne, false, false, false, 0, .v 17, .v 18, .v 0⟩),
  (0x0909D5800000130001400015, .vmulh ⟨0, 4, true, .n16, 5, 2, .rne, false, false, false, 0, .v 19, .v 20, .v 21⟩),
  (0x5E0A2CC00000160001700018, .vand ⟨5, 7, false, .bf16, 12, 3, .rne, false, false, false, 0, .v 22, .v 23, .v 24⟩),
  (0xA50BF4000000190001A0001B, .vor ⟨10, 2, true, .n4, 4, 0, .rne, false, false, false, 0, .v 25, .v 26, .v 27⟩),
  (0xFA0C8B4000001C0001D0001E, .vxor ⟨15, 5, false, .i32, 11, 1, .rne, false, false, false, 0, .v 28, .v 29, .v 30⟩),
  (0x410DC38000001F0000100000, .vnot ⟨4, 0, true, .n32, 3, 2, .rne, false, false, false, 0, .v 31, .v 1, .v 0⟩),
  (0x960EEAC000000200003C0005, .vshl ⟨9, 3, false, .n8, 10, 3, .rne, false, false, false, 0, .v 2, .v 3, .imm 0x0005⟩),
  (0xED0F92000000040000500006, .vshr ⟨14, 6, true, .i16, 2, 0, .rne, false, false, false, 0, .v 4, .v 5, .v 6⟩),
  (0x321009406000050000600007, .vcmp ⟨3, 1, false, .f32, 9, 1, .rne, false, false, false, 6, .v 5, .v 6, .v 7⟩),
  (0x801101000000010000300005, .vmand ⟨8, 0, false, .f32, 1, 0, .rne, false, false, false, 0, .v 1, .v 3, .v 5⟩),
  (0xD01208000000020000400006, .vmor ⟨13, 0, false, .f32, 8, 0, .rne, false, false, false, 0, .v 2, .v 4, .v 6⟩),
  (0x201300000000030000500007, .vmxor ⟨2, 0, false, .f32, 0, 0, .rne, false, false, false, 0, .v 3, .v 5, .v 7⟩),
  (0x701407000000060000200000, .vmnot ⟨7, 0, false, .f32, 7, 0, .rne, false, false, false, 0, .v 6, .v 2, .v 0⟩),
  (0xC115EE800000030000400005, .vsel ⟨12, 0, true, .n8, 14, 2, .rne, false, false, false, 0, .v 3, .v 4, .v 5⟩),
  (0x161686C00000060000700008, .vclamp ⟨1, 3, false, .i32, 6, 3, .rne, false, false, false, 0, .v 6, .v 7, .v 8⟩),
  (0x6D17CD000000090000500000, .vmcnt ⟨6, 6, true, .n32, 13, 0, .rne, false, false, false, 0, .v 9, .v 5, .v 0⟩)].all isVector = true := by decide +kernel

/-- Moves, conversions, functions, reductions. -/
theorem test_vwords_moves : [
  (0xB220C54000000A7FF0800000, .vmov ⟨11, 1, false, .n32, 5, 1, .rne, false, false, false, 0, .v 10, .col 15 31 1, .v 0⟩),
  (0x0921DC8000000B0000C0000D, .vperm ⟨0, 4, true, .n16, 12, 2, .rne, false, false, false, 0, .v 11, .v 12, .v 13⟩),
  (0x5E22E4C000000E0000FA0010, .vrot ⟨5, 7, false, .n8, 4, 3, .rne, false, false, false, 0, .v 14, .v 15, .g 16⟩),
  (0xA5230B0000001100012C001F, .vbcast ⟨10, 2, true, .f32, 11, 0, .rne, false, false, false, 0, .v 17, .v 18, .imm 0x001F⟩),
  (0xFA24E3401000130001400015, .vzip ⟨15, 5, false, .n8, 3, 1, .rne, false, false, false, 1, .v 19, .v 20, .v 21⟩),
  (0x4125EA800000160001700018, .vunzip ⟨4, 0, true, .n8, 10, 2, .rne, false, false, false, 0, .v 22, .v 23, .v 24⟩),
  (0x962692C00000190001A0001B, .vpack ⟨9, 3, false, .i16, 2, 3, .rne, false, false, false, 0, .v 25, .v 26, .v 27⟩),
  (0xED27C90010001C0001D00000, .vunpack ⟨14, 6, true, .n32, 9, 0, .rne, false, false, false, 1, .v 28, .v 29, .v 0⟩),
  (0x3228914000001EA001F00000, .viota ⟨3, 1, false, .i16, 1, 1, .rne, false, false, false, 0, .v 30, .g 31, .v 0⟩),
  (0x893008989000010000200000, .vcvt ⟨8, 4, true, .f32, 8, 2, .rtz, true, false, false, 9, .v 1, .v 2, .v 0⟩),
  (0xDE31A0F020000300004A0005, .vcvts ⟨13, 7, false, .i8, 0, 3, .rup, false, false, false, 2, .v 3, .v 4, .g 5⟩),
  (0x254007000000060000C00000, .vexp2 ⟨2, 2, true, .f32, 7, 0, .rne, false, false, false, 0, .v 6, .v 12, .v 0⟩),
  (0x7A410E400000070000D00000, .vlog2 ⟨7, 5, false, .f32, 14, 1, .rne, false, false, false, 0, .v 7, .v 13, .v 0⟩),
  (0xC14206800000080000E00000, .vsig ⟨12, 0, true, .f32, 6, 2, .rne, false, false, false, 0, .v 8, .v 14, .v 0⟩),
  (0x16430DC00000090000F00000, .vtanh ⟨1, 3, false, .f32, 13, 3, .rne, false, false, false, 0, .v 9, .v 15, .v 0⟩),
  (0x6D44050000000A0001000000, .vrcp ⟨6, 6, true, .f32, 5, 0, .rne, false, false, false, 0, .v 10, .v 16, .v 0⟩),
  (0xB2450C4000000B0001100000, .vrsq ⟨11, 1, false, .f32, 12, 1, .rne, false, false, false, 0, .v 11, .v 17, .v 0⟩),
  (0x095014A81000120001300000, .vrsum ⟨0, 4, true, .f16, 4, 2, .rdn, true, false, false, 1, .v 18, .v 19, .v 0⟩),
  (0x5E51ABC01000140001500000, .vrmax ⟨5, 7, false, .i8, 11, 3, .rne, false, false, false, 1, .v 20, .v 21, .v 0⟩),
  (0xA55203000000160001700000, .vrmin ⟨10, 2, true, .f32, 3, 0, .rne, false, false, false, 0, .v 22, .v 23, .v 0⟩),
  (0xFA539A400000180001900000, .vramax ⟨15, 5, false, .i16, 10, 1, .rne, false, false, false, 0, .v 24, .v 25, .v 0⟩)].all isVector = true := by decide +kernel

/-- Memory and running sums. -/
theorem test_vwords_memory : [
  (0x4160E28000001A9BEFF00000, .vld ⟨4, 0, true, .n8, 2, 2, .rne, false, false, false, 0, .v 26, .sp 27 14 255, .v 0⟩),
  (0x966109C40841800000200000, .vst ⟨9, 3, false, .f32, 9, 3, .rne, false, true, false, 0, .sp 4 1 128, .v 2, .v 0⟩),
  (0xED62810000000300004A0005, .vgath ⟨14, 6, true, .i32, 1, 0, .rne, false, false, false, 0, .v 3, .v 4, .g 5⟩),
  (0x3263C84400000600007C0008, .vscat ⟨3, 1, false, .n32, 8, 1, .rne, false, true, false, 0, .v 6, .v 7, .imm 0x0008⟩),
  (0x896400861000090000AA000B, .vscata ⟨8, 4, true, .f32, 0, 2, .rne, false, true, true, 1, .v 9, .v 10, .g 11⟩),
  (0xDE6587C458CD0E0000F00000, .vatom ⟨13, 7, false, .i32, 7, 3, .rne, false, true, false, 5, .sp 12 13 14, .v 15, .v 0⟩),
  (0x25703E011E00030001091412, .vsbp ⟨2, 2, true, .e4m3, 14, 0, .rne, false, false, false, 17, .y 3, .v 16, .sp 17 4 18⟩),
  (0x7A710650000013E000700000, .vycvt ⟨7, 5, false, .f32, 6, 1, .rtz, false, false, false, 0, .v 19, .y 7, .v 0⟩),
  (0xC1720D800E00050000000000, .vyclr ⟨12, 0, true, .f32, 13, 2, .rne, false, false, false, 0, .y 5, .v 0, .v 0⟩),
  (0x167385C00E00060001400000, .vyadd ⟨1, 3, false, .i32, 5, 3, .rne, false, false, false, 0, .y 6, .v 20, .v 0⟩)].all isVector = true := by decide +kernel

/-- R168: scene words and VIDLE. -/
theorem test_vwords_plain : [
  (0x9 * 2 ^ 92 + 0xE0 * 2 ^ 80, .vscene 9),
  (0xA * 2 ^ 92 + 0xE1 * 2 ^ 80, .vsceneLast 10),
  (0x8 * 2 ^ 92 + 0xE8 * 2 ^ 80 + 0x81234, .vidle 8 0x81234)].all isVector = true := by decide +kernel

/-- R171, R173: the matrix words that carry more than a stamp. -/
theorem test_mwords : [
  (0x0181234CE1054A0AC9696A015E6BC091A2B3CCD5E6F78080,
    .mdot ⟨528948, 3, 3, 33, 1, 20, 40, 2, true, 1, 2, false, true, 0, 23130, 128, 11213, 1, 3, 34665158265, 41537105665⟩),
  (0x0281235922095A4D31696E055E754091A2B3D4D5E6F78100,
    .msbp ⟨528949, 2, 4, 34, 2, 21, 41, 3, false, 2, 1, true, false, 0, 23131, 129, 11214, 2, 2, 34665158266, 41537105666⟩),
  (0x04812361630D6A800E0000015E788000000004D5E6F78180,
    .mlatch ⟨528950, 0, 5, 35, 3, 22, 42, 0, false, 0, 0, false, true, 3, 0, 0, 11215, 0, 1, 0, 41537105667⟩),
  (0x0881237024117AD4C0000000000000000000000000000000,
    .mzero ⟨528951, 0, 0, 36, 4, 23, 43, 5, false, 1, 2, false, false, 0, 0, 0, 0, 0, 0, 0, 0⟩),
  (0x0C81238025158B1800000000000000000000000000000000,
    .mret ⟨528952, 0, 0, 37, 5, 24, 44, 6, false, 0, 0, false, false, 0, 0, 0, 0, 0, 0, 0, 0⟩),
  (0x0D81239026199B5C00000000000000000000000000000000,
    .mretz ⟨528953, 0, 0, 38, 6, 25, 45, 7, false, 0, 0, false, false, 0, 0, 0, 0, 0, 0, 0, 0⟩),
  (0x108123A2671DABA0C169821800024091A2B3F80000000000,
    .mldt ⟨528954, 0, 9, 39, 7, 26, 46, 8, false, 1, 2, false, false, 0, 23136, 134, 0, 1, 0, 34665158271, 0⟩),
  (0x148123B2A821BBE53169861C00044091A2B4000000000000,
    .mstt ⟨528955, 0, 10, 40, 8, 27, 47, 9, false, 2, 1, true, false, 0, 23137, 135, 0, 2, 0, 34665158272, 0⟩),
  (0x158123C2E925CC2981698A2000064091A2B4080000000000,
    .msttb ⟨528956, 0, 11, 41, 9, 28, 48, 10, false, 3, 0, false, false, 0, 23138, 136, 0, 3, 0, 34665158273, 0⟩),
  (0x168123D32A29DC6CD1698E2400024091A2B4100000000000,
    .mstth ⟨528957, 0, 12, 42, 10, 29, 49, 11, false, 1, 2, true, false, 0, 23139, 137, 0, 1, 0, 34665158274, 0⟩),
  (0x208123E36B2DEC80000000015EB90000000004D5E6F78580,
    .mftld ⟨528958, 0, 13, 43, 11, 30, 50, 0, false, 0, 0, false, false, 0, 0, 0, 11223, 0, 2, 0, 41537105675⟩),
  (0x308123F02C31FCC000000000000000000000000000000000,
    .mtok ⟨528959, 0, 0, 44, 12, 31, 51, 0, false, 0, 0, false, false, 0, 0, 0, 0, 0, 0, 0, 0⟩)].all isMatrix = true := by decide +kernel

/-- R173: MNOP and the scene words. -/
theorem test_mwords_plain : [
  (0x81234 * 2 ^ 164, .mnop 0x81234),
  (0xF0 * 2 ^ 184 + 7 * 2 ^ 164, .mscene 7),
  (0xF1 * 2 ^ 184 + 8 * 2 ^ 164, .msceneLast 8)].all isMatrix = true := by decide +kernel
/-! ### WellFormed: one ill-formed term for each check -/

/-- R160: GCAS and ACAS name an even register; LSTART names level 0 to 5. -/
theorem test_wf_scalar : (Instr.gcas ⟨0, 0, false⟩ 3 1 0 2 false).wf = false ∧ (Instr.gcas ⟨0, 0, false⟩ 2 1 0 2 false).wf = true
    ∧ (Instr.acas ⟨0, 0, false⟩ 31 1 0 0).wf = false ∧ (Instr.acas ⟨0, 0, false⟩ 30 1 0 0).wf = true
    ∧ (Instr.lstart ⟨0, 0, false⟩ 6).wf = false ∧ (Instr.lstart ⟨0, 0, false⟩ 5).wf = true := by decide

/-- A vector word whose fields are all plain. -/
def plainV : VWord := ⟨0, 0, false, .f32, 0, 0, .rne, false, false, false, 0, .v 1, .v 2, .v 3⟩

/-- R286: types, functions, roles, rounding, saturation, the relaxed bit, masks where a form uses none. -/
theorem test_wf_vector : (Instr.vadd plainV).wf = true
    ∧ (Instr.vmulh plainV).wf = false
    ∧ (Instr.vand { plainV with etype := .se4 }).wf = false
    ∧ (Instr.vadd { plainV with fn := 1 }).wf = false
    ∧ (Instr.vadd { plainV with d := .q 1 }).wf = false
    ∧ (Instr.vadd { plainV with a := .y 1 }).wf = false
    ∧ (Instr.vadd { plainV with a := .row 0 0 0, etype := .f16 }).wf = false
    ∧ (Instr.vmin { plainV with rnd := .rup }).wf = false
    ∧ (Instr.vmin { plainV with sat := true }).wf = false
    ∧ (Instr.vadd { plainV with rlxo := true }).wf = false
    ∧ (Instr.vmand { plainV with nv := 1 }).wf = false
    ∧ (Instr.vmand plainV).wf = true := by decide

/-- A matrix word whose fields are all plain. -/
def plainM : MWord := ⟨0, 0, 0, 0, 0, 0, 0, 0, false, 0, 0, false, false, 0, 0, 0, 0, 0, 0, 0, 0⟩

/-- R171, R173, R325, R327, R330: fields a form does not use, strides, latches. -/
theorem test_wf_matrix : (Instr.mtok plainM).wf = true
    ∧ (Instr.mtok { plainM with slot := 1 }).wf = false
    ∧ (Instr.mtok { plainM with cls := 1 }).wf = false
    ∧ (Instr.mtok { plainM with tile := 1 }).wf = false
    ∧ (Instr.mret { plainM with nr := 1 }).wf = false
    ∧ (Instr.mdot plainM).wf = false ∧ (Instr.mdot { plainM with astr := 1 }).wf = true
    ∧ (Instr.mret { plainM with abase := 1 }).wf = false
    ∧ (Instr.mret { plainM with bbase := 1 }).wf = false
    ∧ (Instr.mdot { plainM with astr := 1, bsrc := 1 }).wf = false
    ∧ (Instr.mdot { plainM with astr := 1, bsrc := 2, btr := true }).wf = false
    ∧ (Instr.msbp { plainM with astr := 1, btr := true }).wf = false
    ∧ (Instr.mlatch plainM).wf = false ∧ (Instr.mlatch { plainM with bsrc := 3 }).wf = true
    ∧ (Instr.mret { plainM with bsrc := 2 }).wf = false := by decide

/-- R163: words that no table assigns, and words with a bit set that must be zero. -/
theorem test_unassigned : (∀ i, decodeScalar (0x37 * 2 ^ 19) ≠ .ok i) ∧ (∀ i, decodeScalar (0x01 * 2 ^ 19 + 13) ≠ .ok i)
    ∧ (∀ i, decodeScalar (0x2F * 2 ^ 19 + 1) ≠ .ok i) ∧ (∀ i, decodeScalar (0x30 * 2 ^ 19 + 6 * 2 ^ 16) ≠ .ok i)
    ∧ (∀ i, decodeVector (0x18 * 2 ^ 80) ≠ .ok i) ∧ (∀ i, decodeVector (0xE0 * 2 ^ 80 + 2 ^ 40) ≠ .ok i)
    ∧ (∀ i, decodeMatrix (0x03 * 2 ^ 184) ≠ .ok i) ∧ (∀ i, decodeMatrix (0x30 * 2 ^ 184 + 64) ≠ .ok i) := by
  refine ⟨?_, ?_, ?_, ?_, ?_, ?_, ?_, ?_⟩ <;> intro i h <;> cases h

/-! ### States -/

/-- A context of an unowned launch with a running clock, its registers and streams given. -/
def tCtx (r : Regs) : Ctx := { own := 4, clock := .run 0, regs := r, script := { ilk := false } }

/-- House cue 1000; core 0 holds a context on the stage, whose words run. -/
def tS (x : Ctx) : State :=
  { State.reset with cue := 1000, agenda := [], cores := [(0, { bank0 := some x })], cur := { sh := false } }

/-- Its stagehand runs. -/
def tH (r : Regs) : State :=
  { State.reset with cue := 1000, agenda := [], cores := [(0, { bank0 := some (tCtx {}), sh := r, shAwake := true })], cur := {} }

def tRegs : Regs := {
  g := [(1, 0xFFFFFFFE), (2, 7), (3, 0x80000000), (4, 0xFFFFFFFF), (6, 0x3FC00000)],
  x := [(1, 0xFFFFFFFF00000001), (2, 0x5000)], p := 0b0000_0101 }
def t0 : State := tS (tCtx tRegs)
def h0 : SHdr := ⟨0, 0, false⟩
/-- A guard that fails: p1 is false. -/
def h1 : SHdr := ⟨0, 1, false⟩

/-- What a word's write in flight of a g register is: its number, value and due cycle. -/
def gOf (i : Instr) (s : State) : Option (Nat × Word × Nat) :=
  match exec i s with
  | .next t => t.regs.pend.getLast?.bind (fun p => match p.w with | .g n v _ => some (n, v, p.due) | _ => none)
  | _ => none
def pOf (i : Instr) (s : State) : Option (Nat × Bool × Nat) :=
  match exec i s with
  | .next t => t.regs.pend.getLast?.bind (fun p => match p.w with | .p n v => some (n, v, p.due) | _ => none)
  | _ => none
def xOf (i : Instr) (s : State) : Option (Nat × DWord × Nat) :=
  match exec i s with
  | .next t => t.regs.pend.getLast?.bind (fun p => match p.w with | .x n v _ => some (n, v, p.due) | _ => none)
  | _ => none

/-- What became of a word. -/
def verdictOf (i : Instr) (s : State) : Option Verdict :=
  match exec i s with | .next t => some t.cur.verdict | _ => none

/-- A word has taken effect. -/
def went (i : Instr) (s : State) : Bool := verdictOf i s == some .went

/-- The state after. -/
def runOf (i : Instr) (s : State) : State := match exec i s with | .next t => t | _ => s

/-! ### Scalar words -/

/-- R204, by hand: wrap around, signed and unsigned order, shifts by the low five bits. -/
theorem test_integer : gOf (.add h0 5 1 2) t0 = some (5, 5, 1001) ∧ gOf (.sub h0 5 2 1) t0 = some (5, 9, 1001)
    ∧ gOf (.andn h0 5 4 2) t0 = some (5, 0xFFFFFFF8, 1001) ∧ gOf (.shl h0 5 2 4) t0 = some (5, 0x80000000, 1001)
    ∧ gOf (.shr h0 5 3 4) t0 = some (5, 1, 1001) := by decide +kernel
theorem test_shift_order : gOf (.sra h0 5 3 4) t0 = some (5, 0xFFFFFFFF, 1001)
    ∧ gOf (.min h0 5 1 2) t0 = some (5, 0xFFFFFFFE, 1001) ∧ gOf (.minu h0 5 1 2) t0 = some (5, 7, 1001)
    ∧ gOf (.max h0 5 1 2) t0 = some (5, 7, 1001) ∧ gOf (.maxu h0 5 1 2) t0 = some (5, 0xFFFFFFFE, 1001) := by decide +kernel

/-- R206, by hand: -2 * 7, high halves, the corner of the signed divide, remainders with the dividend's sign. -/
theorem test_multiply_divide : gOf (.mul h0 5 1 2) t0 = some (5, 0xFFFFFFF2, 1003)
    ∧ gOf (.mulh h0 5 1 2) t0 = some (5, 0xFFFFFFFF, 1003) ∧ gOf (.mulhu h0 5 1 2) t0 = some (5, 6, 1003)
    ∧ gOf (.div h0 5 3 4) t0 = some (5, 0x80000000, 1018) ∧ gOf (.rem h0 5 3 4) t0 = some (5, 0, 1018)
    ∧ gOf (.rem h0 5 1 2) t0 = some (5, 0xFFFFFFFE, 1018) ∧ gOf (.divu h0 5 1 2) t0 = some (5, 0x24924924, 1018) := by
  decide +kernel

/-- R207: a zero divisor (g0) traps with cause 0x0B. -/
theorem test_divide_by_zero : verdictOf (.divu h0 5 1 0) t0 = some (.trap 0x0B 0 0 0) := by decide +kernel

/-- R209, R212, R213: signed and unsigned compares; 1.5 + 1.5 = 3, 1.5 * 1.5 = 2.25, 1.5 * 1.5 + 1.5. -/
theorem test_compare_float : pOf (.clt h0 3 1 2) t0 = some (3, true, 1001) ∧ pOf (.cltu h0 3 1 2) t0 = some (3, false, 1001)
    ∧ pOf (.fcle h0 3 6 6) t0 = some (3, true, 1001) ∧ gOf (.fadd h0 5 6 6) t0 = some (5, 0x40400000, 1004)
    ∧ gOf (.fmul h0 5 6 6) t0 = some (5, 0x40100000, 1004) ∧ gOf (.fma h0 6 6 6) t0 = some (6, 0x40700000, 1004)
    ∧ gOf (.fdiv h0 5 6 6) t0 = some (5, 0x3F800000, 1014) ∧ gOf (.fcvti h0 5 6) t0 = some (5, 2, 1004)
    ∧ gOf (.fcvtiz h0 5 6) t0 = some (5, 1, 1004) ∧ gOf (.fneg h0 5 6) t0 = some (5, 0xBFC00000, 1004) := by decide +kernel

/-- R205, R211, R214, R215, by hand. -/
theorem test_immediates : gOf (.addi h0 5 2 500) t0 = some (5, 0xFFFFFFFB, 1001) ∧ gOf (.andi h0 5 4 0x100) t0 = some (5, 0xFFFFFF00, 1001)
    ∧ gOf (.ori h0 5 2 0x1F8) t0 = some (5, 0x1FF, 1001) ∧ gOf (.srai h0 5 3 31) t0 = some (5, 0xFFFFFFFF, 1001)
    ∧ xOf (.xadd h0 3 1 1) t0 = some (3, 0xFFFFFFFEFFFFFFFF, 1001) ∧ xOf (.xset h0 3 2 4) t0 = some (3, 0xFFFFFFFF00000007, 1001)
    ∧ gOf (.xhi h0 5 1) t0 = some (5, 0xFFFFFFFF, 1001) ∧ gOf (.liu h0 5 0x3FFF) t0 = some (5, 0xFFFC0000, 1001)
    ∧ gOf (.lim h0 4 0) t0 = some (4, 0xFFFC000F, 1001) ∧ gOf (.psave h0 5) t0 = some (5, 0x05, 1001) := by decide +kernel

/-- R157, R199: a failed guard and g0 write nothing; the stream goes on. -/
theorem test_guard : gOf (.add h1 5 1 2) t0 = none ∧ went (.add h1 5 1 2) t0 = true ∧ gOf (.add h0 0 1 2) t0 = none
    ∧ went (.add h0 0 1 2) t0 = true := by decide +kernel

/-! ### Hypotheses met: the step -/

/-- A scalar word goes: checked by evaluation. -/
def scalarGoesB (s : State) (h : SHdr) (f : Form) : Bool := s.guard h && (s.hasAgent && s.fate 0 true (f.guarded h) == .went)
theorem scalarGoesB_ok {s : State} {h : SHdr} {f : Form} (e : scalarGoesB s h f = true) : s.scalarGoes h f := by
  simpa [scalarGoesB, State.scalarGoes, State.goes] using e
def engineGoesB (s : State) (strm : Nat) (f : Form) : Bool := !s.cur.sh && (s.hasAgent && s.fate strm true f == .went)
theorem engineGoesB_ok {s : State} {n : Nat} {f : Form} (e : engineGoesB s n f = true) : s.engineGoes n f := by
  simpa [engineGoesB, State.engineGoes, State.goes] using e

theorem witness_ScalarRoundTrip : (Instr.cwr ⟨7, 7, true⟩ 31 0xFFF).wf = true ∧ scalarWord (.cwr ⟨7, 7, true⟩ 31 0xFFF) = true
    ∧ encodeScalar (.cwr ⟨7, 7, true⟩ 31 0xFFF) = some 0xFF8FDFFF := by decide
theorem witness_VectorRoundTrip : (Instr.vidle 15 0xFFFFF).wf = true ∧ vectorWord (.vidle 15 0xFFFFF) = true
    ∧ encodeVector (.vidle 15 0xFFFFF) = some (15 * 2 ^ 92 + 0xE8 * 2 ^ 80 + 0xFFFFF) := by decide
theorem witness_MatrixRoundTrip : (Instr.mnop 0xFFFFF).wf = true ∧ matrixWord (.mnop 0xFFFFF) = true
    ∧ encodeMatrix (.mnop 0xFFFFF) = some (0xFFFFF * 2 ^ 164) := by decide
theorem witness_DecodedWordsEncodeBack : decodeScalar 0 = .ok (.nop h0) ∧ decodeVector (0xE0 * 2 ^ 80) = .ok (.vscene 0)
    ∧ decodeMatrix (0xF1 * 2 ^ 184) = .ok (.msceneLast 0) := ⟨rfl, rfl, rfl⟩
theorem witness_EveryInstructionAnswers : t0.hasAgent = true ∧ t0.cur.sh = false ∧ scalarWord (.nop h0) = true
    ∧ vectorWord (.vidle 0 0) = true ∧ matrixWord (.mnop 0) = true ∧ scalarWord .kick = false := by decide
theorem witness_StepRunsEvent : (State.reset.agenda = [(0, .packageReset, {})]) ∧ (0 ≤ State.reset.cue)
    ∧ ((workCycle exec ({ State.reset with agenda := [(0, .kick, {})] } : State)).isNone = true)
    ∧ ((workCycle exec ({ t0 with agenda := [(0, .kick, {})], cores := [(0, { bank0 := some { tCtx tRegs with frozen := some .record } })] } : State)).isSome
      = true) := ⟨rfl, by decide, by decide +kernel, by decide +kernel⟩

/-- A word placed for the next step: ADD g1, g2, g3; DIV g1, g2, g0; FBPOP g3 of the stagehand. -/
def fS : State := placeWord State.reset 32 0x00084430
def fD : State := placeWord State.reset 32 0x00104404
def fH : State := placeWord State.reset 32 0x003B4003

/-- The states in which the one word of a bundle of core 0 is issued (BundleRunsWord). -/
def lineOf (s : State) (sh : Bool) : State := s.fetching 0 sh (s.codeOf 0 0 sh) 0
def issue0 (s : State) (sh : Bool) : State :=
  let s := lineOf s sh
  let u := s.setCur 0 sh false false ⟨0, 0, 0, none⟩ s.nextId
  { u with cur := { u.cur with late := none, ret := false } }
def issueU (s : State) (sh : Bool) (w : Nat) (i : Instr) : State :=
  let s0 := issue0 s sh
  (s0.modRegs (fun r => { r with str := { r.str with
    seqLine := (s0.nextPos (s.codeOf 0 0 sh) 0 0 0).1, seqSlot := (s0.nextPos (s.codeOf 0 0 sh) 0 0 0).2, redir := none } })).setCur
      0 sh false false ⟨0, 0, w, some i⟩ (lineOf s sh).nextId

/-- The hypotheses of BundleRunsWord for a word at line 0, slot 0 of core 0. -/
def bundleHyp (s : State) (sh : Bool) (w : Nat) (i : Instr) : Bool :=
  let k := s.codeOf 0 0 sh
  let t := (s.regsOf 0 0 sh).str
  let s0 := issue0 s sh
  s.stageOf 0 == 0 && t.line == 0 && t.slot == 0 && s0.nextWord k 0 t == some w && decodeFor 0 w == some i && !t.check
    && (match s0.bundleGo k (if !sh && !(((lineOf s sh).ctx 0 0).getD {}).hnd then s0.ctx 0 0 else none) 5 t.line t.slot with
      | [⟨0, 0, v, some j⟩] => v == w && j == i
      | _ => false)

theorem witness_BundleRunsWord : bundleHyp fS false 0x00084430 (.add h0 1 2 3) = true
    ∧ verdictOf (.add h0 1 2 3) (issueU fS false 0x00084430 (.add h0 1 2 3)) = some .went
    ∧ bundleHyp fD false 0x00104404 (.div h0 1 2 0) = true
    ∧ verdictOf (.div h0 1 2 0) (issueU fD false 0x00104404 (.div h0 1 2 0)) = some (.trap 0x0B 0 0 0)
    ∧ bundleHyp fH true 0x003B4003 (.fbpop h0 3) = true
    ∧ verdictOf (.fbpop h0 3) (issueU fH true 0x003B4003 (.fbpop h0 3)) = some .went := by decide +kernel

/-- The bundle of the first program whose cycle has one. -/
theorem witness_StepRunsProgramBundle : fS.cores.map (·.1) = [] ++ 0 :: [] ∧ (∀ e ∈ fS.agenda, fS.cue < e.1)
    ∧ (fS.work [0]).isNone = true ∧ (fS.core 0).shAt ≠ fS.cue + 1
    ∧ (firstCore (stagehandCycle exec fS) [0]).isNone = true
    ∧ (firstCore (programCycle exec fS) []).isNone = true
    ∧ (match fS.ctx 0 0 with
      | some x => fS.mayIssue 0 0 x && !x.hnd && fS.isDue (fS.codeOf 0 0 false) x 0 (x.lcue fS.cue)
          && (match fS.point (fS.codeOf 0 0 false) x (x.lcue fS.cue) with | .no => true | _ => false)
          && (let u := runBundle exec fS 0 false (!x.hnd && x.overran 0 x.regs.str)
            u.stageOf 0 == 0 && (match u.ctx 0 0 with | some y => y.hnd || (!y.vs.going && !y.ms.going) | none => true))
      | none => false) = true := by decide +kernel

/-- The same of a handler. -/
def fN : State := fS.modCtx 0 0 (fun x => { x with hnd := true, clock := .stopped 0 })
theorem witness_StepRunsProgramBundle_handler : fN.cores.map (·.1) = [] ++ 0 :: [] ∧ (∀ e ∈ fN.agenda, fN.cue < e.1)
    ∧ (fN.work [0]).isNone = true ∧ (fN.core 0).shAt ≠ fN.cue + 1 ∧ (firstCore (stagehandCycle exec fN) [0]).isNone = true
    ∧ (match fN.ctx 0 0 with
      | some x => fN.mayIssue 0 0 x && x.hnd && x.regs.str.going && decide (fN.dueAt (fN.codeOf 0 0 false) 0 x.regs.str ≤ fN.cue)
          && (match (runBundle exec fN 0 false (!x.hnd && x.overran 0 x.regs.str)).cur.verdict with | .freeze _ => false | _ => true)
      | none => false) = true := by decide +kernel

theorem witness_StepRunsStagehandBundle : fH.cores.map (·.1) = [] ++ 0 :: [] ∧ (∀ e ∈ fH.agenda, fH.cue < e.1)
    ∧ (fH.work [0]).isNone = true ∧ (fH.core 0).shWatch = none ∧ fH.shMay 0 = some false ∧ (fH.core 0).testDue fH.cue = none
    ∧ (fH.core 0).sh.str.going = true ∧ fH.dueAt (fH.codeOf 0 0 true) 0 (fH.core 0).sh.str ≤ fH.cue
    ∧ (match (runBundle exec fH 0 true false).cur.verdict with | .freeze _ => false | _ => true) = true := by decide +kernel

/-- A cycle that the stagehand takes from a program: the share register of the core allows it. -/
def fC : State := fH.modCore 0 (fun k => { k with bank0 := fS.ctx 0 0, share := 8 })
theorem witness_StepRunsStagehandBundle_share : (∀ e ∈ fC.agenda, fC.cue < e.1) ∧ (fC.work [0]).isNone = true
    ∧ (fC.core 0).testDue fC.cue = none ∧ (fC.core 0).shWatch = none
    ∧ fC.shMay 0 = some true ∧ (fC.core 0).sh.str.going = true
    ∧ fC.dueAt (fC.codeOf 0 0 true) 0 (fC.core 0).sh.str ≤ fC.cue := by decide +kernel

/-- VADD v3, v1, v2 at line 0 of the vector stream. -/
def fV : State := placeWord State.reset 96 (0x3 * 2 ^ 40 + 0x1 * 2 ^ 20 + 2)
def fVi : Instr := .vadd ⟨0, 0, false, .f32, 0, 0, .rne, false, false, false, 0, .v 3, .v 1, .v 2⟩
def fVf : State := fV.fetching 0 false (fV.codeOf 0 0 false) 0
theorem witness_EngineRunsWord : (match fV.ctx 0 0 with
    | some x => fV.runs 0 0 x && fV.isDue (fV.codeOf 0 0 false) x 1 (x.lcue fV.cue)
      && fVf.nextWord (fV.codeOf 0 0 false) 1 x.vs == some (0x3 * 2 ^ 40 + 0x1 * 2 ^ 20 + 2)
      && decodeFor 1 (0x3 * 2 ^ 40 + 0x1 * 2 ^ 20 + 2) == some fVi && !x.vs.check && x.vs.atRef
      && went fVi ((fVf.modCtx 0 0 (·.setStream 1 { x.vs with
          seqLine := (fVf.nextPos (fV.codeOf 0 0 false) 1 0 0).1
          seqSlot := (fVf.nextPos (fV.codeOf 0 0 false) 1 0 0).2 })).setCur 0 false false (x.overran 1 x.vs)
            ⟨0, 0, 0x3 * 2 ^ 40 + 0x1 * 2 ^ 20 + 2, some fVi⟩ fV.nextId)
    | none => false) = true := by decide +kernel

/-! ### Hypotheses met: registers and reset -/

/-- R199, at the last register of each file. -/
theorem test_registers : (tRegs.setG 31 9).gAt 31 = 9 ∧ (tRegs.setG 31 9).gAt 1 = 0xFFFFFFFE ∧ tRegs.setG 0 9 = tRegs
    ∧ (tRegs.setP 7 true).pAt 7 = true ∧ (tRegs.setP 7 true).pAt 2 = true ∧ (tRegs.setX 7 3).xAt 7 = 3
    ∧ (tRegs.setB 7 3 9).bAt' 7 = 3 := by decide
theorem witness_RegisterFile : (31 : Nat) ≠ 0 ∧ (30 : Nat) ≠ 31 ∧ (7 : Nat) ≠ 0 ∧ (7 : Nat) < 8 ∧ (6 : Nat) ≠ 7 ∧ (6 : Nat) < 8 := by decide
theorem witness_ResetValues : (1 : Nat) < 2 ∧ ({} : Regs).tokst 1 = 0xFFFFFFFF := by decide
theorem witness_StepKeepsMemories : State.reset.MemWf ∧ Out.ok (step State.reset) := by
  refine ⟨⟨rfl, ?_, ?_⟩, _, rfl⟩ <;> intro e h <;> cases h

/-! ### Hypotheses met: scalar words -/

theorem t0_ready (reads writes consumed : List Nat) : t0.Ready reads writes consumed :=
  ⟨by decide, rfl, fun _ h => absurd h (List.not_mem_nil), fun h => absurd h (by decide), fun _ _ => rfl⟩

/-- The first word of each table, with guard p0. -/
theorem witness_IntegerWords : ∃ e ∈ integerTable, (e.1 h0 5 1 2 = Instr.add h0 5 1 2)
    ∧ t0.Ready [codeP 0, codeG 1, codeG 2] [codeG 5] [codeG 1, codeG 2] :=
  ⟨_, List.mem_cons_self, rfl, t0_ready _ _ _⟩
theorem witness_MultiplyAndDivideWords : (∃ e ∈ multiplyTable, e.1 h0 5 1 2 = Instr.mul h0 5 1 2)
    ∧ (∃ e ∈ divideTable, e.1 h0 5 1 2 = Instr.div h0 5 1 2) ∧ t0.g 2 ≠ 0
    ∧ t0.Ready [codeP 0, codeG 1, codeG 2] [codeG 5] [codeG 1, codeG 2] :=
  ⟨⟨_, List.mem_cons_self, rfl⟩, ⟨_, List.mem_cons_self, rfl⟩, by decide, t0_ready _ _ _⟩
theorem witness_DivideByZero : (∃ e ∈ divideTable, e.1 h0 5 1 0 = Instr.div h0 5 1 0) ∧ t0.g 0 = 0 ∧ t0.guard h0 = true ∧ t0.cur.sh = false
    ∧ t0.Ready [codeP 0, codeG 1, codeG 0] [codeG 5] [codeG 1, codeG 0]
    ∧ guardOf (.add h0 5 1 2) = some h0 ∧ (∀ e ∈ divideTable, ∀ d a b, Instr.add h0 5 1 2 ≠ e.1 h0 d a b)
    ∧ t0.cur.late = none ∧ went (.add h0 5 1 2) t0 = true := by
  refine ⟨⟨_, List.mem_cons_self, rfl⟩, by decide, by decide, rfl, t0_ready _ _ _, rfl, ?_, rfl, by decide +kernel⟩
  intro e he d a b
  simp only [divideTable, List.mem_cons, List.not_mem_nil, or_false] at he
  rcases he with rfl | rfl | rfl | rfl <;> simp
theorem witness_CompareWords : (∃ e ∈ compareTable, e.1 h0 3 1 2 = Instr.ceq h0 3 1 2) ∧ (∃ e ∈ compareImmTable, e.1 h0 3 1 2 = Instr.ceqi h0 3 1 2)
    ∧ t0.Ready [codeP 0, codeG 1, codeG 2] [codeP 3] [codeG 1, codeG 2] ∧ t0.Ready [codeP 0, codeG 1] [codeP 3] [codeG 1] :=
  ⟨⟨_, List.mem_cons_self, rfl⟩, ⟨_, List.mem_cons_self, rfl⟩, t0_ready _ _ _, t0_ready _ _ _⟩
theorem witness_PredicateWords : (∃ e ∈ predicateTable, e.1 h0 3 1 2 = Instr.pand h0 3 1 2)
    ∧ t0.Ready [codeP 0, codeP 1, codeP 2] [codeP 3] [codeP 1, codeP 2] ∧ t0.Ready [codeP 0, codeP 1] [codeP 3] [codeP 1]
    ∧ t0.Ready (codeP 0 :: (upFrom 1 7).map codeP) [codeG 5] ((upFrom 1 7).map codeP)
    ∧ t0.Ready [codeP 0, codeG 1] ((upFrom 1 7).map codeP) [codeG 1] :=
  ⟨⟨_, List.mem_cons_self, rfl⟩, t0_ready _ _ _, t0_ready _ _ _, t0_ready _ _ _, t0_ready _ _ _⟩
theorem witness_FloatWords : (∃ e ∈ floatTable, e.1 h0 5 6 6 = Instr.fadd h0 5 6 6) ∧ (∃ e ∈ floatOneTable, e.1 h0 5 6 = Instr.fabs h0 5 6)
    ∧ t0.Ready [codeP 0, codeG 6, codeG 6] [codeG 5] [codeG 6, codeG 6] ∧ t0.Ready [codeP 0, codeG 6] [codeG 5] [codeG 6]
    ∧ t0.Ready [codeP 0, codeG 6, codeG 6, codeG 5] [codeG 5] [codeG 6, codeG 6, codeG 5] :=
  ⟨⟨_, List.mem_cons_self, rfl⟩, ⟨_, List.mem_cons_self, rfl⟩, t0_ready _ _ _, t0_ready _ _ _, t0_ready _ _ _⟩
theorem witness_ImmediateAndAddressWords : (∃ e ∈ immediateTable, e.1 h0 5 1 0x100 = Instr.addi h0 5 1 0x100)
    ∧ (∃ e ∈ shiftTable, e.1 h0 5 1 31 = Instr.shli h0 5 1 31)
    ∧ t0.Ready [codeP 0, codeG 1] [codeG 5] [codeG 1] ∧ t0.Ready [codeP 0, codeX 1, codeG 1] [codeX 7] [codeX 1, codeG 1]
    ∧ t0.Ready [codeP 0, codeG 1, codeG 2] [codeX 7] [codeG 1, codeG 2] ∧ t0.Ready [codeP 0, codeX 1] [codeG 5] [codeX 1]
    ∧ t0.Ready [codeP 0, codeX 1] [codeX 7] [codeX 1] ∧ t0.Ready [codeP 0] [codeG 5] [] ∧ t0.Ready [codeP 0, codeG 5] [codeG 5] [codeG 5] :=
  ⟨⟨_, List.mem_cons_self, rfl⟩, ⟨_, List.mem_cons_self, rfl⟩, t0_ready _ _ _, t0_ready _ _ _, t0_ready _ _ _, t0_ready _ _ _,
    t0_ready _ _ _, t0_ready _ _ _, t0_ready _ _ _⟩
theorem witness_FailedGuard : guardOf (.add h1 5 1 2) = some h1 ∧ t0.guard h1 = false ∧ t0.cur.sh = false ∧ went (.add h1 5 1 2) t0 = true := by
  decide +kernel
theorem witness_RetirementMovesTheStream : ({ t0 with cur := { t0.cur with more := true } } : State).cur.more = true ∧ t0.cur.more = false
    ∧ t0.cur.ret = false ∧ t0.cur.late = none ∧ t0.hasAgent = true
    ∧ (tS { tCtx tRegs with hnd := true }).timed = false ∧ t0.timed = true ∧ t0.regs.str.redir = none
    ∧ (tS (tCtx { tRegs with str := { redir := some 0x64 } })).regs.str.redir = some 0x64 := by decide

/-- A core whose scratchpad blocks 0 and 0x7F0000 belong to the context, with a word at 0x1000, a window, a page
of the address space, loop level 0 temporal, and a binding of p0 to b1. -/
def mRegs : Regs := {
  g := [(1, 0x1000), (2, 7), (3, 0x00800000), (4, 0x10000000), (5, 0x0083FFFC), (6, 0x00000FFC), (7, 0xFFFFFFFF)]
  x := [(1, 0x5000), (2, 0x5008)], framesz := 64, frameptr := 32, spill := [(33, 9)], b := [(1, 0), (7, 0)] }
def mCtx : Ctx := { tCtx mRegs with
  wintab := [(1, 0x1000000), (2, 0x40000), (3, 4)]
  looptab := [(0, 0), (1, 0)] }
def mS : State :=
  { State.reset with cue := 1000, agenda := [], cur := { sh := false }
                     cores := [(0, { bank0 := some mCtx, otag := [(0, 4)], sp := [(0xFFC, 1), (0x1000, 0x34), (0x1001, 0x12)]
                                     tlb := [⟨0, 0, 65536, 0x20000, 4, true, 0, true⟩] })] }

/-- R217, by hand: bytes lowest first, extended with zeros, after three cycles; the old values of atomics. -/
theorem test_loads : gOf (.ldw h0 8 1 0 0) mS = some (8, 0x1234, 1003) ∧ gOf (.ldb h0 8 1 0 1) mS = some (8, 0x12, 1003)
    ∧ gOf (.ldh h0 8 6 0 2) mS = some (8, 0x1234, 1003) ∧ gOf (.ldw h0 8 3 0 0) mS = some (8, 0, 1006)
    ∧ gOf (.spl h0 8 0) mS = some (8, 0x900, 1001) := by decide +kernel

theorem witness_ScratchpadLoads : (∃ e ∈ loadTable, e.1 h0 8 1 0 0 = Instr.ldb h0 8 1 0 0 ∧ e.2 = 1)
    ∧ (∀ n ∈ [1, 2, 4], mS.scalarGoes h0 (smLoadForm n 8 1 14 0 mS)) ∧ (8 : BitVec 5) ≠ 0 ∧ regionOf (mS.smAddr 1 0 4) = .sp
    ∧ mS.scalarGoes h0 (smLoadForm 4 8 5 0 0 mS) ∧ (regionOf (mS.smAddr 5 0 4)).isView = true
    ∧ mS.scalarGoes h0 (smLoadForm 4 0 1 0 0 mS) := by
  refine ⟨⟨_, List.mem_cons_self, rfl, rfl⟩, ?_, by decide, by decide, scalarGoesB_ok (by decide +kernel), by decide,
    scalarGoesB_ok (by decide +kernel)⟩
  intro n h
  simp only [List.mem_cons, List.not_mem_nil, or_false] at h
  rcases h with rfl | rfl | rfl <;> exact scalarGoesB_ok (by decide +kernel)
theorem witness_ScratchpadStores : (∃ e ∈ storeTable, e.1 h0 8 1 0 0 = Instr.stb h0 8 1 0 0 ∧ e.2 = 1)
    ∧ (∀ n ∈ [1, 2, 4], mS.scalarGoes h0 (smStoreForm n 2 1 14 0 mS)) ∧ regionOf (mS.smAddr 1 0 4) = .sp
    ∧ mS.scalarGoes h0 (smStoreForm 4 2 5 0 0 mS) ∧ (regionOf (mS.smAddr 5 0 4)).isView = true
    ∧ mS.scalarGoes h0 (smStoreForm 2 2 4 0 0 mS) ∧ regionOf (mS.smAddr 4 0 2) = .win
    ∧ mS.scalarGoes h0 (smStoreForm 4 2 4 0 0 mS) ∧ regionOf (mS.smAddr 4 0 4) = .win := by
  refine ⟨⟨_, List.mem_cons_self, rfl, rfl⟩, ?_, by decide, scalarGoesB_ok (by decide +kernel), by decide,
    scalarGoesB_ok (by decide +kernel), by decide, scalarGoesB_ok (by decide +kernel), by decide⟩
  intro n h
  simp only [List.mem_cons, List.not_mem_nil, or_false] at h
  rcases h with rfl | rfl | rfl <;> exact scalarGoesB_ok (by decide +kernel)
theorem witness_GlobalAccesses : mS.scalarGoes h0 (globalLoadForm 4 (codeG 31) 1 14 63 mS) ∧ mS.scalarGoes h0 (globalStoreForm 4 (codeG 2) 1 0 0 mS)
    ∧ (∃ e ∈ globalAtomicTable, e.1 h0 2 1 0 1 true = Instr.gadd h0 2 1 0 1 true ∧ e.2 = 0)
    ∧ (∀ n ∈ [0, 1, 2, 3], mS.scalarGoes h0 (globalAtomicForm n 2 1 0 1 mS))
    ∧ mS.scalarGoes h0 (globalLoadForm 8 (codeX 7) 2 0 5 mS) ∧ mS.scalarGoes h0 (globalStoreForm 8 (codeX 1) 2 0 5 mS) := by
  refine ⟨scalarGoesB_ok (by decide +kernel), scalarGoesB_ok (by decide +kernel), ⟨_, List.mem_cons_self, rfl, rfl⟩, ?_,
    scalarGoesB_ok (by decide +kernel), scalarGoesB_ok (by decide +kernel)⟩
  intro n h
  simp only [List.mem_cons, List.not_mem_nil, or_false] at h
  rcases h with rfl | rfl | rfl | rfl <;> exact scalarGoesB_ok (by decide +kernel)
theorem witness_AccessJoins : mS.hasAgent = true ∧ (63 : Nat) < 64 ∧ (63 : Nat) ≠ 0 := by decide
/-- The same core in a handler. -/
def mH : State := mS.modCtx 0 0 (fun x => { x with hnd := true })
theorem witness_LocalAtomics : (∃ e ∈ localAtomicTable, e.1 h0 2 1 0 0 = Instr.aadd h0 2 1 0 0 ∧ e.2.1 = false)
    ∧ mS.scalarGoes h0 (localAtomicForm false 2 1 14 0 mS) ∧ mS.scalarGoes h0 (localAtomicForm true 30 1 0 0 mS) ∧ mS.timed = true
    ∧ mH.scalarGoes h0 (localAtomicForm false 2 1 0 0 mH) ∧ mH.timed = false
    ∧ mS.hasAgent = true ∧ mS.guard h1 = false ∧ mS.fate 0 false ((localAtomicForm false 2 1 0 0 mS).guarded h1) = .went :=
  ⟨⟨_, List.mem_cons_self, rfl, rfl⟩, scalarGoesB_ok (by decide +kernel), scalarGoesB_ok (by decide +kernel), by decide,
    scalarGoesB_ok (by decide +kernel), by decide, by decide, by decide, by decide +kernel⟩
/-- R225, by hand: the old word 0x1234 and the new ones in cycle issue + 2. -/
def atomOf (i : Instr) : Option (List Nat × Option (Nat × Nat)) :=
  match exec i mS with
  | .next t => some (t.regs.pend.map (·.due), t.regs.pend.findSome? (fun p => match p.w with
      | .sp _ cells _ => some (p.due, ofLe (cells.map (·.2)))
      | _ => none))
  | _ => none
theorem test_local_atomics : atomOf (.aadd h0 2 1 0 0) = some ([1003, 1003], some (1003, 0x123B))
    ∧ atomOf (.amin h0 2 1 0 0) = some ([1003, 1003], some (1003, 7)) ∧ atomOf (.amax h0 2 1 0 0) = some ([1003, 1003], some (1003, 0x1234))
    ∧ atomOf (.aor h0 2 1 0 0) = some ([1003, 1003], some (1003, 0x1237)) ∧ atomOf (.aswap h0 2 1 0 0) = some ([1003, 1003], some (1003, 7))
    ∧ gOf (.acas h0 2 1 0 0) mS = none := by decide +kernel
/-- The last word of a frame of 64 bytes. -/
theorem witness_SpillWords : mS.scalarGoes h0 (splForm 8 15 mS) ∧ (8 : BitVec 5) ≠ 0 ∧ mS.scalarGoes h0 (splForm 0 0 mS)
    ∧ mS.scalarGoes h0 (spsForm 2 15 mS) :=
  ⟨scalarGoesB_ok (by decide +kernel), by decide, scalarGoesB_ok (by decide +kernel), scalarGoesB_ok (by decide +kernel)⟩
theorem witness_WritesInFlight : (false = false → (mS.ctx 0 0).isSome = true) ∧ (31 : Nat) ≠ 0 ∧ (30 : Nat) ≠ 31
    ∧ (7 : Nat) ≠ 0 ∧ (7 : Nat) < 8 ∧ (6 : Nat) ≠ 7 ∧ (1 : Nat) ≠ 0 := by decide
theorem witness_WritesInFlight_engines : (([(tkey plainM 0 0, (1 : Word)), (tkey plainM 63 63, 2)] : List (Nat × Word)).map (·.1)).Nodup
    ∧ (List.replicate 16384 (0 : Byte)).length = 16384 ∧ Memory.wf ((mS.ctx 0 0).getD {}).klatch = true ∧ (1 : Nat) < 2
    ∧ (List.replicate 516 (0 : Byte)).length = 516 := by
  refine ⟨by decide, List.length_replicate, rfl, by decide, List.length_replicate⟩

/-! ### Hypotheses met: control transfer, control registers, waiting, traps -/

/-- The code of `fS`, with b1 and b7 at line 0, slot 0, a target. -/
def bS : State := { fS with cur := { fS.cur with sh := false } }
theorem witness_ControlTransfer : bS.scalarGoes h0 { writes := [codeB 7] } ∧ bS.scalarGoes h0 (brForm 1 bS) ∧ bS.scalarGoes h0 (callForm 1 bS)
    ∧ bS.scalarGoes h0 (retForm bS) :=
  ⟨scalarGoesB_ok (by decide +kernel), scalarGoesB_ok (by decide +kernel), scalarGoesB_ok (by decide +kernel), scalarGoesB_ok (by decide +kernel)⟩
/-- Level 5 of `lS` is temporal, not active: LSTART goes. -/
def lS : State := tS { tCtx tRegs with looptab := [(60, 1), (61, 4), (62, 100)] }
theorem witness_LoopStart : lS.scalarGoes h0 { sched := !lS.lstartOk 5 } ∧ lS.lstartOk 5 = true :=
  ⟨scalarGoesB_ok (by decide +kernel), by decide⟩
theorem witness_ControlRegisterWords : t0.cur.sh = false ∧ t0.scalarGoes h0 (crdForm 5 0x011 t0)
    ∧ t0.scalarGoes h0 (cwrForm 2 0x011 t0) ∧ t0.Ready [codeP 0, codeG 1] [codeG 1] [codeG 1] :=
  ⟨rfl, scalarGoesB_ok (by decide +kernel), scalarGoesB_ok (by decide +kernel), t0_ready _ _ _⟩
/-- An interlocked context: the word at x1 reads 0, equal to g8 and not to g2. -/
def wS : State := mS.modCtx 0 0 (fun x => { x with script := { x.script with ilk := true } })
theorem witness_FencesAndWaits : wS.scalarGoes h0 { illegal := !wS.cur.sh && (0x7FFF : BitVec 16).getLsbD 15 } ∧ wS.cur.sh = false
    ∧ wS.scalarGoes h0 (waitvForm 2 1 0 wS) ∧ wS.scalarGoes h0 (waitvForm 8 1 14 wS) ∧ wS.hasAgent = true
    ∧ wS.scalarGoes ⟨7, 0, false⟩ {} ∧ t0.Ready [codeP 0] [] [] :=
  ⟨scalarGoesB_ok (by decide +kernel), rfl, scalarGoesB_ok (by decide +kernel), scalarGoesB_ok (by decide +kernel), by decide,
    scalarGoesB_ok (by decide +kernel), t0_ready _ _ _⟩

/-- A handler that may return; a program whose handler has its vector. -/
def hCtx : Ctx := { tCtx tRegs with hnd := true, tvec := 0x40, elcue := 500, tau := 600, epcs := 0x64, saved := { ss := { present := true } } }
def hS : State := tS hCtx
def vS : State := tS { tCtx tRegs with tvec := 0x40 }
/-- Handlers whose saved words fail a check: `ESTATUS` bit 28, bit 16, `ELCUE` past `τ`. -/
def hBad (n : Nat) : State :=
  tS { hCtx with estatus := if n = 0 then 0x10000000 else if n = 1 then 0x10000 else 0, elcue := if n = 2 then 601 else 500 }
theorem hBad_ready (n : Nat) : (hBad n).Ready [codeP 0] [] [] :=
  ⟨rfl, rfl, fun _ h => absurd h (List.not_mem_nil), fun _ p h => absurd (show p ∈ [] from h) (List.not_mem_nil),
    fun _ h => absurd h (List.not_mem_nil)⟩
theorem tgS_ready (v : Word) : (tH { g := [(1, v)] }).Ready [codeP 0] [] [] :=
  ⟨rfl, rfl, fun _ h => absurd h (List.not_mem_nil), fun _ p h => absurd (show p ∈ [] from h) (List.not_mem_nil),
    fun _ h => absurd h (List.not_mem_nil)⟩
/-- A trap of an earlier word of the bundle is noted: its cause and code. -/
def tLate (n : Nat) : State := { t0 with cur := { t0.cur with late := some (n, 3) } }
theorem witness_TrapWords : hS.cur.sh = false ∧ hS.me.tretOk = true ∧ hS.scalarGoes h0 (tretForm hS)
    ∧ t0.Ready [codeP 0] [] [] ∧ t0.guard h0 = true ∧ t0.me.tretOk = false
    ∧ (∀ n, n < 3 → (hBad n).guard h0 = true ∧ (hBad n).cur.sh = false ∧ (hBad n).me.hnd = true ∧ (hBad n).me.tretOk = false)
    ∧ (tH { g := [(1, 0)] }).guard h0 = true ∧ (tH { g := [(1, 0)] }).cur.sh = true
    ∧ t0.cur.late = none ∧ t0.scalarGoes h0 {} := by
  refine ⟨rfl, by decide, scalarGoesB_ok (by decide +kernel), t0_ready _ _ _, by decide, by decide, ?_, by decide, rfl, rfl,
    scalarGoesB_ok (by decide +kernel)⟩
  intro n h
  match n, h with
  | 0, _ => decide
  | 1, _ => decide
  | 2, _ => decide
theorem witness_TrapWords_late : (∀ n, n = 0x12 ∨ n = 0x0E → (tLate n).cur.late = some (n, 3) ∧ (tLate n).scalarGoes h0 {}
      ∧ (tLate n).cur.more = false ∧ (tLate n).cur.ret = false ∧ (tLate n).cur.sh = false ∧ (tLate n).hasAgent = true)
    ∧ (let r : State := { hS with cur := { hS.cur with ret := true } }
      r.cur.more = false ∧ r.cur.ret = true ∧ r.cur.late = none ∧ r.cur.sh = false) := by
  refine ⟨?_, rfl, rfl, rfl, rfl⟩
  rintro n (rfl | rfl) <;> exact ⟨rfl, scalarGoesB_ok (by decide +kernel), rfl, rfl, rfl, rfl⟩
theorem witness_TrapEntry : ((vS.drain 0 0).ctx 0 0).isSome = true ∧ (∀ y, vS.ctx 0 0 = some y → y.tvec ≠ 0 ∧ y.hnd = false) := by
  refine ⟨by decide, fun y h => ?_⟩
  cases h
  exact ⟨by decide, rfl⟩
theorem witness_UnhandledTrap : ((t0.drain 0 0).ctx 0 0).isSome = true ∧ (∃ y, t0.ctx 0 0 = some y ∧ y.tvec = 0 ∧ y.hnd = false)
    ∧ ((hS.drain 0 0).ctx 0 0).isSome = true ∧ (∃ y, hS.ctx 0 0 = some y ∧ y.hnd = true) :=
  ⟨by decide, ⟨_, rfl, by decide, rfl⟩, by decide, ⟨_, rfl, rfl⟩⟩
/-- A trap of `vS` in cycle 1000; its entry ends 24 cycles later. -/
def eS : State := { vS.enterTrap 0 0 7 0 0x123 0 with cue := 1024, ev := {} }
theorem test_trap_entry : ((vS.enterTrap 0 0 7 0 0x123 0).ctx 0 0).map (fun x => (bits x.estatus.toNat 7 0, x.einfo, x.elcue, x.hnd))
    = some (7, 0x123, 1000, true) := by decide +kernel
theorem test_trap_return : ((hCtx.resume 2000).hnd, (hCtx.resume 2000).lcue 2001, (hCtx.resume 2000).regs.str.target32)
    = (false, 500, 0x64) := by decide +kernel
theorem witness_HandlerStartAndReturn : (∃ x, eS.ctx 0 0 = some x ∧ x.entry = some (eS.cue, none)) ∧ eS.ev.core = 0 ∧ eS.ev.bank = 0
    ∧ hCtx.elcue.toNat ≤ 2000 ∧ hCtx.saved.ss.present = true
    ∧ ({ hCtx with saved := { vs := { present := true } } } : Ctx).saved.vs.present = true
    ∧ ({ hCtx with saved := { ms := { present := true } } } : Ctx).saved.ms.present = true :=
  ⟨⟨_, rfl, by decide +kernel⟩, rfl, rfl, by decide, rfl, rfl, rfl⟩
/-- A handler that returns by a restart, with level 5 active at the restart point. -/
def rCtx : Ctx := { hCtx with estatus := 0x100000, rpCue := 1001, rp := { ss := { present := true }, levels := [(5, { active := true, count := 3 })] } }
theorem witness_HandlerStartAndReturn_tret : hS.ctx 0 0 = some hCtx ∧ bitAt hCtx.estatus.toNat 20 = false ∧ hCtx.after = false
    ∧ (tS rCtx).ctx 0 0 = some rCtx ∧ bitAt rCtx.estatus.toNat 20 = true ∧ rCtx.rpCue ≤ (tS rCtx).cue + 1
    ∧ (rCtx.rp.levels.get {} 5).active = true ∧ (rCtx.rp.levels.get {} 0).active = false := by
  refine ⟨rfl, by decide, rfl, rfl, by decide, by decide, by decide, by decide⟩
/-- R383, by hand: the local cue of the next cycle is that of the restart point, and the handler is over. -/
theorem test_trap_restart : (((tS rCtx).tret 0 0).ctx 0 0).map (fun x => (x.hnd, x.lcue 1001, (x.levels.get {} 5).count))
    = some (false, 1001, 3) := by decide +kernel

/-! ### Hypotheses met: the stagehand's words -/

/-- The stagehand runs, its g registers given; a second context stands in bank 1. -/
def sH (g : Tab Word) (x : Tab DWord) : State :=
  let s := tH { g := g, x := x }
  s.modCore 0 (fun k => { k with bank1 := some (tCtx {}) })

theorem witness_StagehandWordsRefusedToPrograms : stagehandForm (.fbpop h0 3) = true ∧ t0.hasAgent = true ∧ t0.cur.sh = false := by decide

def tgS (v : Word) : State := sH [(1, v)] []
theorem witness_StagehandWords_blocks : (tgS 0x9B9B).cur.sh = true ∧ (tgS 0x9B9B).scalarGoes h0 ((tgS 0x9B9B).shForm h0 1 63 (blockRangeBad 0x9B9B))
    ∧ (tgS 0x37F00).scalarGoes h0 (tagsetForm h0 5 1 (tgS 0x37F00))
    ∧ (∀ n ∈ upFrom (bits 0x37F00 6 0) (bits 0x37F00 14 8 + 1 - bits 0x37F00 6 0), ((tgS 0x37F00).core 0).spBlk.get .lit n = .lit)
    ∧ bitAt 0x37F00 19 = false
    ∧ bitAt 0x80101 19 = true ∧ (tgS 0x80101).scalarGoes h0 (tagsetForm h0 5 1 (tgS 0x80101))
    ∧ (tgS 7).scalarGoes h0 (selftestForm h0 5 1 (tgS 7))
    ∧ (tgS 2).scalarGoes h0 (aligncForm h0 5 1 (tgS 2)) := by
  refine ⟨rfl, scalarGoesB_ok (by decide +kernel), scalarGoesB_ok (by decide +kernel), by decide +kernel, by decide, by decide,
    scalarGoesB_ok (by decide +kernel), scalarGoesB_ok (by decide +kernel), scalarGoesB_ok (by decide +kernel)⟩
def fbS : State := (tgS 0).setDie 0 { fbuf := [⟨0x40, 1, 2, 3, 4, 5⟩] }
theorem witness_StagehandWords_records : (fbS.die (dieOf fbS.cur.core)).fbuf = ⟨0x40, 1, 2, 3, 4, 5⟩ :: []
    ∧ (fbS.die (dieOf fbS.cur.core)).fbheld = [] ∧ fbS.scalarGoes h0 { writes := [codeG 31] }
    ∧ ((tgS 0).die (dieOf (tgS 0).cur.core)).fbuf = [] ∧ (tgS 0).scalarGoes h0 { writes := [codeG 31] }
    ∧ (tgS 9).scalarGoes h0 { reads := [codeG 1], consumed := [codeG 1] } := by
  refine ⟨by decide, by decide, scalarGoesB_ok (by decide +kernel), by decide, scalarGoesB_ok (by decide +kernel), scalarGoesB_ok (by decide +kernel)⟩
theorem witness_StagehandWords_tlbinv : (tgS 6).cur.sh = true ∧ (tgS 6).scalarGoes h0 (tlbinvForm h0 63 1 1 (tgS 6))
    ∧ (∀ c, (c = (tgS 6).cur.core ∨ (bitAt 6 2 = true ∧ dieOf c = dieOf (tgS 6).cur.core)) → ((tgS 6).core c).cmds = [])
    ∧ ((tgS 6).die (dieOf (tgS 6).cur.core)).pool = [] := by
  refine ⟨rfl, scalarGoesB_ok (by decide +kernel), ?_, by decide⟩
  intro c _
  by_cases h : c = 0
  · subst h; rfl
  · have h' : ¬ (0 = c) := fun e => h e.symm
    simp [tgS, sH, tH, State.modCore, State.setCore, State.core, Tab.get, Tab.put, h']
theorem witness_StagehandWords_ctxpark : ∃ x y, (tgS 0).ctx 0 (bits 0 2 2) = some x ∧ ((tgS 0).core 0).stage = bits 0 2 2
    ∧ (tgS 0).ctx 0 (1 - bits 0 2 2) = some y ∧ y.runnable = true ∧ (tgS 0).scalarGoes h0 (ctxparkForm h0 5 1 (tgS 0)) :=
  ⟨_, _, rfl, rfl, rfl, by decide, scalarGoesB_ok (by decide +kernel)⟩
/-- A descriptor of an open context at 0x4000 of die 0's cluster SRAM; bank 1 is empty. -/
def crS : State := { tH { g := [(1, 3)], x := [(1, 0x4000)] } with
  phys := Memory.writeN (Memory.writeN [] 0x4000 (toLe 8 0xFF01474D4943)) (0x4000 + 64 + 8) [1] }
theorem witness_StagehandWords_ctxrun : (crS.core 0).bank 1 = none ∧ crS.descError 0x4000 true = none
    ∧ crS.peek (0x4000 + 5) 1 = 0xFF ∧ (∀ d, d < 8 → crS.peek (0x4000 + 8 + d) 1 = 0)
    ∧ crS.scalarGoes h0 (ctxrunForm h0 5 1 1 crS) := by
  refine ⟨rfl, by decide +kernel, by decide +kernel, by decide +kernel, scalarGoesB_ok (by decide +kernel)⟩

/-! ### Hypotheses met: copies and scenes -/

/-- A record at 0x1000 with destination, `D0`, `CTRL`, `PARAM`; x1 holds a source address, g1 the record's. -/
def cS (dst d0 ctrl param : Nat) : State :=
  { State.reset with cue := 1000, agenda := [], cur := { sh := false }
                     cores := [(0, { bank0 := some (tCtx { g := [(1, 0x1000)], x := [(1, 0x5000)] }), otag := [(0, 4)]
                                     sp := Memory.writeN [] 0x1000 (toLe 64 (dst + d0 * 2 ^ 64 + 2 ^ 80 + 2 ^ 96 + 2 ^ 112 + ctrl * 2 ^ 320
                                       + param * 2 ^ 384)) })] }
def goesC (op : Nat) (s : State) : Bool := scalarGoesB s h0 (copyForm op 63 1 1 s)

/-- A binding record at 0x1000: 128 f32 elements from 0x2000. -/
def qS : State := (cS 0 0 0 0).modCore 0 (fun k => { k with
  sp := Memory.writeN [] 0x1000 (toLe 64 (0x2000 + 128 * 2 ^ 32 + 2 ^ 48 + 2 ^ 64 + 2 ^ 80)) })
/-- A record for each command: CTRL 0x1000 is a core-local destination. -/
theorem witness_CopyCommands : goesC 0x00 (cS 0x2000 4 0x1000 0) = true ∧ goesC 0x01 (cS 0x2000 4 0x1000 0) = true
    ∧ goesC 0x02 (cS 0x2000 4 0x1020 0) = true ∧ goesC 0x03 (cS 0x2000 4 0x10A0 0x2100) = true
    ∧ goesC 0x04 (cS 0x2000 16 0x10A0 (0x2100 + 2 ^ 64)) = true ∧ goesC 0x05 (cS 0x2000 32 0x100A 0) = true
    ∧ goesC 0x06 (cS 0x2000 8 0x1022 8) = true ∧ goesC 0x07 (cS 0x2000 8 0x1022 8) = true := by decide +kernel
theorem witness_CopyCommands_more : goesC 0x08 (cS 0x2000 8 0x1022 8) = true
    ∧ goesC 0x09 (cS 0x2000 8 0x1022 8) = true ∧ goesC 0x0A (cS 0x2000 16 0x10EE 0) = true ∧ goesC 0x0B (cS 0x2000 16 0x10EE 0) = true
    ∧ goesC 0x0D (cS 0x2000 4 0x1000 0x2200) = true ∧ goesC 0x0E (cS 0x2000 4 0x1000 0x2200) = true
    ∧ goesC 0x10 (cS 0x6000 4 0 0) = true ∧ goesC 0x11 (cS 0x6000 4 0x20 0) = true := by decide +kernel
theorem witness_CopyCommands_last : goesC 0x12 (cS 0x6000 16 0xEE 0) = true ∧ goesC 0x13 (cS 0x6000 16 0xEE 0) = true
    ∧ scalarGoesB (cS 0x2000 4 0x1000 7) h0 (copyForm 0x0C 63 0 1 (cS 0x2000 4 0x1000 7)) = true
    ∧ scalarGoesB qS h0 (qbindForm 1 qS) = true ∧ t0.cur.sh = false
    ∧ scalarGoesB t0 h0 {} = true := by decide +kernel

theorem witness_SceneAndIdleWords : t0.cur.sh = false ∧ t0.me.hnd = false ∧ t0.scalarGoes ⟨7, 0, false⟩ (sceneForm true t0)
    ∧ hS.cur.sh = false ∧ hS.me.hnd = true ∧ hS.scalarGoes ⟨7, 0, false⟩ (sceneForm false hS)
    ∧ (((hS.started ((sceneForm false hS).guarded ⟨7, 0, false⟩)).modRegs
        (fun r => { r with str := { r.str with done := some false } })).retire).cur.verdict = .went
    ∧ t0.engineGoes 1 { sched := t0.me.sceneBad 1 false } ∧ t0.engineGoes 2 { sched := t0.me.sceneBad 2 true }
    ∧ t0.scalarGoes h0 (lflushForm 63 2) ∧ t0.engineGoes 1 {} :=
  ⟨rfl, by decide, scalarGoesB_ok (by decide +kernel), rfl, by decide, scalarGoesB_ok (by decide +kernel), by decide +kernel,
    engineGoesB_ok (by decide +kernel), engineGoesB_ok (by decide +kernel), scalarGoesB_ok (by decide +kernel),
    engineGoesB_ok (by decide +kernel)⟩

/-! ### Hypotheses met: the vector stream -/

/-- A context whose operand address g1 is 0x1000, group A's blocks its own; v2 and v3 hold 1.5 in lane 0, v6 16 difference
records of 32 bytes. -/
def uS : State :=
  { State.reset with cue := 1000, agenda := [], cur := { sh := false }
                     cores := [(0, { bank0 := some { tCtx { g := [(1, 0x1000), (2, 3)] } with
                                       v := [(2, 0x3FC00000), (3, 0x3FC00000), (6, BitVec.ofNat 4096 (packElems 256 (List.replicate 16 0x1200)))], nval := [(1, 2)] }
                                     otag := [(0, 4)] })] }
/-- A word of two elements (n1 holds 2). -/
def uW (t : ElemTy) (d a b : Spec) : VWord := ⟨0, 0, false, t, 0, 1, .rne, false, false, false, 0, d, a, b⟩
/-- Its form when it writes elements of v4. -/
def goesV (w : VWord) (base : Nat) (t : ElemTy) (srcs : List Src) (more : Form) (moves : Bool) (els : List (Nat × Nat)) : Bool :=
  engineGoesB uS 1 (vecForm w base t srcs more moves els uS)

/-- Bits `32 e + 31` to `32 e` of the write of the last vector word. -/
def vOf (i : Instr) (e : Nat) : Option (Nat × Nat × Nat) :=
  match exec i uS with
  | .next t => t.regs.pend.getLast?.bind (fun p => match p.w with | .v n _ v _ _ => some (n, elemAt v.toNat 32 e, p.due) | _ => none)
  | _ => none

/-- R289, R290, R295, by hand: 1.5 + 1.5, 1.5 * 1.5 + 0, 0 - 1.5; a rotate by 3; bitwise not. -/
theorem test_vector : vOf (.vadd (uW .f32 (.v 4) (.v 2) (.v 3))) 0 = some (4, 0x40400000, 1002)
    ∧ vOf (.vfma (uW .f32 (.v 4) (.v 2) (.v 3))) 0 = some (4, 0x40100000, 1004)
    ∧ vOf (.vneg (uW .f32 (.v 4) (.v 2) (.v 0))) 0 = some (4, 0xBFC00000, 1002)
    ∧ vOf (.vnot (uW .n32 (.v 4) (.v 2) (.v 0))) 1 = some (4, 0xFFFFFFFF, 1002)
    ∧ vOf (.vbcast (uW .n32 (.v 4) (.v 2) (.imm 128))) 1 = some (4, 0x3FC00000, 1002) := by decide +kernel

/-- Every word of each table goes; its form reads the numbers of the elements only. -/
theorem witness_VectorElementwise : vectorFpTable.all (fun e =>
      let w := uW .f32 (.v 4) (.v 2) (.v 3)
      goesV w e.2.1 .f32 (uS.elSrcs w true e.2.2.1) {} false (uS.elResults w (fun _ _ _ => 0))) = true
    ∧ vectorBitTable.all (fun e =>
      let w := uW .n16 (.v 4) (.v 2) (.v 3)
      goesV w 2 .n16 (uS.elSrcs w e.2.1 false) {} false (uS.elResults w (fun _ _ _ => 0))) = true
    ∧ vectorFnTable.all (fun _ =>
      let w := uW .f32 (.v 4) (.v 2) (.v 0)
      goesV w 8 .f32 (uS.elSrcs w false false) {} false (uS.elResults w (fun _ _ _ => 0))) = true := by decide +kernel
theorem witness_VectorElementwise_others :
    let u := fun w => uS.elResults w (fun _ _ _ => 0)
    let a := uW .i16 (.v 4) (.v 2) (.v 3)
    goesV a 2 .i16 (uS.elSrcs a false false) {} false (u a) = true ∧ goesV a 4 .i16 (uS.elSrcs a true false) {} false (u a) = true
    ∧ goesV a 2 .i16 (uS.elSrcs a true true) {} false (u a) = true := by decide +kernel
theorem witness_VectorMasks :
    let w := uW .f32 (.v 4) (.v 2) (.v 3)
    let n := uW .n32 (.v 4) (.v 5) (.v 0)
    engineGoesB uS 1 (vcmpForm w uS) = true
    ∧ maskTable.length = 4 ∧ engineGoesB uS 1 (maskLogicForm { w with nv := 0 }) = true
    ∧ goesV n 2 .n32 [] (maskUse n.a) false ((uS.activeEls n .n32).map (fun e => (e, 0))) = true
    ∧ goesV w 2 .f32 [(uS.selSrcs w).1, (uS.selSrcs w).2] {} false ((uS.validEls w .f32).map (fun e => (e, 0))) = true := by decide +kernel
theorem witness_VectorMoves :
    let w := uW .i16 (.v 4) (.v 2) (.v 3)
    let r := uW .i16 (.v 4) (.v 2) (.g 2)
    permuteTable.all (fun e => goesV w 2 .i16 (uS.permSrcs w e.2.1) {} e.2.2.1 (uS.permResults w (fun _ _ _ => 0))) = true
    ∧ countTable.all (fun _ => goesV r 2 .i16 (uS.permSrcs r false) (countForm r.b) false (uS.permResults r (fun _ _ _ => 0))) = true
    ∧ goesV w 2 (narrowTy .i16) [(uS.packSrcs w).1, (uS.packSrcs w).2] {} false ((uS.activeEls w (narrowTy .i16)).map (fun e => (e, 0))) = true
    ∧ goesV w 2 .i16 [uS.unpackSrc w] {} false ((uS.activeEls w .i16).map (fun e => (e, 0))) = true := by decide +kernel
/-- Of i16 elements to f32 at positions 0 and 1 of 64 and up (VCVTS), and to blocks of e4m3 (whose form reads the number of
the elements and not their values). -/
theorem witness_VectorConversionsAndReductions :
    let w := { uW .f32 (.v 4) (.v 2) (.imm 1) with fn := BitVec.ofNat 5 ElemTy.i16.code }
    let z := { uW .se4 (.v 4) (.v 2) (.imm 1) with fn := BitVec.ofNat 5 ElemTy.f32.code }
    let r := uW .f16 (.v 4) (.v 2) (.v 0)
    goesV w 2 .f32 [uS.srcA w .i16 (lanesOf .i16 [0, 1])] {} false [(0, 0), (1, 0)] = true
    ∧ goesV w 2 .f32 [uS.srcA w .i16 (lanesOf .i16 [128, 129])] (countForm w.b) false [(0, 0), (1, 0)] = true
    ∧ goesV z 2 .n8 [uS.srcA z .f32 (lanesOf .f32 (List.range 32))] {} false ((List.range 32).map (fun b => (b, 0))) = true
    ∧ goesV z 2 .n8 [uS.srcA z .f32 (lanesOf .f32 (List.range 32))] (countForm z.b) false ((List.range 32).map (fun b => (b, 0))) = true
    ∧ reduceTable.all (fun e => goesV r 2 (redTy e.2.1 r) [uS.actA r] {} false [(0, 0)]) = true := by decide +kernel
theorem witness_VectorMemory :
    let l := uW .n8 (.v 4) (.sp 1 1 0) (.v 0)
    let g := uW .n32 (.v 4) (.v 0) (.g 1)
    let t := uW .n32 (.v 0) (.v 2) (.g 1)
    let s := uW .f32 (.sp 1 1 0) (.v 2) (.v 0)
    goesV l 4 .n8 [uS.actA l] {} true ((uS.activeEls l .n8).map (fun e => (e, 0))) = true
    ∧ engineGoesB uS 1 (vgathForm g uS) = true ∧ engineGoesB uS 1 (vscatForm t uS) = true ∧ engineGoesB uS 1 (vscataForm t uS) = true
    ∧ s.d = .sp 1 1 0 ∧ engineGoesB uS 1 (vstForm s 1 1 0 uS) = true ∧ engineGoesB uS 1 (vatomForm s 1 1 0 uS) = true := by
  decide +kernel
/-- How many bytes the last vector word writes to the scratchpad, the word at `a` of them, and the due cycle. -/
def spOf (i : Instr) (a : Nat) : Option (Nat × Nat × Nat) :=
  match exec i uS with
  | .next t => t.regs.pend.getLast?.bind (fun p => match p.w with
    | .sp _ cells _ => some (cells.length, ofLe ((upFrom a 4).filterMap (fun x => (cells.find? (·.1 == x)).map (·.2))), p.due)
    | _ => none)
  | _ => none
/-- R305 to R307, by hand, of lanes that hold 0x3FC00000 and 0: a scatter at one address leaves the word of the higher lane,
due in the next cycle but one; integer additions to it add up, and atomics at two words meet each its own, read in the issue
cycle and visible in cycle issue + 3. -/
theorem test_vector_scatter :
    spOf (.vscat (uW .n32 (.v 5) (.v 2) (.g 1))) 0x1000 = some (4, 0, 1002)
    ∧ spOf (.vscata (uW .i32 (.v 5) (.v 2) (.g 1))) 0x1000 = some (4, 0x3FC00000, 1003)
    ∧ spOf (.vatom (uW .i32 (.sp 1 1 0) (.v 2) (.v 0))) 0x1000 = some (8, 0x3FC00000, 1003)
    ∧ spOf (.vatom (uW .i32 (.sp 1 1 0) (.v 2) (.v 0))) 0x1004 = some (8, 0, 1003) := by decide +kernel
theorem witness_RunningSums :
    let p := { uW .i8 (.y 1) (.v 2) (.v 6) with fn := 0 }
    let c := uW .f32 (.v 4) (.y 1) (.v 0)
    let a := uW .f32 (.y 1) (.v 2) (.v 0)
    engineGoesB uS 1 (vsbpForm p uS) = true
    ∧ goesV c 2 .f32 [] (uS.ycvtForm c) false ((uS.activeEls c .f32).map (fun l => (l, 0))) = true
    ∧ engineGoesB uS 1 (vyclrForm a) = true ∧ engineGoesB uS 1 (vyaddForm a uS) = true := by decide +kernel
theorem witness_VectorWriteFrame : uS.hasAgent = true ∧ (uW .f32 (.v 31) (.v 2) (.v 3)).d = .v 31
    ∧ (([(0, 1), (127, 2)] : List (Nat × Nat)).map (·.1)).Nodup ∧ (∀ e ∈ ([(0, 1), (127, 2)] : List (Nat × Nat)), e.1 < elemsOf .f32) := by
  decide

/-! ### Hypotheses met: the matrix stream -/

/-- A format table whose row 0 holds a dense i8 slot and a record slot; blocks 0 and 64 the context's own. -/
def xS : State := uS.modCore 0 (fun k => { k with
  otag := [(0, 4), (64, 4)]
  sp := [(0x400001, 0x12), (0x400021, 0x12), (0x400041, 0x12), (0x400061, 0x12)]
  bank0 := some { tCtx {} with nval := [(1, 1)], fthdr := 0x600, ftab := [(0, 0xAA00), (1, 0xA080)] } })
def xW : MWord := { plainM with nr := 1, nc := 1, astr := 1 }
theorem witness_MatrixSteps : xS.fmtSlot xW = some 0xAA00 ∧ denseSlot 0xAA00 = true
    ∧ engineGoesB xS 2 (xS.stepForm xW (slotA 0xAA00) (slotB 0xAA00) 0) = true
    ∧ xS.fmtSlot { xW with slot := 1 } = some 0xA080 ∧ recSlot 0xA080 = true ∧ xS.latchTransposed { xW with slot := 1 } = false
    ∧ engineGoesB xS 2 (msbpForm { xW with slot := 1 } 0xA080 xS) = true
    ∧ xS.anyValid xW = true ∧ (xS.modCtx 0 0 (fun x => { x with nval := [(1, 0)] })).anyValid xW = false := by decide +kernel
theorem witness_MatrixTiles : engineGoesB xS 2 (mlatchForm { plainM with bsrc := 3 } xS) = true ∧ engineGoesB xS 2 (mzeroForm xW xS) = true
    ∧ engineGoesB xS 2 (matForm { plainM with tp := 63 } 1) = true ∧ engineGoesB xS 2 (mldtForm xW xS) = true
    ∧ engineGoesB xS 2 (mftldForm plainM xS) = true ∧ engineGoesB xS 2 (storeForm xW 4 4 false xS) = true
    ∧ engineGoesB xS 2 (storeForm xW 2 2 true xS) = true ∧ engineGoesB xS 2 {} = true := by decide +kernel

/-! ### Hypotheses met: events of launches -/

/-- A launch of core 0, bank 0 of die 0; the state in which it stands, an event's operands given. -/
def tL : Launch := { newLaunch 5 0 none {} (LPacket.ofBytes []) [] 0 with
  state := .running, t0 := 1000, dies := [0], members := [⟨0, 0, 0, none, false⟩] }
def lC : Ctx := { tCtx {} with life := .starting, clock := .stopped 0, launch := some 5 }
def evS (l : Launch) (a : EvArg) : State := { tS lC with launches := [l], ev := a }
/-- A report of the die `d` of this package, with its word. -/
def repP (d w : Nat) : Packet := { Packet.mk0 9 0 with srcDie := d, payload := toLe 4 0 ++ toLe 4 w }
/-- The rest of `l` once the root has heard the reporting package. -/
def heardL (l : Launch) : Launch := { l with heard := l.heard.put 0 1000 }

theorem witness_LaunchEvents_start : (evS { tL with state := .armed } { n := 5 }).launchOf 5 = some { tL with state := .armed }
    ∧ ({ tL with state := .armed } : Launch).t0 ≤ (evS { tL with state := .armed } { n := 5 }).cue := ⟨rfl, by decide⟩
theorem witness_LaunchEvents_member : (evS tL {}).memberCtx tL ⟨0, 0, 0, none, false⟩ = some lC ∧ ((evS tL {}).ctx 0 (1 - 0)).isNone = true :=
  ⟨rfl, rfl⟩
theorem witness_LaunchEvents_scene : (evS { tL with sceneAt := some 1000 } { n := 5 }).launchOf 5 = some { tL with sceneAt := some 1000 }
    ∧ ({ tL with sceneAt := some 1000 } : Launch).sceneAt = some (evS tL {}).cue := ⟨rfl, rfl⟩
theorem witness_LaunchEvents_arrival : t0.ctx 0 0 = some (tCtx tRegs) ∧ (tCtx tRegs).launch = none
    ∧ (evS tL {}).ctx 0 0 = some lC ∧ lC.launch = some 5
    ∧ (((evS tL {}).setCtx 0 0 { lC with arrived := some false }).emitWhere 0 (fun l => l.hasCore 0)).launchOf 5 = some tL
    ∧ tL.rootPkg = (evS tL {}).pkgNum ∧ tL.packages = [0] := by
  refine ⟨rfl, rfl, rfl, rfl, by decide +kernel, rfl, rfl⟩
/-- A barrier is pending once a core of the launch has arrived, or a report has come. -/
def pL : Launch := { tL with members := [⟨0, 0, 0, some false, false⟩] }
theorem witness_LaunchEvents_pending : pL.pending = true ∧ tL.pending = false ∧ ({ tL with rootPkg := 7 } : Launch).rootPkg ≠ State.reset.pkgNum := by
  decide
/-- The last report; one more owed after an earlier one. -/
theorem witness_LaunchEvents_reports :
    ((evS pL { pkt := some (repP 0 2) }).hear 0 0).reportedTo (repP 0 2) = some (heardL pL)
    ∧ ((evS pL { pkt := some (repP 0 2) }).hear 0 0).launchOf 5 = some (heardL pL) ∧ (heardL pL).pending = true
    ∧ (heardL pL).reports.contains (pairKey (repP 0 2).srcPkg (repP 0 2).srcDie) = false
    ∧ bitAt (ofLe (((repP 0 2).payload.drop 4).take 4)) 0 = false ∧ ((heardL pL).withReport 0 (repP 0 2)).owed = []
    ∧ ((evS { tL with dies := [0, 1, 2], reports := [2] } { pkt := some (repP 1 2) }).hear 0 0).reportedTo (repP 1 2)
      = some (heardL { tL with dies := [0, 1, 2], reports := [2] })
    ∧ ((evS { tL with dies := [0, 1, 2], reports := [2] } { pkt := some (repP 1 2) }).hear 0 0).launchOf 5
      = some (heardL { tL with dies := [0, 1, 2], reports := [2] })
    ∧ (heardL { tL with dies := [0, 1, 2], reports := [2] }).pending = true
    ∧ ((heardL { tL with dies := [0, 1, 2], reports := [2] }).withReport 0 (repP 1 2)).owed ≠ []
    ∧ ((heardL pL).withReport 0 (repP 0 2)).deserted = false
    ∧ ((heardL { tL with dies := [0, 1, 2], reports := [2] }).withReport 0 (repP 1 2)).deserted = false
    ∧ ((repP 0 2).srcPkg = State.reset.pkgNum ∧ (repP 0 2).dstPkg = State.reset.pkgNum)
    ∧ (evS pL { pkt := some (repP 0 2) }).tripped = false :=
  ⟨rfl, rfl, by decide, by decide, by decide, by decide, rfl, rfl, by decide, by decide, by decide, by decide, ⟨rfl, rfl⟩, rfl⟩
theorem witness_LaunchEvents_ready :
    ((evS { tL with state := .arming } { pkt := some (repP 0 1) }).hear 0 0).reportedTo (repP 0 1) = some (heardL { tL with state := .arming })
    ∧ (heardL { tL with state := .arming }).reports.contains (pairKey (repP 0 1).srcPkg (repP 0 1).srcDie) = false
    ∧ bitAt (ofLe (((repP 0 1).payload.drop 4).take 4)) 0 = true := ⟨rfl, by decide, by decide⟩
/-- A release that names house cue 1016. -/
def rP : Packet := { Packet.mk0 10 0 with addr := 0, payload := toLe 8 1016 }
theorem witness_LaunchEvents_release : (evS tL { pkt := some rP }).ev.pkt = some rP
    ∧ (evS tL { pkt := some rP }).launches.find? (fun l => l.launchid.toNat == rP.addr && l.state != .ended) = some tL
    ∧ tL.state = .running ∧ tL.sceneAt = none ∧ ofLe rP.payload ≠ 0 ∧ rP.srcPkg = (evS tL {}).pkgNum ∧ rP.dstPkg = (evS tL {}).pkgNum
    ∧ (evS tL { pkt := some rP }).tripped = false := ⟨rfl, rfl, rfl, rfl, by decide, rfl, rfl, rfl⟩
theorem witness_LaunchEvents_leave : (evS tL {}).launches.findSome? (fun l =>
      (l.members.find? (fun m => m.core == 0 && !m.left)).map (fun m => (l, m))) = some (tL, ⟨0, 0, 0, none, false⟩)
    ∧ bitAt (((evS tL {}).modCore 0 (fun k => { k with castctl := 1 })).core 0).castctl.toNat 0 = true := ⟨rfl, by decide⟩
/-- Packages 7 and this one were heard in cycle 3, and `FABTMO` has passed. -/
def fL : Launch := { tL with packages := [0, 7], reports := [0], heard := [(0, 3), (7, 3)] }
def fE : State := { evS fL { n := 5, m := 7 } with cue := 0x01000003 }
theorem witness_LaunchEvents_timeout : fE.launchOf 5 = some fL ∧ fL.pending = true ∧ fL.sceneAt = none
    ∧ fL.packages.contains 7 = true ∧ (7 : Nat) ≠ fE.pkgNum ∧ fL.heard.get 0 7 + (fE.die fL.rootDie).fabtmo.toNat ≤ fE.cue
    ∧ fL.packages.contains 0 = true ∧ (0 : Nat) = fE.pkgNum ∧ fL.heard.get 0 0 + (fE.die fL.rootDie).fabtmo.toNat ≤ fE.cue :=
  ⟨rfl, by decide, rfl, by decide, by decide, by decide, by decide, rfl, by decide⟩

/-! ### Hypotheses met: loops, frames, writes in flight -/

theorem witness_LoopFrameAndWriteEvents_levels : t0.ctx 0 (t0.stageOf 0) = some (tCtx tRegs) ∧ (tCtx tRegs).innerActive 5 = false :=
  ⟨rfl, by decide⟩
/-- Frames of 65,536 cycles of worlds 0 and 1, the second beginning now. -/
def frS : State := { State.reset with
  cue := 65536, agenda := []
  cores := [(0, { bank0 := some { tCtx {} with own := 0 }, framectl := 2, wlive := 1, frametab := [(0, 0x8010), (1, 0x9010)] })] }
theorem witness_LoopFrameAndWriteEvents_frames : ((frS.core 0).frameAt frS.cue).2.1 = frS.cue ∧ frS.cue ≠ 0
    ∧ ((frS.core 0).frameAt (frS.cue - 1)).1 = 0 ∧ ((frS.core 0).frameAt frS.cue).1 = 1 ∧ (frS.core 0).gapEnd ≠ some (frS.cue + 16384)
    ∧ frS.ctx 0 0 = some { tCtx {} with own := 0 } ∧ bitAt (frS.core 0).wlive.toNat 0 = true
    ∧ ((frS.modCore 0 (fun k => { k with gapEnd := some 65536 })).core 0).gapEnd = some 65536 := by
  refine ⟨by decide, by decide, by decide, by decide, by decide, rfl, by decide, by decide⟩
theorem witness_LoopFrameAndWriteEvents_edge : (frS.ev.n = 0 ∨ frS.cue ≤ frS.ev.n)
    ∧ (∀ x, frS.ctx 0 0 = some x → x.entry = none) := by
  refine ⟨.inl rfl, fun x h => ?_⟩
  cases h
  rfl
/-- The bank drained for the seal of world 0 when world 1's frame begins. -/
def seU : State := (({ frS with ev := { core := 0, bank := 0 } } : State).drain 0 0).emitWhere 0 (fun l => l.hasCtx 0 0)
theorem witness_LoopFrameAndWriteEvents_seals : (match seU.ctx 0 0 with
    | some x => x.own == 0 && bitAt (seU.core 0).wlive.toNat 0 && ((frS.core 0).frameAt frS.cue).1 == 1
    | none => false) = true := by decide +kernel
theorem witness_LoopFrameAndWriteEvents_writes : (evS tL { flag := true }).ev.flag = true ∧ (evS tL {}).ev.flag = false
    ∧ (evS tL {}).ctx 0 0 = some lC ∧ (evS tL { m := 2 }).ev.m = 2
    ∧ (evS tL { m := 2 }).bootCode = 0 ∧ (evS tL { m := 2 }).tripped = false := ⟨rfl, rfl, rfl, rfl, rfl, rfl⟩
/-- A write in flight that is due. -/
def dlS : State := tS (tCtx { tRegs with pend := [⟨1000, 5, 1, true, .v 3 32 1 1 []⟩] })
theorem witness_LoopFrameAndWriteEvents_delayed : ((dlS.ctx 0 0).isSome && (dlS.dueList 0 0 false).length == 1) = true := by
  decide +kernel

/-! ### Hypotheses met: presence, waiting, parks, faults -/

def evC (k : Core) (a : EvArg) : State := { State.reset with cue := 1000, agenda := [], cores := [(0, k)], ev := a }
/-- Block 28 (scratchpad block 0) is kindling, and has no image. -/
def kiS : State := evC { bank0 := some (tCtx {}), spBlk := [(0, .kindling false)], xfers := [⟨0, 28, false, false, true⟩] } { n := 28, flag := true }
theorem witness_ServiceEvents_pull : (kiS.core 0).xfers.any (fun t => t.bank == 0 && t.block == 28 && !t.out && t.started) = true
    ∧ kiS.ev.flag = true ∧ kiS.imageOf 0 0 28 = some ⟨0, false, false, 0, 0xFF⟩
    ∧ (kiS.underEntry 0 (kiS.core 0).xferRoute (fun s => (s.pullBytes 0 28 ⟨0, false, false, 0, 0xFF⟩ s.ev.bytes, s))).1
      = some (List.replicate (blockSize 28) 0)
    ∧ kiS.presence 0 0 28 = .kindling false ∧ kiS.xferDown 0 0 28 (some ⟨0, false, false, 0, 0xFF⟩) = false := by
  refine ⟨by decide, rfl, rfl, rfl, by decide, by decide⟩
/-- The same block with an image of record at 0x8000, or in the pool behind port 0 that is down. -/
def kiIm (down : Bool) : Image := ⟨if down then 2 ^ 51 else 0x8000, true, false, 0, 0⟩
def kiI (down : Bool) : State :=
  { evC { bank0 := some (tCtx {}), spBlk := [(0, .kindling false)], spImg := [(0, kiIm down)], xfers := [⟨0, 28, false, false, true⟩] }
    { n := 28, flag := true } with poolRoute := [(0, 1)], cxlDown := [0] }
theorem witness_ServiceEvents_pull_image : (kiI false).imageOf 0 0 28 = some (kiIm false)
    ∧ (kiI false).xferDown 0 0 28 (some (kiIm false)) = false
    ∧ (kiI false).ev.granted = false ∧ (kiI true).imageOf 0 0 28 = some (kiIm true)
    ∧ (kiI true).xferDown 0 0 28 (some (kiIm true)) = true := by
  refine ⟨by decide +kernel, by decide +kernel, rfl, by decide +kernel, by decide +kernel⟩
/-- Block 5 of a context is dousing; its descriptor at 0x4000 gives it an image at 0x8000. -/
def doS : State := { evC { bank0 := some { tCtx {} with ctxdesc := 0x4000, blocks := [(5, .dousing)] }, xfers := [⟨0, 5, true, false, true⟩] }
    { n := 5, flag := true } with phys := Memory.writeN [] (0x4000 + 64 + 80) (toLe 16 (2 ^ 64 + 0x8000)) }
theorem witness_ServiceEvents_writeOut : (doS.core 0).xfers.any (fun t => t.bank == 0 && t.block == 5 && t.out && t.started) = true
    ∧ doS.blockBusy 0 0 5 = false ∧ doS.ev.m ≠ 1 ∧ doS.ev.flag = true ∧ (5 : Nat) < 28
    ∧ doS.ctxImage ((doS.ctx 0 0).getD {}) 5 = some ⟨0x8000, true, false, 0, 0⟩
    ∧ doS.xferDown 0 0 5 (some ⟨0x8000, true, false, 0, 0⟩) = false
    ∧ (doS.underEntry 0x8000 (doS.core 0).xferRoute (fun s =>
      match s.writeImage 0 0 5 ⟨0x8000, true, false, 0, 0⟩ (doS.blockBytes 0 0 5).1 (doS.blockBytes 0 0 5).2 with
      | some u => (true, u)
      | none => (false, s))).1 = true := by
  refine ⟨by decide, by decide, by decide, rfl, by decide, by decide +kernel, by decide +kernel, by decide +kernel⟩
/-- Scratchpad block 0 is dousing; its image of record is at 0x8000, or in the pool behind port 0 that is down. The word that
would start it is busy, or the write-out waits for the end of another. -/
def doI (down : Bool) (a : EvArg) : State := { evC
  { bank0 := some { tCtx {} with ctxdesc := 0x4000, regs := { pend := if a.m = 1 then [⟨1000, 5, 0, true, .sp 4 [(0, 1)] []⟩] else [] } }
    spBlk := [(0, .dousing)], xfers := [⟨0, 28, true, false, true⟩] } { a with n := 28, flag := true } with
  phys := Memory.writeN [] (0x4000 + 64 + 16 * 28) (toLe 16 (2 ^ 64 + if down then 2 ^ 51 else 0x8000))
  poolRoute := [(0, 1)], cxlDown := [0] }
theorem witness_ServiceEvents_writeOut_image : ((doI false {}).core 0).xferRoute = 0
    ∧ ((doI false {}).core 0).xfers.any (fun t => t.bank == 0 && t.block == 28 && t.out && t.started) = true
    ∧ (doI false {}).blockBusy 0 0 28 = false ∧ (doI false { m := 1 }).blockBusy 0 0 28 = true
    ∧ (doI false {}).ctxImage (((doI false {}).ctx 0 0).getD {}) 28 = some (kiIm false)
    ∧ (doI false {}).xferDown 0 0 28 (some (kiIm false)) = false ∧ (doI false {}).ev.granted = false
    ∧ (doI false { granted := true }).ev.granted = true
    ∧ (doI true {}).ctxImage (((doI true {}).ctx 0 0).getD {}) 28 = some (kiIm true)
    ∧ (doI true {}).xferDown 0 0 28 (some (kiIm true)) = true
    ∧ ((doI false { granted := true }).writeImage 0 0 28 (kiIm false) ((doI false {}).blockBytes 0 0 28).1
      ((doI false {}).blockBytes 0 0 28).2).isSome = true := by decide +kernel
/-- A TAGSET of group A's blocks 0 and 127, of the last of them, and one whose blocks are all zero. -/
def tgW (l : List Nat) : TagWait := ⟨l, 4, 5, 9, true⟩
def tgE (l : List Nat) (g : Bool) : State := evC { tagWaits := [tgW l] } { n := 9, granted := g }
theorem witness_ServiceEvents_tags : (∀ l g, ((tgE l g).core 0).tagWaits.find? (fun w => w.clr && w.tokId == (tgE l g).ev.n) = some (tgW l))
    ∧ ((tgE [127] true).core 0).tagWaits = [tgW [127]] ∧ (tgE [127] true).ev.granted = true ∧ (tgE [0, 127] false).ev.granted = false :=
  ⟨fun _ _ => rfl, rfl, rfl, rfl⟩
theorem witness_ServiceEvents_bounce : (64 : Nat) % 32 = 0 ∧ 64 < ringSize
    ∧ (64 + ringSize - ({ bouncehead := 64 } : Die).bouncetail.toNat % ringSize) % ringSize ≤ ({ bouncehead := 64 } : Die).bounceUsed := by decide
/-- A wait for the word at 0x20000, of 16 cycles, with an entry in a wake table or with polls. -/
def waS (e : Bool) (v : Word) (r : Option Nat) : State :=
  evC { bank0 := some { tCtx {} with waitv := some ⟨0x20000, 0x20000, v, 0, 984, 16, 1000, e, false, r⟩ } } { n := 984 }
/-- The same of the stagehand. -/
def waW (r : Option Nat) : Wait := ⟨0x20000, 0x20000, 0, 15, 984, 16, 1000, false, false, r⟩
def shS (r : Option Nat) : State := evC { shWatch := some (waW r, 7) } { n := 984, bank := shBank }
theorem witness_ServiceEvents_wait : ((waS true 0 none).ctx 0 0).bind (·.waitv) = some ⟨0x20000, 0x20000, 0, 0, 984, 16, 1000, true, false, none⟩
    ∧ (waS true 0 none).stageOf 0 = 0 ∧ ((waS true 0 none).core 0).exchange = none
    ∧ ((waS false 1 none).ctx 0 0).bind (·.waitv) = some ⟨0x20000, 0x20000, 1, 0, 984, 16, 1000, false, false, none⟩
    ∧ (1000 : Nat) ≤ (waS false 1 none).cue ∧ (waS false 0 none).ev.n = 984 ∧ (waS true 0 none).ev.bank < 2
    ∧ ((shS none).core 0).shWatch = some (waW none, 7) ∧ (shS none).ev.bank = shBank ∧ (1000 : Nat) ≤ (shS none).cue := by
  refine ⟨rfl, rfl, rfl, rfl, by decide, rfl, by decide, rfl, rfl, by decide⟩
/-- The read of the word for the wait. -/
def waA : Acc := ⟨9, 0, 0, false, 0, 0, 0x20000, 0x20000, 0, .watch 0, true, false⟩
theorem witness_FencesAndWaits_watched : (∃ x w, (waS false 0 (some 9)).ctx waA.core waA.bank = some x ∧ x.waitv = some w
      ∧ w.read = some waA.id ∧ w.woken = false ∧ w.interval = 16 ∧ w.entry = false)
    ∧ (waS false 0 (some 9)).stageOf waA.core = waA.bank ∧ ((waS false 0 (some 9)).ctx waA.core (1 - waA.bank)).isNone = true
    ∧ BitVec.ofNat 32 1 ≠ (0 : Word) ∧ waA.sh = false ∧ waA.bank < 2 ∧ ((waS false 0 (some 9)).core waA.core).exchange = none
    ∧ ({ waA with sh := true } : Acc).sh = true ∧ ((shS (some 9)).core 0).shWatch = some (waW (some 9), 7)
    ∧ (waW (some 9)).read = some waA.id ∧ ((shS (some 9)).ctx 0 (1 - (shS (some 9)).stageOf 0)).isNone = true :=
  ⟨⟨_, _, rfl, rfl, rfl, rfl, rfl, rfl⟩, rfl, rfl, by decide, rfl, by decide, rfl, rfl, rfl, rfl, rfl⟩
theorem witness_ServiceEvents_exchange : ((evC { exchange := some 1000 } {}).core 0).exchange = some (evC { exchange := some 1000 } {}).cue
    ∧ ((evC { exchange := some 1000 } {}).core 0).sparing = [] ∧ ((evC { exchange := some 1000 } {}).core 0).parks = [] := ⟨rfl, rfl, rfl⟩
/-- A park of bank 0 in its first and its last phase. -/
def paS (phase : Nat) (down := false) : State :=
  { evC { bank0 := some { tCtx {} with ctxdesc := 0x4000, rpCue := 1000 }, parks := [⟨0, 2, 5, 9, phase, false, none⟩] } { flag := down } with
    phys := Memory.writeN [] (0x4000 + 64) (toLe 16 (2 ^ 64 + if down then 2 ^ 51 else 0x8000)), poolRoute := [(0, 1)], cxlDown := [0] }
/-- The state in which its control block is written. -/
def paR (down : Bool) : State := (((paS 2 down).keepRefusals 0 0).keepRecs 0 0).descTouch 0 0
theorem witness_ServiceEvents_park : ((paS 0).core 0).parks = [⟨0, 2, 5, 9, 0, false, none⟩]
    ∧ (paS 0).ctx 0 0 = some { tCtx {} with ctxdesc := 0x4000, rpCue := 1000 }
    ∧ (paS 0).parkDue 0 ⟨0, 2, 5, 9, 0, false, none⟩ { tCtx {} with ctxdesc := 0x4000, rpCue := 1000 } = true
    ∧ ((paS 2).core 0).parks.find? (fun p => p.bank == 0 && p.phase == 2) = some ⟨0, 2, 5, 9, 2, false, none⟩
    ∧ (∀ z, (paR z).ctx 0 0 = some { tCtx {} with ctxdesc := 0x4000, rpCue := 1000 }
      ∧ (paR z).ctxImage { tCtx {} with ctxdesc := 0x4000, rpCue := 1000 } 0 = some (kiIm z)
      ∧ (paR z).imageDown 0 (kiIm z) = z ∧ (paR z).ev.flag = z)
    ∧ ((paR false).fresh.2.writeImage 0 0 0 (kiIm false) (ctlImage 2 1000 (paR false).fresh.1) []).isSome = true := by
  refine ⟨rfl, rfl, by decide, rfl, ?_, by decide +kernel⟩
  intro z
  cases z <;> decide +kernel
theorem witness_ServiceEvents_faults :
    ((evC { bank1 := some { tCtx {} with held := some ⟨0x40, .issue⟩ } } { value := 1 }).ctx 0 ((1 : DWord).toNat % 2)).bind (·.held) = some ⟨0x40, .issue⟩
    ∧ ((State.reset.drainHeldRecs 0).die 0).fbheld = []
    ∧ ((evC { shLimit := some 1000 } {}).core 0).shLimit = some (evC { shLimit := some 1000 } {}).cue
    ∧ ((evC { selftests := [⟨7, 900, 0, 5, 9, none⟩] } { m := 9 }).core 0).selftests.find? (fun t => t.tokId == 9 && t.left == 0)
      = some ⟨7, 900, 0, 5, 9, none⟩
    ∧ (evC {} {}).ev.m = 0 ∧ (evC {} { m := 1 }).ev.m = 1 ∧ (evC {} { m := 9 }).ev.flag = false := by
  refine ⟨rfl, by decide, rfl, rfl, rfl, rfl, rfl⟩

/-! ### Hypotheses met: commands and packets -/

/-- A CFILL of 4 words at core-local 0x2000 in a phase. -/
def tCmd : Cmd := {
  id := 9, op := 0x0C, core := 0, bank := 0, sh := false, own := 4, tok := 5, tokId := 9, cls := 0, src := 0
  shape := 0x2000 + 4 * 2 ^ 64 + 2 ^ 80 + 2 ^ 96 + 2 ^ 112 + 0x1000 * 2 ^ 320, root := 0, phys := false, key := 0
  waits := [], depFailed := false, phase := .walk, toRead := [], data := [], poison := [], toWrite := [], pages := [], used := [], told := [], met := []
  flying := 0, stuck := false, causes := [] }
def coS (k : Cmd) : State := evC { bank0 := some (tCtx {}), cmds := [k], otag := [(0, 4)] } { engine := .copy 0, n := 9 }
theorem witness_CopyEvents_walk : (coS tCmd).cmdOf (.copy 0) 9 = some tCmd ∧ dstPages tCmd.op tCmd.shp = []
    ∧ (coS tCmd).walkRefusal (.copy 0) tCmd [] = none
    ∧ ((coS tCmd).walkZeros (.copy 0) tCmd []).length ≤ ((coS tCmd).die 0).frames ∧ (coS tCmd).walkPages (.copy 0) tCmd [] [] = ([], coS tCmd) :=
  ⟨rfl, by decide +kernel, rfl, by decide, rfl⟩
theorem witness_CopyEvents_phases : (coS { tCmd with phase := .reading }).cmdOf (.copy 0) 9 = some { tCmd with phase := .reading }
    ∧ ({ tCmd with phase := .reading, depFailed := true } : Cmd).depFailed = true
    ∧ (coS { tCmd with phase := .reading, toRead := [64] }).cmdOf (.copy 0) 9 = some { tCmd with phase := .reading, toRead := [64] }
    ∧ (coS { tCmd with phase := .writing, toWrite := [(2 ^ 56 + 0x2000, 1, false)] }).cmdOf (.copy 0) 9
      = some { tCmd with phase := .writing, toWrite := [(2 ^ 56 + 0x2000, 1, false)] }
    ∧ (let k := { tCmd with phase := .writing, toWrite := [(2 ^ 56 + 0x2000, 1, false)] }
      let r := (coS k).cmdReaches (.copy 0) k (frontChunk k.toWrite)
      (r.cmdWrite (.copy 0) ((r.cmdOf (.copy 0) 9).getD k) (frontChunk k.toWrite)).isSome = true)
    ∧ (coS { tCmd with phase := .finishing }).cmdOf (.copy 0) 9 = some { tCmd with phase := .finishing } :=
  ⟨rfl, rfl, rfl, rfl, by decide +kernel, rfl⟩
/-- Nothing stands before a command's request. -/
theorem witness_CopyEvents_free : (∀ (k : Cmd) c, Engine.copy 0 = .copy c → (coS { k with flying := 0 }).xferServed c = false
      ∧ (coS { k with flying := 0 }).outstandingOf c < 1024)
    ∧ (∀ k i, (coS k).cmdAhead (.copy 0) i = false) ∧ keySp (2 ^ 56 + 0x2000) = some 0x2000 ∧ keySp 64 = none
    ∧ (evC {} { granted := true }).ev.granted = true ∧ (evC {} {}).ev.granted = false := by
  refine ⟨?_, fun _ _ => rfl, by decide, by decide, rfl, rfl⟩
  intro k c e
  cases e
  exact ⟨rfl, show 0 + 0 < 1024 by omega⟩
def tAcc (bounce : Bool) : Acc := ⟨9, 0, 0, false, 5, 0, 0x5000, 0x20000, 0, .load 3 4, true, bounce⟩
def acS (bounce : Bool) : State := { evC {} { n := 9 } with accs := [tAcc bounce] }
theorem witness_CopyEvents_access : (∀ z, (acS z).accs.find? (fun a => a.id == 9) = some (tAcc z)) ∧ (tAcc false).bounce = false
    ∧ (tAcc true).bounce = true := ⟨fun _ => rfl, rfl, rfl⟩

/-- A packet of a type with a sequence number. -/
def tPk (type seq : Nat) : Packet := { Packet.mk0 type 0 with seq := seq }
def pkS (p : Packet) : State := evC { bank0 := some (tCtx {}), otag := [(0, 4)] } { pkt := some p }
/-- Whether a packet is the next of its pair (0), one performed already (1), or early (2). -/
def turnNo (seq : Nat) : Nat := match ((pkS (tPk 3 seq)).hear 0 0).turnOf (tPk 3 seq) with | .now => 0 | .done => 1 | .ahead => 2
theorem witness_PacketEvents_turns : (pkS (tPk 3 0)).ev.pkt = some (tPk 3 0) ∧ turnNo 0 = 0 ∧ turnNo (2 ^ 32 - 1) = 1 ∧ turnNo 1 = 2 :=
  ⟨rfl, by decide +kernel, by decide +kernel, by decide +kernel⟩
theorem witness_PacketEvents_arrives : ((tPk 3 0).srcPkg = (pkS (tPk 3 0)).pkgNum ∧ (tPk 3 0).dstPkg = (pkS (tPk 3 0)).pkgNum)
    ∧ (pkS (tPk 3 0)).tripped = false ∧ ({ pkS (tPk 3 0) with tripped := true } : State).tripped = true
    ∧ (pkS (tPk 3 0)).ev.granted = false ∧ (tPk 3 0).route = 0 ∧ (pkS (tPk 3 0)).portDown (globalBytes (tPk 3 0)).1 = false := by
  refine ⟨⟨rfl, rfl⟩, rfl, rfl, rfl, rfl, by decide +kernel⟩
/-- A lantern packet of one element at its bank: a store of word 0, an operation, an address that no core has. -/
def laE (eop a n : Nat) (mark : Bool) : State :=
  evC { bank0 := some (tCtx {}), otag := [(0, 4)], spMarks := if mark then [(0, true)] else [] }
    { pkt := some { tPk 2 0 with owner := 4, aux := 1, payload := toLe 8 (eop * 2 ^ 57 + a / 4 * 2 ^ 32 + 7) }, granted := true, n := n }
/-- Whether the element of `laE` is the one told, is refused, and its operation and mark. -/
def laElOk (eop a n : Nat) (mark refused : Bool) : Bool :=
  match (laE eop a n mark).ev.pkt with
  | some p => (landElems p)[(laE eop a n mark).ev.causes.length]? == some (some (0, eop, a, 7))
    && (((laE eop a n mark).entryRefusal p.owner (0, eop, a, 7) != 0) == refused)
    && (((laE eop a n mark).core 0).spMarks.get false (a / 4) == mark) && (laE eop a n mark).ev.granted
  | none => false
theorem witness_PacketEvents_elements : laElOk 0xF 0 0 false false = true ∧ laElOk 0x10 0 0 false false = true
    ∧ laElOk 0x10 0 1 false false = true ∧ laElOk 0x10 0 0 true false = true ∧ laElOk 0x1A 0 0 false true = true := by decide +kernel
theorem witness_PacketEvents_read : (pkS { Packet.mk0 4 0 with addr := 2 ^ 40, aux := 4 }).ev.pkt = some { Packet.mk0 4 0 with addr := 2 ^ 40, aux := 4 }
    ∧ (pkS { Packet.mk0 4 0 with addr := 2 ^ 40, aux := 4 }).place (2 ^ 40) = .host
    ∧ (pkS { Packet.mk0 4 0 with addr := 2 ^ 40, aux := 4 }).portDown (2 ^ 40) = false := ⟨rfl, by decide, by decide⟩
/-- A request that holds tag 3 for access 9, of age 0. -/
def tgD : Die := { tagUse := [(3, .acc 0 9)], tagDue := [(3, 1000)], tagWait := [] }
theorem witness_PacketEvents_replies : let s := (pkS { Packet.mk0 5 0 with tag := 3 }).setDie 0 tgD
    ((s.hear 0 0).die 0).tagUse.find? (fun e => e.1 == 3) = some (3, .acc 0 9) ∧ ((s.hear 0 0).die 0).tagAge.get 0 3 = 0
    ∧ ((s.hear 0 0).die 0).tagAge.get 0 3 ≠ 1 ∧ (s.die 0).tagDue.get 0 3 ≤ s.cue := by
  refine ⟨rfl, by decide, by decide, by decide⟩
/-- A posted packet not yet acknowledged; a request that waits for a tag; a lantern whose deadline is now. -/
def poE : Posted := ⟨9, tPk 3 0, [], none, none, 0, none⟩
def poD : Die := { posted := [poE], tagWait := [(Packet.mk0 4 0, .acc 0 9)], lanterns := [(255, { state := 1, deadline := 1000 })] }
theorem witness_PacketEvents_posted : let s := (pkS (tPk 8 0)).setDie 0 poD
    ((s.hear 0 0).die 0).posted.find? (fun e => e.pkt.dstPkg == 0 && e.pkt.dstDie == 0 && e.pkt.seq == (tPk 8 0).ack)
      = some poE ∧ (s.die 0).posted.find? (fun e => e.id == 9) = some poE ∧ (s.die 0).tagWait = (Packet.mk0 4 0, .acc 0 9) :: []
    ∧ (s.die 0).freeTag.isSome = true ∧ (tPk 8 0).type ≠ 2
    ∧ (((s.enterDue 0).die 0).lantern 255).state = 1 ∧ (((s.enterDue 0).die 0).lantern 255).deadline ≤ s.cue := by
  refine ⟨rfl, rfl, rfl, by decide, by decide, by decide +kernel, by decide +kernel⟩
/-- A wake whose answer refuses it. -/
def wkS : State := (pkS { tPk 8 0 with causes := [4] }).setDie 0 { posted := [{ poE with pkt := tPk 11 0 }] }
theorem witness_PacketEvents_acks : ((wkS.hear 0 0).die 0).posted.find? (fun e => e.pkt.dstPkg == 0 && e.pkt.dstDie == 0
      && e.pkt.seq == 0) = some { poE with pkt := tPk 11 0 } ∧ (tPk 11 0).type = 11 ∧ (∃ x ∈ [4], x ≠ 0) ∧ poE.pkt.type ≠ 11 := by
  refine ⟨rfl, rfl, ⟨4, by decide, by decide⟩, by decide⟩
/-- A packet returned busy; one sent again after its back-off, a reply, and a request that waits for nothing any more. -/
theorem witness_PacketEvents_resend : let p : Packet := { tPk 3 0 with busy := 1 }
    (pkS p).ev.n = 0 ∧ isPosted p = true ∧ p.busy ≠ 0 ∧ p.srcPkg = (pkS p).pkgNum ∧ (tPk 3 0).busy = 0 ∧ (tPk 3 0).type ≠ 2
    ∧ (pkS (tPk 5 0)).wanted (tPk 5 0) = true ∧ (pkS (tPk 4 0)).wanted (tPk 4 0) = false := by decide +kernel

/-! ### Hypotheses met: queues, links, the board -/

/-- Queue 127 of die 0, enabled by kicks, with 16 packets; queue 3 is current. -/
def quS (u : Queue) (v : DWord) (n : Nat) : State :=
  { evC {} { n := n, width := 8, value := v } with dies := [(0, { queues := [(127, u)], curQ := some 3 })] }
def u1 : Queue := { ctl := 0x1041, state := 1 }
theorem witness_QueueEvents_kick : (quS u1 16 127).queue 0 127 = u1 ∧ u1.en = true ∧ u1.kmeth = false
    ∧ idxDiff 16 u1.rd.toNat ≤ u1.size ∧ idxDiff 16 u1.wr.toNat ≤ u1.size ∧ (16 : Nat) ≠ u1.rd.toNat
    ∧ ((quS u1 16 127).die 0).curQ ≠ none ∧ u1.size < idxDiff 17 u1.rd.toNat ∧ ({ u1 with state := 2 } : Queue).state ≠ 1
    ∧ ({ u1 with ctl := 0x1049 } : Queue).kmeth = true ∧ (quS u1 16 127).bootCode = 0 ∧ (quS u1 16 127).tripped = false
    ∧ ({ quS u1 16 127 with bootCode := 0x21 } : State).bootCode ≠ 0 := by
  refine ⟨rfl, by decide, by decide, by decide, by decide, by decide, by decide, by decide, by decide, by decide, rfl, rfl, by decide⟩
theorem witness_QueueEvents_repair : regWidthOk 8 8 = true ∧ regWidthOk 8 2 = false ∧ regWidthOk 0 2 = false
    ∧ (quS { u1 with state := 3, wr := 16 } 0 127).queue 0 127 = { u1 with state := 3, wr := 16 }
    ∧ idxDiff 16 0 ≤ u1.size ∧ qctlBad 0x1041 = false ∧ bitAt 0x1041 0 = true ∧ ({} : Queue).en = false ∧ u1.en = true
    ∧ (0x1041 + 1 ≠ u1.ctl.toNat) := by
  refine ⟨by decide, by decide, by decide, rfl, by decide, by decide, by decide, by decide, by decide, by decide⟩
theorem witness_QueueEvents_current : ((quS u1 0 0).die 0).curQ = some 3 ∧ (quS u1 0 0).sliceLeft 0 = 0
    ∧ (∀ a ∈ (quS u1 0 0).accs, a.sh = false) ∧ (∀ k ∈ (quS u1 0 0).cmdsOf 0, k.sh = false)
    ∧ ({ State.reset with overPower := true } : State).overPower = true ∧ State.reset.msixMasked 2047 = true
    ∧ ({ State.reset with msixTab := [(8191, 0)] } : State).msixMasked 2047 = false := by
  refine ⟨rfl, by decide, ?_, ?_, rfl, by decide, by decide⟩ <;> intro a h <;> cases h

/-- A queue that is disabled, by its enable bit or by a value that changes only that; a kick of a queue that no front end
serves, of the current value of `QRD`. -/
theorem witness_QueueEvents_disable : qctlBad 0x1040 = false ∧ bitAt 0x1040 0 = false ∧ 0x1040 + 1 = u1.ctl.toNat ∧ u1.state ≠ 2
    ∧ ((quS u1 0x1040 3).die 0).curQ = some 3 ∧ ((quS u1 0x1040 3).die 0).inPacket = false
    ∧ ¬ (((quS u1 0x1040 127).die 0).curQ = some (quS u1 0x1040 127).ev.n)
    ∧ (({ quS u1 16 127 with dies := [(0, { queues := [(63, { u1 with state := 2 })] })] } : State).die 0).curQ = none
    ∧ (({ quS u1 16 127 with dies := [(0, { queues := [(63, { u1 with state := 2 })] })] } : State).queue 0 63).state = 2
    ∧ (0 : Nat) = u1.rd.toNat ∧ idxDiff 0 u1.rd.toNat ≤ u1.size := by
  refine ⟨by decide, by decide, by decide, by decide, rfl, rfl, by decide, rfl, rfl, by decide, by decide⟩
theorem witness_QueueEvents_choose : ∀ p, p < 64 → p ≠ 63 →
    (({ quS u1 16 127 with dies := [(0, { queues := [(63, { u1 with state := 2 })] })] } : State).queue 0 p).state ≠ 2 := by
  decide

/-- A LAUNCH packet at 0x9000 of a script at 0x8000 for core 0 of die 0, both physical: of this package alone, or of
packages 1 and 0, whose root is package 1. -/
def laM (two : Bool) : Memory :=
  let m := Memory.writeN [] 0x8000 (toLe 16 (0x324B4852 + 2 * 2 ^ 32 + 0xFF * 2 ^ 40 + 2 ^ 48 + 2 ^ 56
    + (if two then 2 ^ 65 + 2 ^ 80 else 2 ^ 64) + 8192 * 2 ^ 96))
  let m := m.writeN 0x8010 (toLe 16 (128 + 416 * 2 ^ 32 + 936 * 2 ^ 64 + 1448 * 2 ^ 96))
  let m := (m.writeN 0x8020 (toLe 4 1536)).writeN 0xB000 [1]
  (m.writeN 0x9008 (toLe 8 0x8000)).writeN 0x9020 (toLe 32 (0xA000 + 0xB000 * 2 ^ 64 + 2 ^ 208 + 2 ^ 224 + 2 ^ 232))
def laS (two : Bool) : State := { evC { otag := [(0, 4)] } { value := 0x9000 } with
  phys := laM two, dies := [(0, { curQ := some 3, queues := [(3, u1)], rtab := [(1, 1)] })] }
def laS1 (two : Bool) : Nat × State := ((laS two).modDie 0 (fun k => { k with qlaunch := 0x9000 })).fresh
def laP (two : Bool) : LPacket := LPacket.ofBytes (toLe 64 ((laS1 two).2.peek 0x9000 64))
/-- The packet is read, nothing refuses it, and its root is package `root`; `o` is what the other packages say of it: of two
packages a free value (log 50), whose witness is at 0. -/
def laOk (two able : Bool) (root : Nat) : Bool :=
  let s := if able then (laS1 two).2 else (laS1 two).2.modCore 0 (fun k => { k with bank0 := some {}, bank1 := some {} })
  match s.loadLaunch 0 (laP two) 0 with
  | ((some ld, own), v) =>
    let x := (v.doneOk 0 (laP two) 0 own).2
    let o := if two then 0 else (x.otherCast ld).1
    let w := (x.otherCast ld).2
    (v.doneOk 0 (laP two) 0 own).1 && w.refusalCause 0 (laP two) ld o == 0 && !o.getLsbD 3
      && (w.castMembers (laP two) ld).all (fun m => (w.core m.core).eligible ld.head.world) == able
      && ld.pkgs.headD 0 == root
  | _ => false
/-- The packet lies in the device memory of the pool behind port 0, which is down. -/
def laD : State := { laS false with
  phys := ((laM false).writeN (2 ^ 52 + 0x9008) (toLe 8 0x8000)).writeN (2 ^ 52 + 0x9020)
    (toLe 32 (0xA000 + 0xB000 * 2 ^ 64 + 2 ^ 208 + 2 ^ 224 + 2 ^ 232)), poolRoute := [(0, 1)], cxlDown := [0] }
theorem witness_QueueEvents_launch : (∀ z, (laS z).overPower = false ∧ ((laS1 z).2.die 0).curQ = some 3
      ∧ (laS1 z).2.readable 0x9000 64 = true ∧ (laS z).ev.flag = false ∧ (laS z).ev.granted = false
      ∧ (laS1 z).2.launchDown 0 0x9000 0 = false)
    ∧ laOk false true 0 = true ∧ laOk false false 0 = true ∧ laOk true true 1 = true ∧ laD.launchDown 0 (2 ^ 51 + 0x9000) 0 = true := by
  refine ⟨?_, by decide +kernel, by decide +kernel, by decide +kernel, by decide +kernel⟩
  intro z
  cases z <;> exact ⟨rfl, rfl, by decide +kernel, rfl, rfl, by decide +kernel⟩
theorem witness_QueueEvents_arming : (evS { tL with state := .arming, round := 4 } { n := 5, m := 4 }).launchOf 5 = some { tL with state := .arming, round := 4 }
    ∧ ({ tL with reports := [0] } : Launch).owed = [] ∧ tL.owed ≠ []
    ∧ (evS { tL with state := .arming, round := 4 } { n := 5, m := 4 }).ev.flag = false
    ∧ tL.rootPkg = ((evS { tL with state := .arming, round := 4 } { n := 5, m := 4 }).emptyCast { tL with state := .arming, round := 4 }).pkgNum :=
  ⟨rfl, by decide, by decide, rfl, by decide +kernel⟩
theorem witness_QueueEvents_measured : ({ tL with world := 0 } : Launch).world < 4 ∧ ({ tL with state := .arming, world := 0 } : Launch).members ≠ [] ∧ tL.state ≠ .arming
    ∧ ({ tL with members := [] } : Launch).members = [] ∧ (3 : Nat) ≠ ({ tL with world := 0 } : Launch).world := by decide
theorem witness_QueueEvents_keys : bitAt (({ wlive := 0 } : Core)).wlive.toNat ((0x0860 - 0x0860) / 16) = false
    ∧ bitAt (({ wlive := 8 } : Core)).wlive.toNat ((0x0890 - 0x0860) / 16) = true := by decide

theorem witness_LinkAndBoardEvents_links : bitAt (State.reset.die 0).linkdn.toNat 7 = false ∧ (State.reset.die 0).crcFails.get 0 7 ≠ 15
    ∧ ({ crcFails := [(7, 15)] } : Die).crcFails.get 0 7 = 15 ∧ (State.reset.die 0).rtold = 0 ∧ (1 : DWord).toNat < 2
    ∧ 1024 / 1024 ≠ (State.reset.die 0).rtsel.toNat ∧ bits (putHalf 0 0 8 1).toNat 31 28 ≤ 6
    ∧ (setBits 16 (putHalf 0 0 8 1).toNat).length ∈ [0, 1, 2, 4, 8, 16] := by decide
/-- What is refused: a link that is down already, a selector of 2 or with counts of old entries, entries of the selected half,
a region past 6 or of three ports. -/
theorem witness_LinkAndBoardEvents_refused : bitAt (({ linkdn := 0x80 } : Die)).linkdn.toNat 7 = true ∧ ({ rtold := 1 } : Die).rtold ≠ 0
    ∧ 2 ≤ (2 : DWord).toNat ∧ 1016 / 1024 = (State.reset.die 0).rtsel.toNat ∧ (4 : Nat) = 4 ∧ (8 : Nat) = 8
    ∧ 6 < bits (putHalf 0 0 8 0x70000000).toNat 31 28 ∧ (setBits 16 (putHalf 0 0 8 7).toNat).length ∉ [0, 1, 2, 4, 8, 16]
    ∧ (1 : Nat) < 2 ∧ 2 ≤ (7 : Nat) := by decide
theorem witness_LinkAndBoardEvents_nonce : ({ State.reset with ev := { bytes := List.replicate 32 7 } } : State).ev.bytes.length = 32
    ∧ (State.reset.wmeas.get [] 3 = []) ∧ (({ State.reset with wmeas := [(3, List.replicate 32 1)] } : State).wmeas.get [] 3).length = 32 := by
  decide
theorem witness_LinkAndBoardEvents_board : (evC {} { flag := true, n := 1 }).ev.flag = true ∧ (evC {} {}).ev.flag = false
    ∧ State.reset.tripped = false ∧ ({ State.reset with tripped := true } : State).tripped = true ∧ (evC {} {}).ev.width = 0
    ∧ (evC {} {}).flash.cfgPower < (evC {} { n := 3201 }).ev.n ∧ (evC {} { n := 3200 }).ev.n ≤ (evC {} {}).flash.cfgPower := by
  refine ⟨rfl, rfl, rfl, rfl, rfl, by decide, by decide⟩

/-! ### Ciphers and digests (the vectors of GB/T 32905 and GB/T 32907) -/

theorem test_getDigests_sm3 :
    ofBe (sm3 [0x61, 0x62, 0x63]) = 0x66c7f0f462eeedd9d1f2d46bdc10e4e24167c4875cf2f7a2297da02b8f4ba8e0 := by decide +kernel
theorem test_cenc_sm4 :
    sm4Block (sm4Keys 0x0123456789abcdeffedcba9876543210) 0x0123456789abcdeffedcba9876543210
      = 0x681edf34d206965e86b3e94f536e4246 := by decide +kernel

end Sys2Proof.Machine.Tests
end

section
/-!
SUPPORT. Reads after the writes of a loop over a table, of a run of bytes, and of single bits.
-/
namespace Sys2Proof.Machine

/-! ### Tables filled in a loop -/

section Fold
variable {α β : Type} {d : α} {g : Tab α → β → Tab α} {key : β → Nat} {val : β → α}

/-- An entry that no step of the loop names is as before. -/
theorem Tab.get_foldl_other (hg : ∀ t e k, (g t e).get d k = if k = key e then val e else t.get d k)
    (l : List β) (t : Tab α) (k : Nat) (hk : ∀ e ∈ l, k ≠ key e) : (l.foldl g t).get d k = t.get d k := by
  induction l generalizing t with
  | nil => rfl
  | cons f l ih =>
    rw [List.foldl_cons, ih _ (fun e he => hk e (List.mem_cons_of_mem _ he)), hg, if_neg (hk f List.mem_cons_self)]

/-- An entry that some step names holds the value on which the steps that name it agree. -/
theorem Tab.get_foldl_same (hg : ∀ t e k, (g t e).get d k = if k = key e then val e else t.get d k)
    (l : List β) (t : Tab α) (e : β) (he : e ∈ l) (hv : ∀ f ∈ l, key f = key e → val f = val e) :
    (l.foldl g t).get d (key e) = val e := by
  induction l generalizing t e with
  | nil => cases he
  | cons f l ih =>
    rw [List.foldl_cons]
    by_cases hl : ∃ e' ∈ l, key e' = key e
    · obtain ⟨e', hm, hk⟩ := hl
      have he' : val e' = val e := hv e' (List.mem_cons_of_mem _ hm) hk
      rw [← hk, ← he']
      exact ih _ e' hm (fun a ha hak => (hv a (List.mem_cons_of_mem _ ha) (hak.trans hk)).trans he'.symm)
    · have hef : e = f := (List.mem_cons.1 he).resolve_right (fun hm => hl ⟨e, hm, rfl⟩)
      rw [Tab.get_foldl_other hg l _ _ (fun e' hm hk => hl ⟨e', hm, hk.symm⟩), hg, hef, if_pos rfl]

end Fold

theorem eq_of_nodup_map {β : Type} {l : List β} {key : β → Nat} (h : (l.map key).Nodup) {e f : β} (he : e ∈ l)
    (hf : f ∈ l) (hk : key f = key e) : f = e := by
  induction l with
  | nil => cases he
  | cons a l ih =>
    obtain ⟨ha, hl⟩ := List.nodup_cons.1 (List.map_cons ▸ h)
    rcases List.mem_cons.1 he with rfl | he' <;> rcases List.mem_cons.1 hf with rfl | hf'
    · rfl
    · exact absurd (hk ▸ List.mem_map_of_mem hf') ha
    · exact absurd (hk ▸ List.mem_map_of_mem he') ha
    · exact ih hl he' hf'

/-- Steps that name different keys agree. -/
theorem agree_of_nodup_map {β γ : Type} {l : List β} {key : β → Nat} {val : β → γ} (h : (l.map key).Nodup) {e : β}
    (he : e ∈ l) : ∀ f ∈ l, key f = key e → val f = val e :=
  fun _ hf hk => congrArg val (eq_of_nodup_map h he hf hk)

theorem Tab.get_del {α : Type} (d : α) (t : Tab α) (j k : Nat) :
    (t.del k).get d j = if j = k then d else t.get d j := by
  induction t with
  | nil => simp [Tab.del, Tab.get]
  | cons e t ih =>
    obtain ⟨i, v⟩ := e
    unfold Tab.del at ih ⊢
    by_cases hi : i = k
    · subst hi
      rw [List.filter_cons_of_neg (by simp), ih, Tab.get]
      split
      · rfl
      · next hj => rw [if_neg (fun h => hj h.symm)]
    · rw [List.filter_cons_of_pos (by simpa using hi), Tab.get, Tab.get, ih]
      by_cases hij : i = j
      · rw [if_pos hij, if_neg (hij ▸ hi), if_pos hij]
      · rw [if_neg hij, if_neg hij]

/-- Where a list divides into whole pieces, piece `i` stands at `n * i`. -/
theorem chunksOf_eq_map {α : Type} (n : Nat) (hn : 0 < n) (fuel : Nat) (l : List α) (hl : l.length = n * fuel) :
    chunksOf n fuel l = (List.range fuel).map (fun i => (l.drop (n * i)).take n) := by
  induction fuel generalizing l with
  | zero => rfl
  | succ fuel ih =>
    have hne : l.isEmpty = false := by
      rw [List.isEmpty_eq_false_iff_exists_mem]
      exact List.exists_mem_of_length_pos (by rw [hl]; exact Nat.mul_pos hn (Nat.succ_pos _))
    rw [chunksOf, hne, List.range_succ_eq_map, ih (l.drop n) (by rw [List.length_drop, hl, Nat.mul_succ]; omega)]
    simp [Function.comp_def, List.drop_drop, Nat.mul_succ, Nat.add_comm]

/-! ### Runs of bytes -/

theorem Memory.wfFrom_filter (p : Host.Cell → Bool) (m : Memory) (lo : Nat) (h : m.wfFrom lo = true) :
    Memory.wfFrom lo (m.filter p) = true := by
  induction m generalizing lo with
  | nil => rfl
  | cons e m ih =>
    obtain ⟨j, v⟩ := e
    obtain ⟨hj, hv, ht⟩ := (Memory.wfFrom_cons ..).1 h
    by_cases hp : p (j, v) = true
    · rw [List.filter_cons_of_pos hp]
      exact (Memory.wfFrom_cons ..).2 ⟨hj, hv, ih _ ht⟩
    · rw [List.filter_cons_of_neg hp]
      exact Memory.wfFrom_mono (ih _ ht) (by omega)

theorem Memory.read_filter (p : Nat → Bool) (m : Memory) (a : Nat) (hp : p a = true) :
    Memory.read (m.filter (fun e => p e.1)) a = m.read a := by
  induction m with
  | nil => rfl
  | cons e m ih =>
    obtain ⟨j, v⟩ := e
    by_cases hj : p j = true
    · rw [List.filter_cons_of_pos (by exact hj), Memory.read, Memory.read, ih]
    · rw [List.filter_cons_of_neg (by exact hj), ih, Memory.read, if_neg (fun h : j = a => hj (h ▸ hp))]

/-- A run of bytes read back is the bytes written, and every other byte is as before. -/
theorem Memory.read_writeN (m : Memory) (a : Nat) (bs : List Byte) (j : Nat) (h : m.wf = true) :
    (m.writeN a bs).read j = if a ≤ j ∧ j < a + bs.length then bs.getD (j - a) 0 else m.read j := by
  induction bs generalizing m a with
  | nil => rw [if_neg (by rw [List.length_nil]; omega)]; rfl
  | cons b bs ih =>
    rw [Memory.writeN, ih _ _ (Memory.write_wf m a b h), Memory.read_write_wf m j a b h, List.length_cons]
    by_cases hj : j = a
    · subst hj
      rw [if_neg (by omega), if_pos rfl, if_pos (by omega), Nat.sub_self, List.getD_cons_zero]
    · rw [if_neg hj]
      by_cases hr : a + 1 ≤ j ∧ j < a + 1 + bs.length
      · obtain ⟨i, rfl⟩ := Nat.exists_eq_add_of_le hr.1
        rw [if_pos hr, if_pos (by omega), show a + 1 + i - (a + 1) = i by omega, show a + 1 + i - a = i + 1 by omega,
          List.getD_cons_succ]
      · rw [if_neg hr, if_neg (by omega)]

theorem Memory.read_replace (m : Memory) (a : Nat) (bs : List Byte) (j : Nat) (h : m.wf = true) :
    (m.replace a bs).read j = if a ≤ j ∧ j < a + bs.length then bs.getD (j - a) 0 else m.read j := by
  rw [Memory.replace, Memory.read_writeN _ _ _ _ (Memory.wfFrom_filter _ m 0 h)]
  split
  · rfl
  · next hj =>
    exact Memory.read_filter (fun k => !(decide (a ≤ k) && decide (k < a + bs.length))) m j (by simp; omega)

/-! ### Single bits -/

theorem getLsbD_blend {n : Nat} (old new sel : BitVec n) (i : Nat) :
    (blend old new sel).getLsbD i = if sel.getLsbD i then new.getLsbD i else old.getLsbD i := by
  simp only [blend, BitVec.getLsbD_or, BitVec.getLsbD_and, BitVec.getLsbD_not]
  by_cases hi : i < n
  · cases sel.getLsbD i <;> simp [hi]
  · simp [BitVec.getLsbD_of_ge _ _ (Nat.le_of_not_lt hi)]

/-- A bit set or cleared by a mask. -/
theorem getLsbD_put_bit {w : Nat} (x : BitVec w) (k i : Nat) (z : Bool) (hi : i < w) :
    (if z then x ||| BitVec.ofNat w (2 ^ k) else x &&& ~~~BitVec.ofNat w (2 ^ k)).getLsbD i
      = if i = k then z else x.getLsbD i := by
  have hb : (BitVec.ofNat w (2 ^ k)).getLsbD i = decide (k = i) := by
    rw [BitVec.getLsbD_ofNat, Nat.testBit_two_pow, decide_eq_true hi, Bool.true_and]
  cases z with
  | false =>
    simp only [Bool.false_eq_true, if_false, BitVec.getLsbD_and, BitVec.getLsbD_not, hb, hi, eq_comm (a := k)]
    split <;> simp [*]
  | true =>
    simp only [if_true, BitVec.getLsbD_or, hb, eq_comm (a := k)]
    split <;> simp [*]

theorem bitAt_eq_testBit (v i : Nat) : bitAt v i = v.testBit i := by
  rw [bitAt, Nat.testBit_eq_decide_div_mod_eq]; rfl

/-- The sticky bits that a running-sum addition raises (R47). -/
theorem testBit_sticky (p q : Bool) (i : Nat) :
    (b2n p * 256 + b2n q * 512).testBit i = ((i == 8 && p) || (i == 9 && q)) := by
  have h8 : (256 : Nat).testBit i = decide (8 = i) := Nat.testBit_two_pow (n := 8)
  have h9 : (512 : Nat).testBit i = decide (9 = i) := Nat.testBit_two_pow (n := 9)
  have h89 : (768 : Nat).testBit i = (decide (8 = i) || decide (9 = i)) := by
    rw [← h8, ← h9, ← Nat.testBit_or]; rfl
  cases p <;> cases q <;> simp [b2n, h8, h9, h89, eq_comm, BEq.beq]

theorem bitAt_raise_sticky (x : Word) (p q : Bool) (i : Nat) :
    bitAt (BitVec.ofNat 32 (Nat.lor x.toNat (b2n p * 256 + b2n q * 512))).toNat i
      = (bitAt x.toNat i || (i == 8 && p) || (i == 9 && q)) := by
  have hs : b2n p * 256 + b2n q * 512 < 2 ^ 32 := by cases p <;> cases q <;> decide
  have hlt : x.toNat ||| (b2n p * 256 + b2n q * 512) < 2 ^ 32 := Nat.or_lt_two_pow x.isLt hs
  rw [show Nat.lor x.toNat (b2n p * 256 + b2n q * 512) = x.toNat ||| (b2n p * 256 + b2n q * 512) from rfl,
    BitVec.toNat_ofNat, Nat.mod_eq_of_lt hlt, bitAt_eq_testBit, bitAt_eq_testBit, Nat.testBit_or, testBit_sticky,
    Bool.or_assoc]

end Sys2Proof.Machine
end

section
/-!
SUPPORT. Reading back the registers and contexts of a named bank, what poison marks leave unchanged, and what one
write in flight makes of its registers or of its context (R94, R175, R200, R283, R320, R321).
-/
namespace Sys2Proof.Machine

/-! ### A named bank and its registers -/

/-- What a change of one core keeps of every core. -/
theorem State.proj_core_modCore {α : Type} (φ : Core → α) (s : State) (c : Nat) (f : Core → Core)
    (hf : ∀ k, φ (f k) = φ k) (j : Nat) : φ ((s.modCore c f).core j) = φ (s.core j) := by
  by_cases hj : j = c
  · subst hj; rw [State.core_modCore, hf]
  · rw [State.core_modCore_other _ _ _ _ hj]

theorem State.ctx_modCore (s : State) (c j b : Nat) (f : Core → Core) (hf : ∀ k, (f k).bank b = k.bank b) :
    (s.modCore c f).ctx j b = s.ctx j b :=
  State.proj_core_modCore (fun k => k.bank b) s c f hf j

theorem State.regsOf_modCore (s : State) (c j b : Nat) (sh : Bool) (f : Core → Core) (hs : ∀ k, (f k).sh = k.sh)
    (hb : ∀ k, (f k).bank b = k.bank b) : (s.modCore c f).regsOf j b sh = s.regsOf j b sh := by
  rw [State.regsOf, State.regsOf, State.ctx_modCore _ _ _ _ _ hb, State.proj_core_modCore (fun k => k.sh) s c f hs j]

theorem State.SameBytes.of_modCore {s : State} {c : Nat} {f : Core → Core} (hm : ∀ k, (f k).sp = k.sp)
    (hs : ∀ k, (f k).sh.spill = k.sh.spill) (hb : ∀ k b, (f k).bank b = k.bank b) : s.SameBytes (s.modCore c f) :=
  .of_setCore (hm _) (hs _) (fun b => by rw [hb]) (fun b => by rw [hb])

theorem State.sp_modCtx (s : State) (c b j : Nat) (f : Ctx → Ctx) : ((s.modCtx c b f).core j).sp = (s.core j).sp := by
  unfold State.modCtx
  split
  · exact State.proj_core_modCore (fun k => k.sp) s c _ (fun k => Core.setBank_sp ..) j
  · rfl

theorem State.getD_ctx_modCtx {s : State} {c b : Nat} (h : (s.ctx c b).isSome = true) (f : Ctx → Ctx) :
    ((s.modCtx c b f).ctx c b).getD {} = f ((s.ctx c b).getD {}) := by
  obtain ⟨x, hx⟩ := Option.isSome_iff_exists.1 h
  rw [State.ctx_modCtx, hx]; rfl

theorem State.regsOf_modCtx {s : State} {c b : Nat} (h : (s.ctx c b).isSome = true) (f : Ctx → Ctx) :
    (s.modCtx c b f).regsOf c b false = (f ((s.ctx c b).getD {})).regs :=
  congrArg Ctx.regs (State.getD_ctx_modCtx h f)

section ModRegsOf
variable (s : State) (c b : Nat) (sh : Bool) (f : Regs → Regs)

theorem State.modRegsOf_true : s.modRegsOf c b true f = s.modCore c (fun k => { k with sh := f k.sh }) := rfl
theorem State.modRegsOf_false : s.modRegsOf c b false f = s.modCtx c b (fun x => { x with regs := f x.regs }) := rfl

theorem State.regsOf_modRegsOf (h : sh = false → (s.ctx c b).isSome = true) :
    (s.modRegsOf c b sh f).regsOf c b sh = f (s.regsOf c b sh) := by
  cases sh with
  | true => exact congrArg Core.sh (State.core_modCore s c (fun k => { k with sh := f k.sh }))
  | false => exact State.regsOf_modCtx (h rfl) _

/-- A change of registers changes nothing else of its bank. -/
theorem State.tiles_modRegsOf :
    (((s.modRegsOf c b sh f).ctx c b).getD {}).tiles = ((s.ctx c b).getD {}).tiles := by
  cases sh with
  | true => rw [State.modRegsOf_true, State.ctx_modCore]; exact fun _ => rfl
  | false => rw [State.modRegsOf_false, State.ctx_modCtx]; cases s.ctx c b <;> rfl

theorem State.phys_modRegsOf : (s.modRegsOf c b sh f).phys = s.phys := by
  cases sh with
  | true => rfl
  | false => exact State.modCtx_phys ..

theorem State.sp_modRegsOf (j : Nat) : ((s.modRegsOf c b sh f).core j).sp = (s.core j).sp := by
  cases sh with
  | true => exact State.proj_core_modCore Core.sp s c (fun k => { k with sh := f k.sh }) (fun _ => rfl) j
  | false => exact State.sp_modCtx ..

theorem State.SameBytes.of_modRegsOf {f : Regs → Regs} (hf : ∀ r, (f r).spill = r.spill) :
    s.SameBytes (s.modRegsOf c b sh f) := by
  cases sh with
  | true => exact .of_modCore (f := fun k => { k with sh := f k.sh }) (fun _ => rfl) (fun k => hf k.sh) (fun _ _ => rfl)
  | false => exact .of_modCtx (fun x => hf x.regs) (fun _ => rfl)

end ModRegsOf

/-! The operand log is no register and no byte (R404). -/

section LogReg
variable (s : State) (c b : Nat) (sh : Bool) (code : Nat)

theorem State.ctx_logReg (z : Nat) : (s.modCore c (·.logReg z sh code)).ctx c b = s.ctx c b :=
  State.ctx_modCore s c c b (·.logReg z sh code) (fun _ => rfl)

theorem State.regsOf_logReg (z : Nat) (who : Bool) :
    (s.modCore c (·.logReg z who code)).regsOf c b sh = s.regsOf c b sh :=
  State.regsOf_modCore s c c b sh (·.logReg z who code) (fun _ => rfl) (fun _ => rfl)

theorem State.SameBytes.logReg : s.SameBytes (s.modCore c (·.logReg b sh code)) :=
  .of_modCore (f := (·.logReg b sh code)) (fun _ => rfl) (fun _ => rfl) (fun _ _ => rfl)

end LogReg

/-! ### Poison marks -/

/-- `t` is `r` but for the poison marks. -/
def Regs.MarksOnly (r t : Regs) : Prop := ∃ marks, t = { r with marks := marks }

namespace Regs.MarksOnly

theorem refl (r : Regs) : r.MarksOnly r := ⟨r.marks, rfl⟩

theorem trans {r t u : Regs} (h : r.MarksOnly t) (k : t.MarksOnly u) : r.MarksOnly u := by
  obtain ⟨_, rfl⟩ := h
  obtain ⟨m, rfl⟩ := k
  exact ⟨m, rfl⟩

theorem sameFile {r t : Regs} (h : r.MarksOnly t) : r.SameFile t := by
  obtain ⟨_, rfl⟩ := h
  exact ⟨rfl, rfl, rfl, rfl⟩

theorem spill {r t : Regs} (h : r.MarksOnly t) : t.spill = r.spill := by
  obtain ⟨_, rfl⟩ := h; rfl

theorem pend {r t : Regs} (h : r.MarksOnly t) : t.pend = r.pend := by
  obtain ⟨_, rfl⟩ := h; rfl

theorem setMark (r : Regs) (code : Nat) (m : Bool) : r.MarksOnly (r.setMark code m) := by
  unfold Regs.setMark; split
  · exact refl r
  · exact ⟨_, rfl⟩

theorem foldl {β : Type} {f : Regs → β → Regs} (hf : ∀ (r : Regs) e, r.MarksOnly (f r e)) (l : List β) (r : Regs) :
    r.MarksOnly (l.foldl f r) := by
  induction l generalizing r with
  | nil => exact refl r
  | cons e l ih => exact (hf r e).trans (ih _)

theorem setMarks (r : Regs) (base : Nat) (l : List (Nat × Bool)) : r.MarksOnly (r.setMarks base l) :=
  foldl (fun r _ => setMark r _ _) l r

end Regs.MarksOnly

/-- The writes in flight are apart from the register file. -/
theorem Regs.SameFile.setPend {r t : Regs} (h : r.SameFile t) (l : List Pend) : r.SameFile { t with pend := l } :=
  ⟨h.g, h.x, h.p, h.b⟩

section SetMark
variable (r : Regs) (code : Nat) (m : Bool)

@[simp] theorem Regs.setMark_g : (r.setMark code m).g = r.g := (Regs.MarksOnly.setMark r code m).sameFile.g
@[simp] theorem Regs.setMark_x : (r.setMark code m).x = r.x := (Regs.MarksOnly.setMark r code m).sameFile.x
@[simp] theorem Regs.setMark_p : (r.setMark code m).p = r.p := (Regs.MarksOnly.setMark r code m).sameFile.p
@[simp] theorem Regs.setMark_b : (r.setMark code m).b = r.b := (Regs.MarksOnly.setMark r code m).sameFile.b
@[simp] theorem Regs.setMark_gAt (n : Nat) : (r.setMark code m).gAt n = r.gAt n := by simp [Regs.gAt]
@[simp] theorem Regs.setMark_xAt (n : Nat) : (r.setMark code m).xAt n = r.xAt n := by simp [Regs.xAt]
@[simp] theorem Regs.setMark_bAt' (n : Nat) : (r.setMark code m).bAt' n = r.bAt' n := by simp [Regs.bAt']
@[simp] theorem Regs.setMark_pAt (n : Nat) : (r.setMark code m).pAt n = r.pAt n := by simp [Regs.pAt]
@[simp] theorem Regs.setMark_spill : (r.setMark code m).spill = r.spill := (Regs.MarksOnly.setMark r code m).spill

end SetMark

/-! ### Registers written -/

section SetRegister
variable (r : Regs) (n k : Nat)

@[simp] theorem Regs.setG_x (v : Word) : (r.setG n v).x = r.x := by unfold Regs.setG; split <;> rfl
@[simp] theorem Regs.setG_p (v : Word) : (r.setG n v).p = r.p := by unfold Regs.setG; split <;> rfl
@[simp] theorem Regs.setG_b (v : Word) : (r.setG n v).b = r.b := by unfold Regs.setG; split <;> rfl
@[simp] theorem Regs.setG_spill (v : Word) : (r.setG n v).spill = r.spill := by unfold Regs.setG; split <;> rfl
@[simp] theorem Regs.setP_g (v : Bool) : (r.setP n v).g = r.g := by unfold Regs.setP; split <;> rfl
@[simp] theorem Regs.setP_x (v : Bool) : (r.setP n v).x = r.x := by unfold Regs.setP; split <;> rfl
@[simp] theorem Regs.setP_b (v : Bool) : (r.setP n v).b = r.b := by unfold Regs.setP; split <;> rfl
@[simp] theorem Regs.setP_spill (v : Bool) : (r.setP n v).spill = r.spill := by unfold Regs.setP; split <;> rfl

@[simp] theorem Regs.setX_g (v : DWord) : (r.setX n v).g = r.g := rfl
@[simp] theorem Regs.setX_p (v : DWord) : (r.setX n v).p = r.p := rfl
@[simp] theorem Regs.setX_b (v : DWord) : (r.setX n v).b = r.b := rfl
@[simp] theorem Regs.setX_spill (v : DWord) : (r.setX n v).spill = r.spill := rfl
@[simp] theorem Regs.setB_g (v : Word) (t : Nat) : (r.setB n v t).g = r.g := rfl
@[simp] theorem Regs.setB_x (v : Word) (t : Nat) : (r.setB n v t).x = r.x := rfl
@[simp] theorem Regs.setB_p (v : Word) (t : Nat) : (r.setB n v t).p = r.p := rfl
@[simp] theorem Regs.setB_spill (v : Word) (t : Nat) : (r.setB n v t).spill = r.spill := rfl

theorem Regs.xAt_setX (v : DWord) : (r.setX n v).xAt k = if k = n then v else r.xAt k := Tab.get_put ..

theorem Regs.bAt'_setB (v : Word) (t : Nat) : (r.setB n v t).bAt' k = if k = n then v else r.bAt' k := Tab.get_put ..

/-- g0 is not written (R199). -/
theorem Regs.gAt_setG (v : Word) : (r.setG n v).gAt k = if k = n ∧ n ≠ 0 then v else r.gAt k := by
  unfold Regs.gAt Regs.setG
  by_cases hn : n = 0
  · simp [hn]
  · by_cases hk : k = n
    · subst hk; simp [hn]
    · simp [hn, hk, Tab.get_put_other _ _ _ _ _ hk]

/-- p0 is not written (R199). -/
theorem Regs.pAt_setP (v : Bool) (hk : k < 8) : (r.setP n v).pAt k = if k = n ∧ n ≠ 0 then v else r.pAt k := by
  unfold Regs.pAt Regs.setP
  by_cases hn : n = 0
  · simp [hn]
  · rw [if_neg hn, getLsbD_put_bit _ _ _ _ hk]
    by_cases hkn : k = n
    · simp [hkn, hn]
    · simp [hkn]

end SetRegister

/-! ### What a write in flight makes -/

/-- In `u` the registers of the agent are `r`; the bytes and the accumulator elements of its bank are those of `s`. -/
structure State.RegsBecome (s u : State) (c b : Nat) (sh : Bool) (r : Regs) : Prop where
  regs : u.regsOf c b sh = r
  bytes : s.SameBytes u
  tiles : ((u.ctx c b).getD {}).tiles = ((s.ctx c b).getD {}).tiles

/-- In `u` the context is `y`; its g, x, p and b registers and every byte are those of `s`. -/
structure State.CtxBecomes (s u : State) (c b : Nat) (y : Ctx) : Prop where
  ctx : (u.ctx c b).getD {} = y
  file : (s.regsOf c b false).SameFile (u.regsOf c b false)
  bytes : s.SameBytes u

theorem State.RegsBecome.of_modRegsOf {s : State} {c b : Nat} {sh : Bool} (h : sh = false → (s.ctx c b).isSome = true)
    {f : Regs → Regs} (hf : ∀ r, (f r).spill = r.spill) :
    s.RegsBecome (s.modRegsOf c b sh f) c b sh (f (s.regsOf c b sh)) :=
  ⟨State.regsOf_modRegsOf _ _ _ _ _ h, .of_modRegsOf _ _ _ _ hf, State.tiles_modRegsOf ..⟩

theorem State.RegsBecome.logReg {s u : State} {c b : Nat} {sh : Bool} {r : Regs} (h : s.RegsBecome u c b sh r)
    (code : Nat) : s.RegsBecome (u.modCore c (·.logReg b sh code)) c b sh r :=
  ⟨(State.regsOf_logReg ..).trans h.regs, h.bytes.trans (.logReg ..),
    (congrArg (fun o => (o.getD {}).tiles) (State.ctx_logReg ..)).trans h.tiles⟩

theorem State.CtxBecomes.of_modCtx {s : State} {c b : Nat} (h : (s.ctx c b).isSome = true) {f : Ctx → Ctx}
    (hr : ∀ x : Ctx, x.regs.SameFile (f x).regs) (hs : ∀ x, (f x).regs.spill = x.regs.spill)
    (hk : ∀ x, (f x).klatch = x.klatch) : s.CtxBecomes (s.modCtx c b f) c b (f ((s.ctx c b).getD {})) := by
  refine ⟨State.getD_ctx_modCtx h f, ?_, .of_modCtx hs hk⟩
  rw [State.regsOf_modCtx h f]
  exact hr _

/-- Where only marks change of the registers. -/
theorem State.CtxBecomes.of_modCtx_marks {s : State} {c b : Nat} (h : (s.ctx c b).isSome = true) {f : Ctx → Ctx}
    (hr : ∀ x : Ctx, x.regs.MarksOnly (f x).regs) (hk : ∀ x, (f x).klatch = x.klatch) :
    s.CtxBecomes (s.modCtx c b f) c b (f ((s.ctx c b).getD {})) :=
  .of_modCtx h (fun x => (hr x).sameFile) (fun x => (hr x).spill) hk

theorem State.CtxBecomes.logReg {s u : State} {c b : Nat} {y : Ctx} (h : s.CtxBecomes u c b y) (sh : Bool)
    (code : Nat) : s.CtxBecomes (u.modCore c (·.logReg b sh code)) c b y :=
  ⟨(congrArg (·.getD {}) (State.ctx_logReg ..)).trans h.ctx, by rw [State.regsOf_logReg]; exact h.file,
    h.bytes.trans (.logReg ..)⟩

theorem State.CtxBecomes.regs {s u : State} {c b : Nat} {y : Ctx} (h : s.CtxBecomes u c b y) :
    u.regsOf c b false = y.regs := congrArg Ctx.regs h.ctx

end Sys2Proof.Machine
end

section
/-!
SUPPORT. What each kind of write in flight leaves in its registers or its context (R33, R42, R46, R47, R94, R200, R283,
R310, R314, R321, R335).
-/
namespace Sys2Proof.Machine

/-! ### Contexts written -/

/-! Each of these names what one kind of write does to its context; the model's own names are `Ctx.setTiles`,
`Ctx.yAddLane` and `Ctx.setFtab`. -/

section Engines
variable (x : Ctx)

/-- Selected bits of a vector register written (R283). -/
def Ctx.writeV (n : Nat) (val sel : Vec) (marks : List (Nat × Bool)) : Ctx := { x with
  v := x.v.put n (blend (x.vAt n) val sel)
  regs := x.regs.setMarks (codeLane n 0) marks }

theorem Ctx.getLsbD_vAt_writeV (n : Nat) (val sel : Vec) (marks : List (Nat × Bool)) (i : Nat) :
    ((x.writeV n val sel marks).vAt n).getLsbD i = if sel.getLsbD i then val.getLsbD i else (x.vAt n).getLsbD i := by
  rw [show (x.writeV n val sel marks).vAt n = blend (x.vAt n) val sel from Tab.get_put_same .., getLsbD_blend]

theorem Ctx.vAt_writeV_other (n : Nat) (val sel : Vec) (marks : List (Nat × Bool)) (k : Nat) (hk : k ≠ n) :
    (x.writeV n val sel marks).vAt k = x.vAt k := Tab.get_put_other _ _ _ _ _ hk

/-- Selected bits of a mask register written (R283). -/
def Ctx.writeM (n : Nat) (val sel : Mask) : Ctx :=
  let y := x.setM n (blend (x.mAt n) val sel)
  { y with regs := y.regs.setMark (codeM n) false }

/-- Only masks and marks change. -/
theorem Ctx.writeM_eq (n : Nat) (val sel : Mask) :
    ∃ m, x.writeM n val sel = { x with m := m, regs := x.regs.setMark (codeM n) false } := by
  unfold Ctx.writeM Ctx.setM
  split
  · exact ⟨x.m, rfl⟩
  · exact ⟨_, rfl⟩

/-- m0 is not written (R278). -/
theorem Ctx.mAt_writeM (n : Nat) (val sel : Mask) (k : Nat) :
    (x.writeM n val sel).mAt k = if k = n ∧ n ≠ 0 then blend (x.mAt n) val sel else x.mAt k := by
  unfold Ctx.writeM Ctx.setM
  by_cases hn : n = 0
  · simp [Ctx.mAt, hn]
  · by_cases hk : k = n
    · subst hk; simp [Ctx.mAt, hn]
    · simp [Ctx.mAt, hn, hk, Tab.get_put_other _ _ _ _ _ hk]

/-- Lanes of a running sum cleared (R310). -/
def Ctx.clearLanes (n : Nat) (lanes : List Nat) : Ctx :=
  lanes.foldl (fun (x : Ctx) l => { x with
    y := x.y.put (128 * n + l) 0
    regs := x.regs.setMark (codeYLane n l) false }) x

/-- Only lanes and marks change. -/
theorem Ctx.clearLanes_eq (n : Nat) (lanes : List Nat) :
    x.clearLanes n lanes = { x with
      y := lanes.foldl (fun t l => t.put (128 * n + l) 0) x.y
      regs := lanes.foldl (fun r l => r.setMark (codeYLane n l) false) x.regs } := by
  induction lanes generalizing x with
  | nil => rfl
  | cons l lanes ih => exact ih _

theorem Ctx.clearLanes_marksOnly (n : Nat) (lanes : List Nat) : x.regs.MarksOnly (x.clearLanes n lanes).regs := by
  rw [Ctx.clearLanes_eq]
  exact .foldl (fun r _ => .setMark r _ _) lanes x.regs

theorem Ctx.yAt_clearLanes_of_mem (n : Nat) (lanes : List Nat) {l : Nat} (hl : l ∈ lanes) :
    (x.clearLanes n lanes).yAt n l = 0 := by
  rw [Ctx.clearLanes_eq]
  exact Tab.get_foldl_same (key := (128 * n + ·)) (val := fun _ => 0) (fun _ _ _ => Tab.get_put ..) lanes x.y l hl
    (fun _ _ _ => rfl)

theorem Ctx.yAt_clearLanes_other (n : Nat) (lanes : List Nat) (k j : Nat)
    (hk : ∀ l ∈ lanes, 128 * k + j ≠ 128 * n + l) : (x.clearLanes n lanes).yAt k j = x.yAt k j := by
  rw [Ctx.clearLanes_eq]
  exact Tab.get_foldl_other (key := (128 * n + ·)) (val := fun _ => 0) (fun _ _ _ => Tab.get_put ..) lanes x.y _ hk

/-- A latch loaded, with its transposition bit (R314, R330). -/
def Ctx.loadLatch (k : Nat) (bs : List Byte) (z : Bool) (marks : List (Nat × Bool)) : Ctx := { x with
  klatch := x.klatch.replace (16384 * k) bs
  ktr := if z then x.ktr ||| BitVec.ofNat 2 (2 ^ k) else x.ktr &&& ~~~ BitVec.ofNat 2 (2 ^ k)
  regs := x.regs.setMarks (codeLatch (4096 * k)) marks }

end Engines

section Tiles
variable (x : Ctx) (els : List (Nat × Word)) (marks : List (Nat × Bool)) (p : Pend)

theorem Ctx.tileAt_setTiles_of_mem (hd : (els.map (·.1)).Nodup) {e : Nat × Word} (he : e ∈ els) :
    (x.setTiles els marks).tileAt e.1 = e.2 :=
  Tab.get_foldl_same (key := Prod.fst) (val := Prod.snd) (fun _ _ _ => Tab.get_put ..) els x.tiles e he
    (agree_of_nodup_map hd he)

theorem Ctx.tileAt_setTiles_of_not_mem {k : Nat} (hk : k ∉ els.map (·.1)) :
    (x.setTiles els marks).tileAt k = x.tileAt k :=
  Tab.get_foldl_other (key := Prod.fst) (val := Prod.snd) (fun _ _ _ => Tab.get_put ..) els x.tiles k
    (fun _ he h => hk (h ▸ List.mem_map_of_mem he))

theorem Ctx.setTiles_marksOnly : x.regs.MarksOnly (x.setTiles els marks).regs :=
  (Regs.MarksOnly.foldl (fun r _ => Regs.MarksOnly.setMark r _ _) els x.regs).trans (Regs.MarksOnly.setMarks ..)

/-- Elements set by an update of a tile, with the record of those before it that views and stores see until then (R321). -/
def Ctx.updateTiles : Ctx :=
  let y := x.setTiles els marks
  { y with regs := { y.regs with pend := y.regs.pend ++ [p] } }

theorem Ctx.updateTiles_sameFile : x.regs.SameFile (x.updateTiles els marks p).regs :=
  (x.setTiles_marksOnly els marks).sameFile.setPend _

theorem Ctx.updateTiles_spill : (x.updateTiles els marks p).regs.spill = x.regs.spill :=
  (x.setTiles_marksOnly els marks).spill

theorem Ctx.updateTiles_pend : (x.updateTiles els marks p).regs.pend = x.regs.pend ++ [p] :=
  congrArg (· ++ [p]) (x.setTiles_marksOnly els marks).pend

/-- Elements written through a view, which views see at once (R89, R321). -/
def Ctx.viewTiles : Ctx :=
  let y := x.setTiles els marks
  { y with regs := { y.regs with
    pend := y.regs.pend.map (fun p => { p with w := p.w.unsee (els.map (·.1)) }) } }

theorem Ctx.viewTiles_sameFile : x.regs.SameFile (x.viewTiles els marks).regs :=
  (x.setTiles_marksOnly els marks).sameFile.setPend _

theorem Ctx.viewTiles_spill : (x.viewTiles els marks).regs.spill = x.regs.spill :=
  (x.setTiles_marksOnly els marks).spill

end Tiles

/-- Slot `i` of the format table as its image gives it (R42). -/
theorem Ctx.setFtab_slot (x : Ctx) (image : List Byte) (hl : image.length = 516) {i : Nat} (hi : i < 256) :
    (x.setFtab image).ftab.get 0 i = BitVec.ofNat 16 (ofLe ((image.drop (4 + 2 * i)).take 2)) := by
  let slot := fun i => ((image.drop 4).drop (2 * i)).take 2
  have hz : (List.range 256).zip (chunksOf 2 256 (image.drop 4)) = (List.range 256).map (fun i => (i, slot i)) := by
    rw [chunksOf_eq_map 2 (by decide) 256 _ (by rw [List.length_drop, hl])]
    simpa only [List.map_id, id_eq] using List.zip_map' (f := id) (g := slot) (l := List.range 256)
  have hd : (((List.range 256).map (fun i => (i, slot i))).map Prod.fst).Nodup := by
    rw [List.map_map]; exact (List.map_id _).symm ▸ List.nodup_range
  have hm : (i, slot i) ∈ (List.range 256).map (fun i => (i, slot i)) := List.mem_map_of_mem (List.mem_range.2 hi)
  simp only [Ctx.setFtab]
  rw [hz, ← List.drop_drop]
  refine Tab.get_foldl_same (key := Prod.fst) (val := fun e => BitVec.ofNat 16 (ofLe e.2)) ?_ _ _ _ hm
    (agree_of_nodup_map hd hm)
  intro t e k
  by_cases hv : ofLe e.2 = 0
  · simp only [hv, if_true]; exact Tab.get_del ..
  · simp only [hv, if_false]; exact Tab.get_put ..

/-! ### Bytes of the scratchpad -/

/-- Lighting blocks again changes their states and transfers alone (R103). -/
theorem Core.foldl_touchWrite (k : Core) (l : List Nat) :
    ∃ blks xfers, l.foldl Core.touchWrite k = { k with spBlk := blks, xfers := xfers } := by
  induction l generalizing k with
  | nil => exact ⟨k.spBlk, k.xfers, rfl⟩
  | cons n l ih =>
    obtain ⟨blks, xfers, h⟩ : ∃ blks xfers, k.touchWrite n = { k with spBlk := blks, xfers := xfers } := by
      unfold Core.touchWrite
      split
      · exact ⟨_, _, rfl⟩
      · exact ⟨k.spBlk, k.xfers, rfl⟩
    rw [List.foldl_cons, h]
    exact ih _

section SpMade
variable (k : Core) (sh : Bool) (cells : List (Nat × Byte)) (marks : List (Nat × Bool))

/-- Bytes written by a stagehand or by a program. -/
def Core.spMade : Core := if sh then k.spWrite cells marks else k.spPut cells marks

theorem Core.spMade_eq : ∃ spMarks blks xfers, k.spMade sh cells marks
    = { k with sp := k.sp.writeCells cells, spMarks := spMarks, spBlk := blks, xfers := xfers } := by
  cases sh with
  | true =>
    obtain ⟨blks, xfers, h⟩ := k.foldl_touchWrite (distinct (cells.map (fun e => spBlock e.1)))
    exact ⟨_, blks, xfers, congrArg (·.spPut cells marks) h⟩
  | false => exact ⟨_, k.spBlk, k.xfers, rfl⟩

theorem Core.spMade_sp : (k.spMade sh cells marks).sp = k.sp.writeCells cells := by
  obtain ⟨_, _, _, h⟩ := k.spMade_eq sh cells marks
  rw [h]

theorem Core.spMade_sh : (k.spMade sh cells marks).sh = k.sh := by
  obtain ⟨_, _, _, h⟩ := k.spMade_eq sh cells marks
  rw [h]

theorem Core.spMade_bank (b : Nat) : (k.spMade sh cells marks).bank b = k.bank b := by
  obtain ⟨_, _, _, h⟩ := k.spMade_eq sh cells marks
  rw [h]; rfl

end SpMade

/-! ### Each kind of write -/

section Kinds
variable {s : State} {c b : Nat} {sh : Bool} (due : Nat)

theorem State.applyWrite_g (h : sh = false → (s.ctx c b).isSome = true) (n : Nat) (v : Word) (m : Bool) :
    s.RegsBecome (s.applyWrite c b sh due (.g n v m)).1 c b sh (((s.regsOf c b sh).setG n v).setMark (codeG n) m) :=
  (State.RegsBecome.of_modRegsOf h (f := fun r => (r.setG n v).setMark (codeG n) m) (by simp)).logReg _

theorem State.applyWrite_x (h : sh = false → (s.ctx c b).isSome = true) (n : Nat) (v : DWord) (m : Bool) :
    s.RegsBecome (s.applyWrite c b sh due (.x n v m)).1 c b sh (((s.regsOf c b sh).setX n v).setMark (codeX n) m) :=
  (State.RegsBecome.of_modRegsOf h (f := fun r => (r.setX n v).setMark (codeX n) m) (by simp)).logReg _

theorem State.applyWrite_p (h : sh = false → (s.ctx c b).isSome = true) (n : Nat) (v : Bool) :
    s.RegsBecome (s.applyWrite c b sh due (.p n v)).1 c b sh (((s.regsOf c b sh).setP n v).setMark (codeP n) false) :=
  (State.RegsBecome.of_modRegsOf h (f := fun r => (r.setP n v).setMark (codeP n) false) (by simp)).logReg _

theorem State.applyWrite_b (h : sh = false → (s.ctx c b).isSome = true) (n : Nat) (v : Word) :
    s.RegsBecome (s.applyWrite c b sh due (.b n v)).1 c b sh (((s.regsOf c b sh).setB n v due).setMark (codeB n) false) :=
  (State.RegsBecome.of_modRegsOf h (f := fun r => (r.setB n v due).setMark (codeB n) false) (by simp)).logReg _

theorem State.applyWrite_sp (unit : Nat) (cells : List (Nat × Byte)) (marks : List (Nat × Bool)) :
    (s.applyWrite c b sh due (.sp unit cells marks)).1 = s.modCore c (·.spMade sh cells marks) := rfl

theorem State.applyWrite_spill (a : Nat) (v : Word) (m : Bool) :
    (s.applyWrite c b sh due (.spill a v m)).1 = s.modRegsOf c b sh (fun r =>
      { r with spill := r.spill.writeN a (toLe 4 v.toNat) }.setMark (codeSpill (a / 4)) m) := rfl

theorem State.applyWrite_v (h : (s.ctx c b).isSome = true) (n ew : Nat) (val sel : Vec) (marks : List (Nat × Bool)) :
    s.CtxBecomes (s.applyWrite c b sh due (.v n ew val sel marks)).1 c b
      (((s.ctx c b).getD {}).writeV n val sel marks) :=
  (State.CtxBecomes.of_modCtx_marks h (f := (·.writeV n val sel marks)) (fun _ => .setMarks ..) (fun _ => rfl)).logReg sh _

theorem State.applyWrite_m (h : (s.ctx c b).isSome = true) (n : Nat) (val sel : Mask) :
    s.CtxBecomes (s.applyWrite c b sh due (.m n val sel)).1 c b (((s.ctx c b).getD {}).writeM n val sel) := by
  refine (State.CtxBecomes.of_modCtx_marks h (f := (·.writeM n val sel)) (fun x => ?_) (fun x => ?_)).logReg sh _
  all_goals
    obtain ⟨m, hm⟩ := x.writeM_eq n val sel
    rw [hm]
  exact .setMark ..

theorem State.applyWrite_view (h : (s.ctx c b).isSome = true) (els : List (Nat × Word)) (marks : List (Nat × Bool)) :
    s.CtxBecomes (s.applyWrite c b sh due (.view els marks)).1 c b (((s.ctx c b).getD {}).viewTiles els marks) :=
  .of_modCtx h (f := (·.viewTiles els marks)) (fun x => x.viewTiles_sameFile ..) (fun x => x.viewTiles_spill ..)
    (fun _ => rfl)

theorem State.applyWrite_yadd (h : (s.ctx c b).isSome = true) (n l : Nat) (nan inf neg : Bool) (m : Nat) (e : Int)
    (mark : Bool) :
    s.CtxBecomes (s.applyWrite c b sh due (.yadd n l nan inf neg m e mark)).1 c b
      (((s.ctx c b).getD {}).yAddLane n l (yVal nan inf neg m e) mark) :=
  .of_modCtx_marks h (f := (·.yAddLane n l (yVal nan inf neg m e) mark)) (fun _ => .setMark ..) (fun _ => rfl)

theorem State.applyWrite_yclr (h : (s.ctx c b).isSome = true) (n : Nat) (lanes : List Nat) :
    s.CtxBecomes (s.applyWrite c b sh due (.yclr n lanes)).1 c b (((s.ctx c b).getD {}).clearLanes n lanes) :=
  .of_modCtx_marks h (f := (·.clearLanes n lanes)) (fun x => x.clearLanes_marksOnly ..)
    (fun x => by rw [x.clearLanes_eq])

/-- The record of what stood at `keys`, which an update due in a cycle leaves for views and stores (R321). -/
def State.seenPend (s : State) (c b due t : Nat) (keys : List Nat) : Pend :=
  ⟨due + 4, s.nextId, 2, false, .tileSeen t (keys.map (fun k => (k, ((s.ctx c b).getD {}).tileAt k)))⟩

/-- An update of a tile draws a number for its record, which changes no context. -/
theorem State.CtxBecomes.of_updateTiles (h : (s.ctx c b).isSome = true) (els : Ctx → List (Nat × Word))
    (marks : List (Nat × Bool)) (p : Ctx → Pend) :
    let x := (s.ctx c b).getD {}
    s.CtxBecomes (s.fresh.2.modCtx c b (fun x => x.updateTiles (els x) marks (p x))) c b
      (x.updateTiles (els x) marks (p x)) := by
  obtain ⟨hc, hf, hb⟩ := State.CtxBecomes.of_modCtx (s := s.fresh.2) h
    (f := fun x => x.updateTiles (els x) marks (p x)) (fun x => x.updateTiles_sameFile ..)
    (fun x => x.updateTiles_spill ..) (fun _ => rfl)
  exact ⟨hc, hf, hb.phys, hb.sp, hb.spill, hb.latch⟩

/-- The elements of a step's update after it (R33). -/
def accEls (x : Ctx) (flush ovw : Bool) (els : List (Nat × List Word)) : List (Nat × Word) :=
  els.map (fun e => (e.1, BitVec.ofNat 32 (accUpdate flush ovw (x.tileAt e.1).toNat (e.2.map BitVec.toNat))))

theorem State.applyWrite_tileAcc (h : (s.ctx c b).isSome = true) (t : Nat) (ovw flush : Bool)
    (els : List (Nat × List Word)) :
    let x := (s.ctx c b).getD {}
    s.CtxBecomes (s.applyWrite c b sh due (.tileAcc t ovw flush els)).1 c b
      (x.updateTiles (accEls x flush ovw els) [] (s.seenPend c b due t (els.map (·.1)))) := by
  have := State.CtxBecomes.of_updateTiles h (accEls · flush ovw els) []
    (fun x => ⟨due + 4, s.nextId, 2, false, .tileSeen t (els.map (fun e => (e.1, x.tileAt e.1)))⟩)
  rw [State.seenPend, List.map_map]
  exact this

theorem State.applyWrite_tileSet (h : (s.ctx c b).isSome = true) (t : Nat) (els : List (Nat × Word))
    (marks : List (Nat × Bool)) :
    s.CtxBecomes (s.applyWrite c b sh due (.tileSet t els marks)).1 c b
      (((s.ctx c b).getD {}).updateTiles els marks (s.seenPend c b due t (els.map (·.1)))) := by
  have := State.CtxBecomes.of_updateTiles h (fun _ => els) marks
    (fun x => ⟨due + 4, s.nextId, 2, false, .tileSeen t (els.map (fun e => (e.1, x.tileAt e.1)))⟩)
  rw [State.seenPend, List.map_map]
  exact this

theorem State.applyWrite_latch (k : Nat) (bs : List Byte) (z : Bool) (marks : List (Nat × Bool)) :
    (s.applyWrite c b sh due (.latch k bs z marks)).1 = s.modCtx c b (·.loadLatch k bs z marks) := rfl

theorem State.applyWrite_ftab (h : (s.ctx c b).isSome = true) (image : List Byte) :
    s.CtxBecomes (s.applyWrite c b sh due (.ftab image)).1 c b
      { ((s.ctx c b).getD {}).setFtab image with ftabAt := s.cue + 1 } :=
  .of_modCtx_marks h (f := fun x => { x.setFtab image with ftabAt := s.cue + 1 }) (fun _ => .refl _) (fun _ => rfl)

end Kinds

end Sys2Proof.Machine
end

section
/-!
SUPPORT. A write in flight changes what it names and nothing else.
-/
namespace Sys2Proof.Machine

/-- Settles O32: each kind of write in flight becomes a change of the registers or of the context that it names
(`State.applyWrite_g` and its like), whose fields are then read back. -/
theorem writesInFlight : Obligations.WritesInFlight := by
  intro s c b sh due h
  dsimp only
  refine ⟨fun n v m => ?g, fun n v m => ?x, fun n v hn => ?p, fun n v => ?b, fun a v m => ?spill,
    fun unit cells marks => ?sp, fun key v m hs => ?view, fun hs => ?engines⟩
  case g =>
    obtain ⟨hr, hb, ht⟩ := State.applyWrite_g due h n v m
    rw [hr]
    exact ⟨fun hn => by simp [Regs.gAt_setG, hn], fun k hk => by simp [Regs.gAt_setG, hk], by simp, by simp, by simp,
      hb, ht⟩
  case x =>
    obtain ⟨hr, hb, ht⟩ := State.applyWrite_x due h n v m
    rw [hr]
    exact ⟨by simp [Regs.xAt_setX], fun k hk => by simp [Regs.xAt_setX, hk], by simp, by simp, by simp, hb, ht⟩
  case p =>
    obtain ⟨hr, hb, ht⟩ := State.applyWrite_p due h n v
    rw [hr]
    exact ⟨fun h0 => by simp [Regs.pAt_setP, hn, h0], fun k hk h8 => by simp [Regs.pAt_setP, h8, hk],
      by simp, by simp, by simp, hb, ht⟩
  case b =>
    obtain ⟨hr, hb, ht⟩ := State.applyWrite_b due h n v
    rw [hr]
    exact ⟨by simp [Regs.bAt'_setB], fun k hk => by simp [Regs.bAt'_setB, hk], by simp, by simp, by simp, hb, ht⟩
  case spill =>
    rw [State.applyWrite_spill, State.regsOf_modRegsOf _ _ _ _ _ h]
    exact ⟨by simp, ⟨by simp, by simp, by simp, by simp⟩, State.phys_modRegsOf ..,
      State.sp_modRegsOf s c b sh _, State.tiles_modRegsOf ..⟩
  case sp =>
    have hb : ∀ k : Core, (k.spMade sh cells marks).bank b = k.bank b := fun k => k.spMade_bank sh cells marks b
    rw [State.applyWrite_sp, State.regsOf_modCore s c c b sh (·.spMade sh cells marks) (fun k => k.spMade_sh ..) hb,
      State.ctx_modCore s c c b (·.spMade sh cells marks) hb, State.core_modCore, Core.spMade_sp]
    exact ⟨fun _ => rfl, fun k hk => by rw [State.core_modCore_other _ _ _ _ hk], ⟨rfl, rfl, rfl, rfl⟩, rfl,
      rfl, rfl⟩
  case view =>
    subst hs
    obtain ⟨hc, hf, hb⟩ := State.applyWrite_view due (h rfl) [(key, v)] [(key, m)]
    rw [hc]
    exact ⟨Ctx.tileAt_setTiles_of_mem _ _ [(key, m)] (e := (key, v)) (by simp) List.mem_cons_self,
      fun k hk => Ctx.tileAt_setTiles_of_not_mem _ _ [(key, m)] (by simpa using hk), hf, hb⟩
  case engines =>
    subst hs
    have hx := h rfl
    refine ⟨fun n ew val sel marks => ?vec, fun n val sel => ?mask, fun n l nan inf neg m e mark => ?yadd,
      fun n lanes => ?yclr, fun t ovw flush els hd => ?tileAcc, fun t els marks hd => ?tileSet,
      fun k bs z marks hk hl hw => ?latch, fun image hl => ?ftab⟩
    case vec =>
      obtain ⟨hc, hf, hb⟩ := State.applyWrite_v due hx n ew val sel marks
      rw [hc]
      exact ⟨Ctx.getLsbD_vAt_writeV _ n val sel marks, Ctx.vAt_writeV_other _ n val sel marks, ⟨hf, hb⟩, rfl⟩
    case mask =>
      obtain ⟨hc, hf, hb⟩ := State.applyWrite_m due hx n val sel
      obtain ⟨m, hm⟩ := Ctx.writeM_eq ((s.ctx c b).getD {}) n val sel
      rw [hc]
      refine ⟨fun hn i => ?_, fun k hk => ?_, by rw [hm], ⟨hf, hb⟩, by rw [hm]⟩
      · rw [Ctx.mAt_writeM, if_pos ⟨rfl, hn⟩, getLsbD_blend]
      · rw [Ctx.mAt_writeM, if_neg (by omega)]
    case yadd =>
      obtain ⟨hc, hf, hb⟩ := State.applyWrite_yadd due hx n l nan inf neg m e mark
      rw [hc]
      refine ⟨Tab.get_put_same .., fun k j hk => Tab.get_put_other _ _ _ _ _ hk, fun i => ?_,
        fun k hk => Tab.get_put_other _ _ _ _ _ hk, ⟨hf, hb⟩, rfl⟩
      exact (congrArg (fun w : Word => bitAt w.toNat i) (Tab.get_put_same ..)).trans (bitAt_raise_sticky ..)
    case yclr =>
      obtain ⟨hc, hf, hb⟩ := State.applyWrite_yclr due hx n lanes
      rw [hc]
      exact ⟨fun _ hl => Ctx.yAt_clearLanes_of_mem _ n lanes hl, Ctx.yAt_clearLanes_other _ n lanes,
        by rw [Ctx.clearLanes_eq], ⟨hf, hb⟩, by rw [Ctx.clearLanes_eq]⟩
    case tileAcc =>
      have hu := State.applyWrite_tileAcc (sh := false) due hx t ovw flush els
      rw [hu.ctx, hu.regs]
      have hk : (accEls ((s.ctx c b).getD {}) flush ovw els).map (·.1) = els.map (·.1) := by
        simp [accEls]
      refine ⟨fun e he => ?_, fun k hn => ?_, Ctx.updateTiles_pend .., hu.regs ▸ hu.file, hu.bytes⟩
      · exact Ctx.tileAt_setTiles_of_mem _ _ [] (hk ▸ hd) (List.mem_map_of_mem he)
      · exact Ctx.tileAt_setTiles_of_not_mem _ _ [] (hk ▸ hn)
    case tileSet =>
      have hu := State.applyWrite_tileSet (sh := false) due hx t els marks
      rw [hu.ctx, hu.regs]
      exact ⟨fun e he => Ctx.tileAt_setTiles_of_mem _ els marks hd he,
        fun k hn => Ctx.tileAt_setTiles_of_not_mem _ els marks hn, Ctx.updateTiles_pend .., hu.regs ▸ hu.file, hu.bytes⟩
    case latch =>
      rw [State.applyWrite_latch, State.getD_ctx_modCtx hx, State.regsOf_modCtx hx]
      have hm := Regs.MarksOnly.setMarks ((s.ctx c b).getD {}).regs (codeLatch (4096 * k)) marks
      refine ⟨fun i hi => ?_, fun a ha => ?_, ?_, ?_, hm.sameFile, hm.spill, State.modCtx_phys ..,
        fun q => State.sp_modCtx .., rfl⟩
      · exact (Memory.read_replace _ _ _ _ hw).trans (by rw [if_pos (by omega), Nat.add_sub_cancel_left])
      · exact (Memory.read_replace _ _ _ _ hw).trans (if_neg (by omega))
      · exact (getLsbD_put_bit _ _ _ _ hk).trans (if_pos rfl)
      · exact (getLsbD_put_bit _ _ _ _ (by omega)).trans (if_neg (by omega))
    case ftab =>
      obtain ⟨hc, hf, hb⟩ := State.applyWrite_ftab due hx image
      rw [hc]
      exact ⟨rfl, fun i hi => Ctx.setFtab_slot _ image hl hi, ⟨hf, hb⟩, rfl⟩

end Sys2Proof.Machine
end

section
/-!
SUPPORT. How a scalar word leaves its stream: the place a stream moves to is kept by the loop bodies it meets on its way
(R60, R64, R170).
-/
namespace Sys2Proof.Machine

/-! ### Where a stream stands -/

/-- `u` stands where `t` does, timed from the same cycle: the loop bodies it meets change its wait alone. -/
structure Stream.SamePlace (t u : Stream) : Prop where
  line : u.line = t.line
  slot : u.slot = t.slot
  prev : u.prev = t.prev
  redir : u.redir = t.redir

namespace Stream.SamePlace

theorem refl (t : Stream) : t.SamePlace t := ⟨rfl, rfl, rfl, rfl⟩

theorem trans {t u v : Stream} (h : t.SamePlace u) (k : u.SamePlace v) : t.SamePlace v :=
  ⟨k.line.trans h.line, k.slot.trans h.slot, k.prev.trans h.prev, k.redir.trans h.redir⟩

theorem join (x : Ctx) (j : Nat) (t : Stream) : t.SamePlace (x.join j t) := ⟨rfl, rfl, rfl, rfl⟩

theorem foldl_join (x : Ctx) (l : List Nat) (t : Stream) : t.SamePlace (l.foldl (fun t j => x.join j t) t) := by
  induction l generalizing t with
  | nil => exact refl t
  | cons j l ih => exact (join x j t).trans (ih _)

theorem reach (x : Ctx) (strm : Nat) (t : Stream) : t.SamePlace (x.reach strm t) := by
  unfold Ctx.reach
  split
  · exact refl t
  · split <;> exact ⟨rfl, rfl, rfl, rfl⟩

theorem fall (x : Ctx) (strm frm : Nat) (t : Stream) : t.SamePlace (x.fall strm frm t) := by
  unfold Ctx.fall
  split
  · exact refl t
  · split
    · exact ⟨rfl, rfl, rfl, rfl⟩
    · exact reach x strm t

theorem land (x : Ctx) (strm : Nat) (t : Stream) : t.SamePlace (x.land strm t) := by
  let past := fun j => x.inBody strm t.line j && (x.loopBody j strm).map (·.1) != some t.line
  let u : Stream := { t with inside := t.inside.filter past, late := t.late.filter (x.inBody strm t.line) }
  have hu : t.SamePlace u := ⟨rfl, rfl, rfl, rfl⟩
  exact (hu.trans (foldl_join x _ u)).trans (reach x strm _)

theorem moveOn (x : Ctx) (strm frm now : Nat) (t : Stream) : (t.advance now).SamePlace (x.moveOn strm frm now t) := by
  unfold Ctx.moveOn
  dsimp only
  split
  · split
    · exact refl _
    · exact land x strm _
  · exact fall x strm frm _

end Stream.SamePlace

/-! ### The end of a bundle -/

/-- The scalar stream of the current agent after the last word of a bundle. -/
def State.nextStream (s : State) : Stream :=
  if s.timed then s.me.moveOn 0 s.cur.line s.now s.regs.str else s.regs.str.advance s.now

theorem State.advance_samePlace_nextStream (s : State) : (s.regs.str.advance s.now).SamePlace s.nextStream := by
  unfold State.nextStream
  split
  · exact .moveOn ..
  · exact .refl _

theorem State.sh_of_timed {s : State} (h : s.timed = true) : s.cur.sh = false := by
  simp only [State.timed, Bool.and_eq_true, Bool.not_eq_true'] at h
  exact h.1

theorem State.regs_of_program {s : State} (h : s.cur.sh = false) : s.regs = s.me.regs := by
  simp [State.regs, h]

theorem State.retire_of_more {s : State} (h : s.cur.more = true) : s.retire = s := if_pos h

section LastWord
variable {s : State} (hm : s.cur.more = false) (hr : s.cur.ret = false) (hl : s.cur.late = none)
include hm hr hl

/-- The last word of a bundle of a program, without a TRET and without a cause raised after the bundle. -/
theorem State.retire_of_timed (ht : s.timed = true) :
    s.retire = s.modMe (fun x => x.setStream 0 (x.moveOn 0 s.cur.line s.now x.regs.str)) := by
  simp [State.retire, State.bundleEnd, State.takeLate, hm, hr, ht, hl]

/-- The same for a handler and for the stagehand. -/
theorem State.retire_of_untimed (ht : s.timed = false) :
    s.retire = s.modRegs (fun r => { r with str := r.str.advance s.now }) := by
  simp [State.retire, State.bundleEnd, State.takeLate, hm, hr, ht, hl]

theorem State.sameBytes_retire : s.SameBytes s.retire := by
  cases ht : s.timed with
  | true =>
    rw [State.retire_of_timed hm hr hl ht]
    exact .of_modMe (fun _ => rfl) (fun _ => rfl)
  | false =>
    rw [State.retire_of_untimed hm hr hl ht]
    exact .of_modRegs (fun _ => rfl)

theorem State.regs_retire (ha : s.hasAgent = true) : s.retire.regs = { s.regs with str := s.nextStream } := by
  cases ht : s.timed with
  | true =>
    have hs := State.sh_of_timed ht
    rw [State.retire_of_timed hm hr hl ht, State.nextStream, if_pos ht, State.regs_of_program (by simpa using hs),
      State.me_modMe _ _ (State.hasAgent_ctx ha hs), State.regs_of_program hs]
    rfl
  | false =>
    rw [State.retire_of_untimed hm hr hl ht, State.regs_modRegs _ _ ha, State.nextStream, if_neg (by simp [ht])]

end LastWord

theorem Stream.advance_of_redir_none {t : Stream} (h : t.redir = none) (now : Nat) :
    (t.advance now).line = t.seqLine ∧ (t.advance now).slot = t.seqSlot := by
  simp [Stream.advance, h]

theorem Stream.advance_of_redir_some {t : Stream} {w : Word} (h : t.redir = some w) (now : Nat) :
    (t.advance now).line = w.toNat / 32 ∧ (t.advance now).slot = w.toNat % 32 := by
  simp [Stream.advance, h]

theorem Stream.advance_prev (t : Stream) (now : Nat) : (t.advance now).prev = now + t.skip := by
  unfold Stream.advance; split <;> rfl

theorem Stream.advance_redir (t : Stream) (now : Nat) : (t.advance now).redir = none := by
  unfold Stream.advance
  split
  · rfl
  · next h => exact h

/-- Settles O24: the place is that of `Stream.advance`, which the loop bodies on the way keep
(`Stream.SamePlace.moveOn`). -/
theorem retirementMovesTheStream : Obligations.RetirementMovesTheStream := by
  intro s
  refine ⟨State.retire_of_more, fun hm hr hl ha => ?_⟩
  have hp := s.advance_samePlace_nextStream
  rw [State.regs_retire hm hr hl ha]
  refine ⟨State.sameBytes_retire hm hr hl, rfl, rfl, rfl, rfl, rfl, fun ht => if_neg (by simp [ht]), fun ht => if_pos ht,
    fun h => ?_, fun w h => ?_, hp.redir.trans (Stream.advance_redir ..), hp.prev.trans (Stream.advance_prev ..)⟩
  · obtain ⟨h1, h2⟩ := Stream.advance_of_redir_none h s.now
    exact ⟨hp.line.trans h1, hp.slot.trans h2⟩
  · obtain ⟨h1, h2⟩ := Stream.advance_of_redir_some h s.now
    exact ⟨hp.line.trans h1, hp.slot.trans h2⟩

end Sys2Proof.Machine
end

section
/-!
SUPPORT. A word that takes effect meets no schedule fault, and one that reaches no memory only drops bookings of cycles
gone by (R64, R94, R164, R233).
-/
namespace Sys2Proof.Machine

/-! ### Words that take effect -/

theorem State.not_sched_of_fate {s : State} {strm : Nat} {p : Bool} {f : Form} (h : s.fate strm p f = .went) :
    f.sched = false := by
  cases hs : f.sched with
  | false => rfl
  | true =>
    simp only [State.fate, hs, Bool.true_or, if_true] at h
    split at h <;> cases h

theorem State.scalarGoes.hasAgent {s : State} {h : SHdr} {f : Form} (g : s.scalarGoes h f) : s.hasAgent = true := g.2.1

theorem State.scalarGoes.not_sched {s : State} {h : SHdr} {f : Form} (g : s.scalarGoes h f) : f.sched = false :=
  State.not_sched_of_fate (f := f.guarded h) g.2.2

section NoAccess
variable {s : State} {f : Form} (hr : f.rows = []) (hw : f.touch ++ f.wtouch = [])
include hr hw

/-- A word under way that reaches no memory: a program's drops the bookings of cycles gone by (R94). -/
theorem State.started_eq : s.started f = if s.timed then
    ({ s with cur := { s.cur with verdict := .went } } : State).modMe (fun x => book x s.now [])
    else { s with cur := { s.cur with verdict := .went } } := by
  obtain ⟨h1, h2⟩ := List.append_eq_nil_iff.1 hw
  unfold State.started State.commit
  simp only [h1, h2, hr, distinct, List.append_nil, List.foldl_nil, if_true, List.isEmpty_nil, Bool.not_true, Bool.and_false,
    Bool.false_eq_true, if_false]
  rfl

/-- The context of a word under way is as it was but for its bookings. -/
theorem State.me_started (ha : s.hasAgent = true) : ∃ bs, (s.started f).me = { s.me with booked := bs } := by
  let t : State := { s with cur := { s.cur with verdict := .went } }
  cases ht : s.timed with
  | true =>
    rw [State.started_eq hr hw, if_pos ht]
    exact ⟨_, State.me_modMe t _ (State.hasAgent_ctx (s := t) ha (State.sh_of_timed ht))⟩
  | false =>
    rw [State.started_eq hr hw, if_neg (by simp [ht])]
    exact ⟨s.me.booked, rfl⟩

theorem State.started_cur : (s.started f).cur = { s.cur with verdict := .went } := by
  rw [State.started_eq hr hw]
  split
  · exact State.modMe_cur ..
  · rfl

theorem State.regs_started (ha : s.hasAgent = true) (hs : s.cur.sh = false) : (s.started f).regs = s.regs := by
  obtain ⟨bs, hb⟩ := State.me_started hr hw ha
  rw [State.regs_of_program (by rw [State.started_cur hr hw]; exact hs), hb, State.regs_of_program hs]

end NoAccess

/-! ### LSTART -/

/-- The level that LSTART starts in a word on line `line` that issues at `now` (R64, R233). -/
def Ctx.newLevel (x : Ctx) (now line j : Nat) : Level :=
  { active := true, began := false, first := now + 1, start := now + 1, idx := x.index j
    count := x.loopCount j, period := x.loopPeriod j, ilk := x.loopIlk j
    starts := (x.levels.get {} j).starts + 1
    within := x.stack.filter (fun i => match x.loopBody i 0 with
      | some (f, l) => decide (f ≤ line) && decide (line ≤ l)
      | none => false) }

/-- A context whose level `j` has started. -/
def Ctx.startLevel (x : Ctx) (now line j : Nat) : Ctx :=
  { x with levels := x.levels.put j (x.newLevel now line j), stack := j :: x.stack }

/-- What LSTART asks for: that its level may start. -/
def lstartForm (s : State) (j : Nat) : Form := { sched := !s.lstartOk j }

theorem execLstart_eq (h : SHdr) (lvl : BitVec 3) (s : State) : execLstart h lvl s =
    s.scalar h (lstartForm s lvl.toNat) (fun u => u.modMe (·.startLevel u.now u.cur.line lvl.toNat)) := rfl

/-- Only a program has levels (R233, log 20). -/
theorem State.program_of_lstartOk {s : State} {j : Nat} (h : s.lstartOk j = true) : s.cur.sh = false := by
  simp only [State.lstartOk, Bool.and_eq_true, Bool.not_eq_true'] at h
  exact h.1.1.1.1

/-- Settles O34: the word is under way with every register and level as it was, and `Ctx.startLevel` is read back. -/
theorem loopStart : Obligations.LoopStart := by
  intro s h lvl j g
  have ha := g.hasAgent
  have hs : s.cur.sh = false := State.program_of_lstartOk (Bool.not_eq_false' .. ▸ g.not_sched)
  let f : Form := (lstartForm s j).guarded h
  have hr : f.rows = [] := rfl
  have hw : f.touch ++ f.wtouch = [] := rfl
  obtain ⟨-, hb, -, -, hn, -, ha'⟩ := State.started_reg ha f hr hw
  obtain ⟨bs, hx⟩ := State.me_started hr hw ha
  have hc := State.started_cur (s := s) hr hw
  let t := s.started f
  let u := t.modMe (·.startLevel t.now t.cur.line j)
  have hts : t.cur.sh = false := by rw [hc]; exact hs
  have hu : u.me = t.me.startLevel t.now t.cur.line j := State.me_modMe t _ (State.hasAgent_ctx ha' hts)
  have hl : u.me.levels.get {} j = t.me.newLevel t.now t.cur.line j := by rw [hu]; exact Tab.get_put_same ..
  refine ⟨u, (execLstart_eq h lvl s).trans (State.scalar_goes g _), ?_⟩
  rw [hl, hx, hn]
  refine ⟨rfl, rfl, rfl, rfl, rfl, rfl, by rw [hu, hx]; rfl, ?_, hb.trans (.of_modMe (fun _ => rfl) (fun _ => rfl)),
    fun i hi => ?_⟩
  · rw [State.regs_of_program (s := u) ((State.modMe_cur ..).symm ▸ hts), hu, ← State.regs_started hr hw ha hs,
      State.regs_of_program hts]
    rfl
  · rw [hu, hx]
    exact Tab.get_put_other _ _ _ _ _ hi

end Sys2Proof.Machine
end

section
/-!
SUPPORT. Where the statement about launch events fails: a release packet in a state in which two launches bear one number,
the first rooted at this package and the second at another (R374, log 50). The model takes the members lost as the packet
gives them for either launch or for neither, as the root of the launch that the packet is for says; the statement asks it
of each launch's own root.
-/
namespace Sys2Proof.Machine

/-- A running launch of number 5 whose root is package `root`. -/
def twinLaunch (root : Nat) : Launch :=
  { newLaunch 5 0 none {} (LPacket.ofBytes []) [] 0 with state := .running, rootPkg := root }

/-- A release of launch identifier 0 that names house cue 1016 and three members that have left. -/
def twinRelease : Packet := { Packet.mk0 10 0 with addr := 0, aux := 3, payload := toLe 8 1016 }

/-- Package 0 with two launches of number 5, the first its own, to which the release comes. -/
def twinState : State :=
  { State.reset with launches := [twinLaunch 0, twinLaunch 1], ev := { pkt := some twinRelease, flag := true } }

/-- The members lost by each launch of the state an instruction answers. -/
def lostCounts : Out → List Nat
  | .next t => t.launches.map (·.lost)
  | _ => []

theorem lostCounts_twinState : lostCounts (exec .barrierReleasePacket twinState) = [0, 0] := by decide

/-- Refutes O54: its clause on release packets, at `twinState`, asks that the second launch of number 5 has lost the three
members that the packet names; in the model it has lost none. -/
theorem not_launchEvents : ¬ Obligations.LaunchEvents := by
  intro h
  obtain ⟨-, -, -, -, -, -, -, -, hrelease, -⟩ := h
  have he := hrelease twinState twinRelease (twinLaunch 0) rfl rfl (.inl rfl) rfl rfl rfl (by decide)
  exact absurd (lostCounts_twinState.symm.trans (congrArg lostCounts he)) (by decide)

end Sys2Proof.Machine
end

section
/-!
SUPPORT. What a step does first (R423, log 1): the event that is due, or the work of the cores.
-/
namespace Sys2Proof.Machine

theorem eventRank_eq_zero_iff (i : Instr) :
    eventRank i = 0 ↔ i ≠ .qrepair ∧ i ≠ .kick ∧ i ≠ .wakeRegister ∧ i ≠ .qctlWrite := by
  unfold eventRank
  split <;> simp_all

section DueEvent
variable {s : State} {t : Nat} {i : Instr} {a : EvArg} {rest : List (Nat × Instr × EvArg)}
  (hs : s.agenda = (t, i, a) :: rest) (ht : t ≤ s.cue)
include hs ht

/-- An event that no work of the cores goes before. -/
theorem step_of_due_first (hi : eventRank i = 0 ∨ workCycle exec s = none) :
    step s = exec i { s with agenda := rest, ev := a } := by
  unfold step stepWith
  simp only [hs, if_neg (Nat.not_lt.2 ht)]
  split
  · rfl
  · next h0 => rw [hi.resolve_left h0]; rfl

/-- The work of the cores goes before an event that waits for it (R423). -/
theorem step_of_due_after_work (hi : eventRank i ≠ 0) {o : Out} (ho : workCycle exec s = some o) : step s = o := by
  unfold step stepWith
  simp only [hs, if_neg (Nat.not_lt.2 ht), if_neg hi, ho]

end DueEvent

/-- Settles O7: by the rank of the event (`eventRank_eq_zero_iff`). -/
theorem stepRunsEvent : Obligations.StepRunsEvent := by
  intro s t i a rest hs ht
  refine ⟨fun hi => step_of_due_first hs ht (hi.imp_left (eventRank_eq_zero_iff i).2), fun hi o ho =>
    step_of_due_after_work hs ht (fun h0 => ?_) ho⟩
  obtain ⟨h1, h2, h3, h4⟩ := (eventRank_eq_zero_iff i).1 h0
  exact hi.elim h1 (·.elim h2 (·.elim h3 h4))

end Sys2Proof.Machine
end

section
/-!
SUPPORT. The reset state: every core, die and queue stands as it is created (R106, R240, R241, R348, R417).
-/
namespace Sys2Proof.Machine

theorem State.core_reset (c : Nat) : State.reset.core c = {} := rfl
theorem State.die_reset (d : Nat) : State.reset.die d = {} := rfl
theorem State.queue_reset (d q : Nat) : State.reset.queue d q = {} := rfl

/-- A new context's n registers read as full (R70). -/
theorem Ctx.nAt_new (n : Nat) : ({} : Ctx).nAt n = 0xFFFF := by
  unfold Ctx.nAt
  split <;> rfl

/-- A new context's tokens read as complete, in either half (R240). -/
theorem Regs.tokst_new (h : Nat) (hh : h < 2) : ({} : Regs).tokst h = 0xFFFFFFFF := by
  have h01 : h = 0 ∨ h = 1 := by omega
  rcases h01 with rfl | rfl
  · decide
  · decide

/-- Settles O13: the reset state has no core, die or queue of its own yet, so each reads as a new one. -/
theorem resetValues : Obligations.ResetValues := by
  refine ⟨rfl, fun c n => ?core, fun d => ?die, fun d n => by rw [State.die_reset]; rfl, fun d q => ?queue,
    fun c => ?shared, rfl, rfl, rfl, rfl, rfl, Ctx.nAt_new, Regs.tokst_new⟩
  case core => rw [State.core_reset]; exact ⟨rfl, rfl⟩
  case die => rw [State.die_reset]; exact ⟨rfl, rfl, rfl, rfl⟩
  case queue => rw [State.queue_reset]; exact ⟨rfl, by decide⟩
  case shared => rw [State.core_reset]; exact ⟨rfl, rfl, by decide⟩

end Sys2Proof.Machine
end

section
/-!
SUPPORT. How a bundle and a cycle of an engine stream come to the meaning of their words (R60, R112, R164, R165, R171,
R376).
-/
namespace Sys2Proof.Machine

/-! ### A bundle of one word -/

section RunWords
variable {ex : Exec} {s0 s v : State} {c base : Nat} {sh sched : Bool} {w : Slot} {i : Instr}
  (hi : w.instr = some i) (hx : ex i (s.setCur c sh false sched w base) = .next v)
include hi hx

theorem runWords_single_of_went (hv : v.cur.verdict = .went) : runWords ex s0 c sh sched base s [w] = v := by
  simp [runWords, hi, hx, hv]

/-- A fault returns to the state before the bundle (R164), but for the faults that follow their word's effect (R376). -/
theorem runWords_single_of_trap {cause info einfo strm : Nat} (hv : v.cur.verdict = .trap cause info einfo strm) :
    runWords ex s0 c sh sched base s [w] = if cause = 0x0E ∨ cause = 0x12 then v
      else ({ s0 with cur := { v.cur with late := none, ret := false } } : State).ends (.trap cause info einfo strm) := by
  simp [runWords, hi, hx, hv]

end RunWords

/-- One word keeps the limits of R60. -/
theorem badBundle_single (w : Slot) : badBundle [w] = false := by
  have h : ∀ p : Instr → Bool, ¬ 1 < (([w].filterMap (·.instr)).filter p).length := fun p =>
    Nat.not_lt.2 (Nat.le_trans (List.length_filter_le _ _) (List.length_filterMap_le _ _))
  simp only [badBundle, decide_eq_false (h _), Bool.or_false]
  rfl

/-- The state in which the bundle of an agent begins: its line has been fetched (R112). -/
def State.bundleStart (s : State) (c : Nat) (sh sched : Bool) : State :=
  let t := (s.regsOf c (s.stageOf c) sh).str
  let f := s.fetching c sh (s.codeOf c (s.stageOf c) sh) t.line
  let u := f.setCur c sh false sched ⟨t.line, t.slot, 0, none⟩ f.nextId
  { u with cur := { u.cur with late := none, ret := false } }

/-- A stream's place after a bundle is set before its words run. -/
def State.goesOnTo (s : State) (p : Nat × Nat) : State :=
  s.modRegs (fun r => { r with str := { r.str with seqLine := p.1, seqSlot := p.2, redir := none } })

/-- A bundle of one word that decodes: its target is marked, its line can be read. -/
theorem runBundle_single {ex : Exec} {s : State} {c : Nat} {sh sched : Bool} {w : Nat} {i : Instr} {k : Code} {t : Stream}
    {f s0 : State} (hk : k = s.codeOf c (s.stageOf c) sh) (ht : t = (s.regsOf c (s.stageOf c) sh).str)
    (hf : f = s.fetching c sh k t.line) (h0 : s0 = s.bundleStart c sh sched)
    (hw : s0.nextWord k 0 t = some w) (hi : decodeFor 0 w = some i)
    (hc : t.check = true → s0.targetOk k 0 (t.line * 32 + t.slot) = true)
    (hb : s0.bundleGo k (if !sh && !((f.ctx c (s.stageOf c)).getD {}).hnd then s0.ctx c (s.stageOf c) else none) 5 t.line
      t.slot = [⟨t.line, t.slot, w, some i⟩]) :
    runBundle ex s c sh sched =
      let s1 := s0.goesOnTo (s0.nextPos k 0 t.line t.slot)
      runWords ex s1 c sh sched f.nextId s1 [⟨t.line, t.slot, w, some i⟩] := by
  subst hf ht hk h0
  have hgo : ∀ a : Bool, (((s.regsOf c (s.stageOf c) sh).str.check && a && !(s.bundleStart c sh sched).targetOk
      (s.codeOf c (s.stageOf c) sh) 0
        ((s.regsOf c (s.stageOf c) sh).str.line * 32 + (s.regsOf c (s.stageOf c) sh).str.slot)) = true) ↔ False := by
    intro a
    cases hck : (s.regsOf c (s.stageOf c) sh).str.check with
    | false => simp
    | true => simp [hc hck]
  unfold State.bundleStart at hw hb hgo
  simp only [runBundle, runBundleOf, hgo, if_false, hw, hi, hb, badBundle_single]
  simp [State.bundleStart, State.goesOnTo]

/-- Settles O8: the bundle is its one word (`runBundle_single`), whose outcome is then the bundle's. -/
theorem bundleRunsWord : Obligations.BundleRunsWord := by
  intro s c sh sched w i b k t one f s0 s1 u hw hi hc hb
  have h := runBundle_single (ex := exec) (sched := sched) rfl rfl rfl rfl hw hi hc hb
  exact ⟨fun v hx hv => h.trans (runWords_single_of_went rfl hx hv),
    fun v info einfo strm cause hx hv => h.trans (runWords_single_of_trap rfl hx hv)⟩

/-! ### A word of an engine stream -/

/-- Settles O11: none of the conditions stands that `runEngine` checks before the word. -/
theorem engineRunsWord : Obligations.EngineRunsWord := by
  intro s0 s c strm lc base sched n x w i v b k t f late s1 u hx hr hd hw hi hc ha he hv
  have hgo : ∀ a : Bool, (t.check && a && !f.targetOk k strm (t.line * 32 + t.slot)) = false := by
    intro a
    cases hck : t.check with
    | false => rfl
    | true => simp [hc hck]
  have hidle : (strm == 1 && idleBits 1 w == 0 && !t.atRef) = false := by
    by_cases h1 : strm = 1
    · by_cases h2 : idleBits 1 w = 0
      · simp [ha h1 h2]
      · simp [h2]
    · simp [h1]
  dsimp only [b, k, t, f] at hx hr hd hw hc hgo hidle
  rw [runEngine]
  simp only [hx, hr, hd, hgo, hw, hi, hidle, Bool.not_true, Bool.or_self, Option.isNone_some, Bool.false_eq_true, if_false]
  generalize hu : exec i _ = o
  obtain rfl : o = .next v := hu.symm.trans he
  simp only [hv]

end Sys2Proof.Machine
end

section
/-!
SUPPORT. Which bundle a step issues when no event is due and no other work of the cores is (R60, R72, R78, R79).
-/
namespace Sys2Proof.Machine

/-! ### Steps that issue -/

theorem firstCore_append_none {f : Nat → Option State} {l : List Nat} (h : firstCore f l = none) (m : List Nat) :
    firstCore f (l ++ m) = firstCore f m := by
  induction l with
  | nil => rfl
  | cons c l ih =>
    simp only [firstCore] at h
    split at h
    · cases h
    · next hc => simp only [List.cons_append, firstCore, hc, ih h]

/-- After cores that answer nothing, the first that answers is taken. -/
theorem firstCore_of_first {f : Nat → Option State} {l : List Nat} (h : firstCore f l = none) {c : Nat} {u : State}
    (hc : f c = some u) (m : List Nat) : firstCore f (l ++ c :: m) = some u := by
  rw [firstCore_append_none h]
  simp [firstCore, hc]

/-- With no event due and no other work, the step is the issue of the cores. -/
theorem step_of_no_work {s : State} (ha : ∀ e ∈ s.agenda, s.cue < e.1) (hw : s.work (s.cores.map (·.1)) = none) :
    step s = issueCycle exec s := by
  have hc : coreCycle exec s = issueCycle exec s := by simp [coreCycle, workCycle, hw]
  unfold step stepWith
  split
  · next t i a rest hs => exact (if_pos (ha _ (hs ▸ List.mem_cons_self))).trans hc
  · exact hc

section Quiet
variable {s u : State} {pre post : List Nat} {c : Nat} (hl : s.cores.map (·.1) = pre ++ c :: post)
  (ha : ∀ e ∈ s.agenda, s.cue < e.1) (hw : s.work (pre ++ c :: post) = none)
include hl ha hw

theorem step_of_stagehandCycle (hs : firstCore (stagehandCycle exec s) pre = none)
    (hu : stagehandCycle exec s c = some u) : step s = .next u := by
  rw [step_of_no_work ha (hl ▸ hw), issueCycle, hl, firstCore_of_first hs hu]

theorem step_of_programCycle (hs : firstCore (stagehandCycle exec s) (pre ++ c :: post) = none)
    (hp : firstCore (programCycle exec s) pre = none) (hu : programCycle exec s c = some u) : step s = .next u := by
  rw [step_of_no_work ha (hl ▸ hw), issueCycle, hl, hs, firstCore_of_first hp hu]

end Quiet

/-! ### The program's bundle -/

/-- An engine stream of a core's program has no word to issue. -/
def State.engineIdle (s : State) (c strm : Nat) : Prop :=
  ∀ x, s.ctx c (s.stageOf c) = some x → (x.stream strm).going = false

theorem runEngine_of_idle {ex : Exec} {s0 s : State} {c strm lc base : Nat} {sched : Bool} (h : s.engineIdle c strm)
    (n : Nat) : runEngine ex s0 c strm lc base sched n s = s := by
  cases n with
  | zero => rfl
  | succ n =>
    rw [runEngine]
    split
    · rfl
    · next x hx => simp [State.isDue, h x hx]

/-- The streams of a program whose other streams have nothing to issue once its due bundle has. -/
theorem runCycle_of_scalar {ex : Exec} {s u : State} {c b lc : Nat} {bad : Option Nat} {k : Code} {x : Ctx}
    (hd : s.isDue k x 0 lc = true) (hu : runBundle ex s c false (bad == some 0 || x.overran 0 x.regs.str) = u)
    (hb : u.stageOf c = b)
    (he : ∀ y, u.ctx c b = some y → y.hnd = true ∨ (y.vs.going = false ∧ y.ms.going = false)) :
    runCycle ex s c b lc bad k x = u := by
  subst hb
  unfold runCycle
  simp only [hd, if_true, hu]
  cases hx : u.ctx c (u.stageOf c) with
  | none => simp [hx]
  | some y =>
    rcases he y hx with hn | ⟨hv, hm⟩
    · simp [hx, hn]
    · have h1 : u.engineIdle c 1 := fun x hx' => by
        obtain rfl : y = x := Option.some.inj (hx.symm.trans hx'); exact hv
      have h2 : u.engineIdle c 2 := fun x hx' => by
        obtain rfl : y = x := Option.some.inj (hx.symm.trans hx'); exact hm
      simp only [runEngine_of_idle h1, runEngine_of_idle h2, ite_self]

section Program
variable {ex : Exec} {s : State} {c : Nat} {x : Ctx} (hx : s.ctx c (s.stageOf c) = some x)
  (hm : s.mayIssue c (s.stageOf c) x = true) (hs : (s.core c).shAt ≠ s.cue + 1)
include hx hm hs

theorem programCycle_of_handler (hh : x.hnd = true) (hg : x.regs.str.going = true)
    (hd : s.dueAt (s.codeOf c (s.stageOf c) false) 0 x.regs.str ≤ s.cue) :
    programCycle ex s c = some (runBundle ex s c false false) := by
  simp [programCycle, hx, hm, hs, hh, hg, hd]

/-- A program's cycle in which its scalar stream is due and no restart point falls. -/
theorem programCycle_of_program (hh : x.hnd = false)
    (hd : s.isDue (s.codeOf c (s.stageOf c) false) x 0 (x.lcue s.cue) = true)
    (hp : s.point (s.codeOf c (s.stageOf c) false) x (x.lcue s.cue) = .no) :
    programCycle ex s c =
      some (runCycle ex s c (s.stageOf c) (x.lcue s.cue) none (s.codeOf c (s.stageOf c) false) x) := by
  have hany : (List.range 3).any (fun i => s.isDue (s.codeOf c (s.stageOf c) false) x i (x.lcue s.cue)) = true :=
    List.any_eq_true.2 ⟨0, by decide, hd⟩
  simp [programCycle, hx, hm, hs, hh, hany, hp]

end Program

/-- Settles O9: the cycle of the program, whether a handler or not, comes to its bundle alone. -/
theorem stepRunsProgramBundle : Obligations.StepRunsProgramBundle := by
  intro s pre post c x b k lc u hl ha hw hsh hpr hx hm hs hhnd hprog
  refine step_of_programCycle hl ha hw hsh hpr ?_
  cases hh : x.hnd with
  | true =>
    obtain ⟨hg, hd⟩ := hhnd hh
    have hu : u = runBundle exec s c false false := by simp [u, hh]
    rw [hu]
    exact programCycle_of_handler hx hm hs hh hg hd
  | false =>
    obtain ⟨hd, hp, he, hb⟩ := hprog hh
    have hu : runBundle exec s c false (none == some 0 || x.overran 0 x.regs.str) = u := by simp [u, hh]
    rw [programCycle_of_program hx hm hs hh hd hp, runCycle_of_scalar hd hu hb he]

/-! ### The stagehand's bundle -/

theorem State.shMay_eq_some {s : State} {c : Nat} {counted : Bool} (h : s.shMay c = some counted) :
    (s.core c).shAwake = true ∧ s.shCycle c = some counted := by
  unfold State.shMay at h
  split at h
  · next ha => exact ⟨ha, h⟩
  · cases h

/-- The stagehand's due bundle, when its word does not wait. -/
theorem stagehandIssue_of_due {ex : Exec} {s : State} {c : Nat} (ha : (s.core c).shAwake = true)
    (hw : (s.core c).shWatch = none) (hg : (s.core c).sh.str.going = true)
    (hd : s.dueAt (s.codeOf c 0 true) 0 (s.core c).sh.str ≤ s.cue)
    (hf : ∀ f, (runBundle ex s c true false).cur.verdict ≠ .freeze f) :
    stagehandIssue ex s c = some (runBundle ex s c true false) := by
  unfold stagehandIssue
  simp only [ha, hw, hg, Nat.not_lt.2 hd, Bool.not_true, Option.isSome_none, Bool.or_self, decide_false, Bool.false_eq_true,
    if_false]
  cases hv : (runBundle ex s c true false).cur.verdict with
  | freeze f => exact absurd hv (hf f)
  | _ => rfl

theorem stagehandCycle_of_bundle {ex : Exec} {s u : State} {c : Nat} {counted : Bool} (hc : s.shCycle c = some counted)
    (ht : (s.core c).testDue s.cue = none) (hu : stagehandIssue ex s c = some u) (hf : ∀ f, u.cur.verdict ≠ .freeze f) :
    stagehandCycle ex s c = some (u.shTook c counted) := by
  unfold stagehandCycle
  simp only [hc, ht, hu]
  cases hv : u.cur.verdict with
  | freeze f => exact absurd hv (hf f)
  | _ => simp only [Option.map_some, hv]

/-- Settles O10: the cycle of the stagehand comes to its bundle, and `State.shTook` counts it. -/
theorem stepRunsStagehandBundle : Obligations.StepRunsStagehandBundle := by
  intro s pre post c counted u v hl ha hw hsh hmay ht hwatch hg hd hf
  obtain ⟨hawake, hc⟩ := State.shMay_eq_some hmay
  have hi := stagehandIssue_of_due hawake hwatch hg hd hf
  exact step_of_stagehandCycle hl ha hw hsh (stagehandCycle_of_bundle hc ht hi hf)

end Sys2Proof.Machine
end

section
/-!
SUPPORT. Loop boundaries, frame edges and the writes in flight of one kind: what each event leaves (R64, R76, R80 to R82,
R94, R99, R200, R240, R433).
-/
namespace Sys2Proof.Machine

/-! ### Contexts of which the streams alone change -/

/-- `y` is `x` but for its three streams. -/
def Ctx.StreamsOnly (x y : Ctx) : Prop :=
  ∃ a v m, y = { x with regs := { x.regs with str := a }, vs := v, ms := m }

/-- The three streams of a context set one after the other. -/
def Ctx.eachStream (x : Ctx) (f : Ctx → Nat → Stream) : Ctx := (List.range 3).foldl (fun x i => x.setStream i (f x i)) x

namespace Ctx.StreamsOnly

theorem refl (x : Ctx) : x.StreamsOnly x := ⟨_, _, _, rfl⟩

theorem trans {x y z : Ctx} (h : x.StreamsOnly y) (k : y.StreamsOnly z) : x.StreamsOnly z := by
  obtain ⟨_, _, _, rfl⟩ := h
  obtain ⟨a, v, m, rfl⟩ := k
  exact ⟨a, v, m, rfl⟩

theorem setStream (x : Ctx) (strm : Nat) (t : Stream) : x.StreamsOnly (x.setStream strm t) := by
  unfold Ctx.setStream
  split
  · exact ⟨_, _, _, rfl⟩
  · split <;> exact ⟨_, _, _, rfl⟩

theorem eachStream (x : Ctx) (f : Ctx → Nat → Stream) : x.StreamsOnly (x.eachStream f) :=
  ((setStream x 0 _).trans (setStream _ 1 _)).trans (setStream _ 2 _)

theorem keepRef (x y : Ctx) : y.StreamsOnly (x.keepRef y) := by
  unfold Ctx.keepRef
  split
  · exact ⟨_, _, _, rfl⟩
  · exact refl y

end Ctx.StreamsOnly

theorem State.SameBytes.of_setCtx {s : State} {c b : Nat} {x y : Ctx} (hx : s.ctx c b = some x)
    (h1 : y.regs.spill = x.regs.spill) (h2 : y.klatch = x.klatch) : s.SameBytes (s.setCtx c b y) :=
  .of_setCore (Core.setBank_sp ..) (congrArg Regs.spill (Core.setBank_sh ..))
    (Core.bank_setBank_getD _ _ x y hx (fun y => y.regs.spill) h1) (Core.bank_setBank_getD _ _ x y hx (fun y => y.klatch) h2)

/-! ### Loop levels -/

/-- The start of the iteration that a level has due (R64). -/
def Level.boundaryCue (v : Level) : Nat := if v.began then v.start + v.period else v.first

/-- A level whose next iteration has started (R64). -/
def Level.nextIteration (v : Level) : Level :=
  { v with began := true, start := v.boundaryCue, idx := if v.began then v.idx + 1 else 0 }

/-- A level that has ended (R64). -/
def Level.ended (v : Level) : Level := { v with active := false, began := false, idx := v.count }

/-- A context whose level `j` has started its next iteration. -/
def Ctx.beginIteration (x : Ctx) (j : Nat) : Ctx :=
  { x with levels := x.levels.put j (x.levels.get {} j).nextIteration }

/-- A context whose level `j` has ended. -/
def Ctx.finishLevel (x : Ctx) (j : Nat) : Ctx :=
  { x with levels := x.levels.put j (x.levels.get {} j).ended, stack := x.stack.filter (· != j) }

section Levels
variable {s : State} {x : Ctx} (hx : s.ctx s.ev.core (s.stageOf s.ev.core) = some x)
include hx

/-- A boundary leaves the context `y` that has its level changed, but for the streams. -/
theorem exec_loopIterationStart (hi : x.innerActive s.ev.n = false) :
    ∃ y, exec .loopIterationStart s = .next (s.setCtx s.ev.core (s.stageOf s.ev.core) y)
      ∧ (x.beginIteration s.ev.n).StreamsOnly y := by
  let v := x.levels.get {} s.ev.n
  let move := fun y i => s.iterStream (s.codeOf s.ev.core (s.stageOf s.ev.core) false) y s.ev.n v.boundaryCue (!v.began) i
  refine ⟨x.keepRef ((x.beginIteration s.ev.n).eachStream move), ?_, (Ctx.StreamsOnly.eachStream _ _).trans (.keepRef ..)⟩
  change execLoopIterationStart s = _
  simp only [execLoopIterationStart, hx, hi, Bool.false_eq_true, if_false]
  rfl

theorem exec_loopLevelEnd :
    ∃ y, exec .loopLevelEnd s = .next (s.setCtx s.ev.core (s.stageOf s.ev.core) y)
      ∧ (x.finishLevel s.ev.n).StreamsOnly y := by
  let v := x.levels.get {} s.ev.n
  let move := fun y i => s.endStream (s.codeOf s.ev.core (s.stageOf s.ev.core) false) y s.ev.n v.boundaryCue i
  refine ⟨x.keepRef ((x.finishLevel s.ev.n).eachStream move), ?_, (Ctx.StreamsOnly.eachStream _ _).trans (.keepRef ..)⟩
  change execLoopLevelEnd s = _
  simp only [execLoopLevelEnd, hx]
  rfl

end Levels

/-! ### Frames -/

/-- The clock of one bank runs on or stops as its context may run. -/
def State.settleBank (s : State) (c b : Nat) : State :=
  match s.ctx c b with
  | some x =>
    match x.clock, s.runs c b x with
    | .run _, false => s.setCtx c b (x.halt s.cue)
    | .stopped _, true => s.setCtx c b (x.go s.cue)
    | _, _ => s
  | none => s

theorem State.settle_eq (s : State) (c : Nat) : s.settle c = (s.settleBank c 0).settleBank c 1 := rfl

theorem State.settleBank_cue (s : State) (c b : Nat) : (s.settleBank c b).cue = s.cue := by
  unfold State.settleBank
  split
  · split <;> rfl
  · rfl

@[simp] theorem State.settle_cue (s : State) (c : Nat) : (s.settle c).cue = s.cue := by
  rw [State.settle_eq, State.settleBank_cue, State.settleBank_cue]

theorem State.nextEdge_eq (s : State) (c : Nat) : ∃ l, s.nextEdge c = { s with agenda := l } := by
  unfold State.nextEdge
  dsimp only
  split <;> exact ⟨_, rfl⟩

@[simp] theorem State.nextEdge_cue (s : State) (c : Nat) : (s.nextEdge c).cue = s.cue := by
  obtain ⟨l, hl⟩ := s.nextEdge_eq c
  rw [hl]

@[simp] theorem State.ctx_nextEdge (s : State) (c j b : Nat) : (s.nextEdge c).ctx j b = s.ctx j b := by
  obtain ⟨l, hl⟩ := s.nextEdge_eq c
  rw [hl]
  rfl

/-- A world sealed leaves bank 0 empty (R433). -/
theorem State.bank0_sealWorld (s : State) (c w : Nat) (x : Ctx) : ((s.sealWorld c w x).core c).bank0 = none := by
  unfold State.sealWorld
  rw [State.core_modCore]

/-- An edge between frames of different owners, in its own cycle, with no trap entry in progress. -/
theorem exec_frameEdge {s : State} {own old b : Nat} (hn : s.ev.n = 0 ∨ s.cue ≤ s.ev.n)
    (hstart : ((s.core s.ev.core).frameAt s.cue).2.1 = s.cue) (h0 : s.cue ≠ 0)
    (hown : ((s.core s.ev.core).frameAt s.cue).1 = own) (hold : ((s.core s.ev.core).frameAt (s.cue - 1)).1 = old)
    (hne : old ≠ own) (hgap : (s.core s.ev.core).gapEnd ≠ some (s.cue + 16384))
    (hb : b = if old < 4 then 0 else if (s.core s.ev.core).framesWorlds then 1 else (s.core s.ev.core).stage)
    (hentry : ∀ x, s.ctx s.ev.core b = some x → x.entry = none) :
    exec .frameEdge s = .next (
      let u := s.nextEdge s.ev.core
      let u := (u.modCore s.ev.core (fun k => { k with gapEnd := some (u.cue + 16384) })).settle s.ev.core
      let u := (u.modCore s.ev.core (fun k => { k with stage := if own < 4 then 0 else 1 })).settle s.ev.core
      (u.at_ (u.cue + 1) .worldSeal { core := s.ev.core, bank := b }).at_ (u.cue + 16384) .frameGapEnd
        { core := s.ev.core }) := by
  subst hown hold
  have hpassed : (0 < s.ev.n && s.ev.n < s.cue) = false := by
    simp only [Bool.and_eq_false_iff, decide_eq_false_iff_not]
    omega
  change execFrameEdge s = _
  unfold execFrameEdge
  simp only [hpassed, hstart, h0, hne, ← hb, bne_self_eq_false, Bool.false_and, Bool.false_eq_true, if_false, beq_iff_eq,
    State.ctx_nextEdge]
  cases hx : s.ctx s.ev.core b with
  | none => simp [hgap]
  | some x => simp [hgap, hentry x hx]

/-- The outgoing world is sealed where its context stands in bank 0, and the incoming one restored (R81, R433). -/
theorem exec_worldSeal {s u : State} {x : Ctx} {own : Nat} (hown : ((s.core s.ev.core).frameAt s.cue).1 = own)
    (hu : (s.drain s.ev.core s.ev.bank).emitWhere (dieOf s.ev.core) (fun l => l.hasCtx s.ev.core s.ev.bank) = u)
    (hx : u.ctx s.ev.core 0 = some x) (hw : x.own < 4) (hne : x.own ≠ own)
    (hl : bitAt (u.core s.ev.core).wlive.toNat x.own = true) :
    exec .worldSeal s = .next (
      let v := u.sealWorld s.ev.core x.own x
      match (v.core s.ev.core).sealed.find? (fun (e : Nat × Ctx) => e.1 == own) with
      | some (_, y) =>
        if bitAt (v.core s.ev.core).wlive.toNat own then (v.restoreWorld s.ev.core own y).settle s.ev.core else v
      | none => v) := by
  subst hown hu
  have hb : (x.own != ((s.core s.ev.core).frameAt s.cue).1) = true := bne_iff_ne.2 hne
  change execWorldSeal s = _
  simp only [execWorldSeal, hx, hw, hb, hl, decide_true, Bool.and_self, if_true, State.bank0_sealWorld]
  generalize List.find? _ _ = found
  cases found <;> rfl

theorem exec_frameGapEnd {s : State} (h : (s.core s.ev.core).gapEnd = some s.cue) :
    exec .frameGapEnd s = .next (((((s.modCore s.ev.core (fun k => { k with gapEnd := none })).releaseToks s.ev.core).settle
      s.ev.core).tryExchange s.ev.core).pump s.ev.core) := by
  change execFrameGapEnd s = _
  simp [execFrameGapEnd, timeCome, h]

/-! ### Writes that events make -/

/-- The delayed write of a program that is due first is made when its banks are free, else it waits one cycle more (R99). -/
theorem State.delayedWrite_of_due {s : State} {c b : Nat} {x : Ctx} {p : Pend} {ps : List Pend} (hx : s.ctx c b = some x)
    (hp : s.dueList c b false = p :: ps) :
    s.delayedWrite c b = if x.bankFree (x.line s.cue - 1) p.w then
        ((s.modRegsOf c b false (fun r => { r with pend := r.pend.filter (fun q => q != p) })).modCtx c b
          (·.serveLate (x.line s.cue - 1) p.w)).applyList c b false (p :: ps) [p] false
      else s.modRegsOf c b false (fun r => { r with
        pend := r.pend.map (fun q => if q == p then { p with due := x.line s.cue + 1 } else q) }) := by
  simp only [State.delayedWrite, hx, hp]

theorem b2n_lt_two (p : Bool) : b2n p < 2 := by cases p <;> decide

theorem b2n_beq_one (p : Bool) : (b2n p == 1) = p := by cases p <;> rfl

/-- The bits of a word made of a field below bit 6 and of two bits, 8 and 9. -/
theorem bitAt_add_sticky (m : Nat) (p q : Bool) :
    bitAt (m % 64 + b2n p * 2 ^ 8 + b2n q * 2 ^ 9) 8 = p ∧ bitAt (m % 64 + b2n p * 2 ^ 8 + b2n q * 2 ^ 9) 9 = q := by
  have hp := b2n_lt_two p
  have hq := b2n_lt_two q
  have h8 : (m % 64 + b2n p * 2 ^ 8 + b2n q * 2 ^ 9) / 2 ^ 8 % 2 = b2n p := by omega
  have h9 : (m % 64 + b2n p * 2 ^ 8 + b2n q * 2 ^ 9) / 2 ^ 9 % 2 = b2n q := by omega
  rw [bitAt, bitAt, h8, h9]
  exact ⟨b2n_beq_one p, b2n_beq_one q⟩

/-- The value that a write of `YCTL` leaves, from its `POINT` and its two sticky bits (R46). -/
theorem Ctx.toNat_putYctl (x : Ctx) (n : Nat) (v : DWord) :
    ((x.putYctl n v).yctl.get 0 (n - 0x40)).toNat = v.toNat % 64
      + b2n (bitAt (x.yctl.get 0 (n - 0x40)).toNat 8 && !bitAt v.toNat 8) * 2 ^ 8
      + b2n (bitAt (x.yctl.get 0 (n - 0x40)).toNat 9 && !bitAt v.toNat 9) * 2 ^ 9 := by
  have h8 := b2n_lt_two (bitAt (x.yctl.get 0 (n - 0x40)).toNat 8 && !bitAt v.toNat 8)
  have h9 := b2n_lt_two (bitAt (x.yctl.get 0 (n - 0x40)).toNat 9 && !bitAt v.toNat 9)
  simp only [Ctx.putYctl, Tab.get_put_same, BitVec.toNat_ofNat]
  omega

theorem Ctx.bits_point_putYctl (x : Ctx) (n : Nat) (v : DWord) :
    bits ((x.putYctl n v).yctl.get 0 (n - 0x40)).toNat 5 0 = bits v.toNat 5 0 := by
  rw [Ctx.toNat_putYctl]
  simp only [bits]
  omega

theorem Ctx.bitAt_sticky_putYctl (x : Ctx) (n : Nat) (v : DWord) {i : Nat} (hi : i = 8 ∨ i = 9) :
    bitAt ((x.putYctl n v).yctl.get 0 (n - 0x40)).toNat i
      = (bitAt (x.yctl.get 0 (n - 0x40)).toNat i && !bitAt v.toNat i) := by
  rw [Ctx.toNat_putYctl]
  rcases hi with rfl | rfl
  · exact (bitAt_add_sticky ..).1
  · exact (bitAt_add_sticky ..).2

/-- Settles O55: a lemma for each event (`exec_loopIterationStart` and its like); where the event is one operation of the
model on its operands, as for the writes of one kind, by unfolding it. -/
theorem loopFrameAndWriteEvents : Obligations.LoopFrameAndWriteEvents := by
  refine ⟨fun s x hx hi => ?start, fun s x hx => ?finish, fun s => rfl, ?edge, ?worldSeal, fun s h => exec_frameGapEnd h,
    fun s => ?writes, fun s => rfl, fun s x hx => ?yctl, fun s hm hf => ?creg, fun s hm hf => ?page,
    fun s hm hb ht => ?host⟩
  case start =>
    obtain ⟨y, he, a, v, m, rfl⟩ := exec_loopIterationStart hx hi
    refine ⟨_, _, he, State.ctx_setCtx .., ?_⟩
    have hl : (x.beginIteration s.ev.n).levels.get {} s.ev.n = (x.levels.get {} s.ev.n).nextIteration := Tab.get_put_same ..
    simp only [hl]
    exact ⟨rfl, rfl, rfl, rfl, rfl, rfl, rfl, .of_setCtx hx rfl rfl⟩
  case finish =>
    obtain ⟨y, he, a, v, m, rfl⟩ := exec_loopLevelEnd hx
    refine ⟨_, _, he, State.ctx_setCtx .., ?_⟩
    have hl : (x.finishLevel s.ev.n).levels.get {} s.ev.n = (x.levels.get {} s.ev.n).ended := Tab.get_put_same ..
    simp only [hl]
    exact ⟨rfl, rfl, rfl, rfl, rfl, .of_setCtx hx rfl rfl⟩
  case edge =>
    intro s c k own old b hn hstart h0 hne hgap hentry
    exact exec_frameEdge hn hstart h0 rfl rfl hne hgap rfl hentry
  case worldSeal =>
    intro s x c own u hx hw hne hl
    exact exec_worldSeal rfl rfl hx hw hne hl
  case writes =>
    refine ⟨rfl, fun hz => ?_, fun hz x p ps hx hp => ?_, rfl, rfl, rfl⟩
    · change execInterlockedDelayedWrite s = .next (s.applyKind s.ev.core s.ev.bank s.ev.flag 1)
      rw [execInterlockedDelayedWrite, if_pos hz, hz]
    · change execInterlockedDelayedWrite s = _
      rw [execInterlockedDelayedWrite, if_neg (by simp [hz]), State.delayedWrite_of_due hx hp]
  case yctl =>
    refine ⟨_, x.putYctl s.ev.n s.ev.value, rfl, ?_, Ctx.bits_point_putYctl .., fun i hi => Ctx.bitAt_sticky_putYctl _ _ _ hi,
      .of_modCtx (fun _ => rfl) (fun _ => rfl)⟩
    rw [State.ctx_modCtx, hx]; rfl
  case creg =>
    change execRegisterWrite s = _
    rw [execRegisterWrite, if_neg hm, if_pos hf]
  case page =>
    change execRegisterWrite s = _
    rw [execRegisterWrite, if_neg hm, if_neg (by simp [hf])]
  case host =>
    have hup : s.hostUp = true := by simp [State.hostUp, hb, ht]
    refine ⟨fun hf => ?_, fun hf => ?_⟩
    all_goals
      change execRegisterWrite s = _
      simp [execRegisterWrite, hm, State.hostAccess, hup, hf]

end Sys2Proof.Machine
end
